-- ==== Sys2Proof/Word.lean ====
section
/-! DEFINITION. Word and register-name types of the Gwynmen M7 (spec/02 R15, R16; spec/04 R64–R68). -/
namespace Sys2Proof

/-- A 64-bit register, control register or program counter. -/
abbrev Word := BitVec 64

/-- One byte of memory (R5: the byte at the lowest address holds bits [7:0]). -/
abbrev Byte := BitVec 8

/-- One 32-bit lane (R15). -/
abbrev Lane := BitVec 32

/-- 256 bytes seen as 64 lanes: a vector register, a queue entry, half a tile row (R15, R19, R264). -/
abbrev Vec := Vector Lane 64

/-- Every lane zero. -/
abbrev Vec.zero : Vec := Vector.replicate 64 0

/-- s0–s31, a0–a31 or x0–x31 (R15). -/
abbrev Reg := Fin 32
/-- A handle number (R49). -/
abbrev Handle := Fin 1024
/-- An element type code (R66). -/
abbrev ElemCode := BitVec 6
abbrev VReg := Fin 64
abbrev PReg := Fin 16
abbrev CFlag := Fin 8
abbrev BtReg := Fin 4
abbrev TReg := Fin 8
abbrev ZReg := Fin 4
/-- lq0–lq3 (R65). -/
abbrev LqNum := Fin 4
/-- The four-bit register fields of the AC and AE formats: a0–a15 (R76). -/
abbrev ShortReg := Fin 16

/-- The three streams of a core (R15). -/
inductive StreamId where
  | C | A | X
  deriving DecidableEq, Repr, Inhabited

/-- The turn of an operation at a unit of the archive chips: which of its elements is next (R323), or at which chip it goes on (R321, R326). -/
structure UnitTurn where
  op : Nat
  part : Nat
  deriving DecidableEq, Repr, Inhabited

end Sys2Proof
end

