-- ==== Sys2Proof/Machine/Flags.lean ====
section
/-! DEFINITION. Integer arithmetic and the conditions that set flags and predicates (R92–R94, R68). -/
namespace Sys2Proof.Machine

/-- The integer operations of R92. -/
inductive Alu where
  | add | sub | and | or | xor | shl | shr | sra | mul | mulh | mulhu | div | rem | min | max
  | seq | sne | slt | sltu | sle | sleu
  deriving DecidableEq, Repr

/-- R92 and R93 on 64-bit values; `n` is b[5:0]. -/
def aluOp (o : Alu) (a b : Word) : Word :=
  let n := b.toNat % 64
  match o with
  | .add => a + b
  | .sub => a - b
  | .and => a &&& b
  | .or => a ||| b
  | .xor => a ^^^ b
  | .shl => a <<< n
  | .shr => a >>> n
  | .sra => a.sshiftRight n
  | .mul => a * b
  | .mulh => BitVec.ofInt 64 ((a.toInt * b.toInt) / 2 ^ 64)
  | .mulhu => BitVec.ofNat 64 (a.toNat * b.toNat / 2 ^ 64)
  | .div => if b = 0 then BitVec.allOnes 64 else BitVec.ofInt 64 (a.toInt.tdiv b.toInt)
  | .rem => if b = 0 then a else BitVec.ofInt 64 (a.toInt.tmod b.toInt)
  | .min => if a.toInt ≤ b.toInt then a else b
  | .max => if a.toInt ≤ b.toInt then b else a
  | .seq => if a = b then 1 else 0
  | .sne => if a = b then 0 else 1
  | .slt => if a.toInt < b.toInt then 1 else 0
  | .sltu => if a.toNat < b.toNat then 1 else 0
  | .sle => if a.toInt ≤ b.toInt then 1 else 0
  | .sleu => if a.toNat ≤ b.toNat then 1 else 0

/-- Leading zero bits of a word, 0 to 64 (R92). -/
def leadingZeros (a : Word) : Nat := ((List.range 64).takeWhile (fun i => !a.getLsbD (63 - i))).length

/-- Set bits of a word, 0 to 64 (R92, R174). -/
def popCount (a : Word) : Nat := ((List.range 64).filter (fun i => a.getLsbD i)).length

/-- The branch conditions of R95 and R132. -/
inductive Cond where
  | eq | ne | lt | ge | ltu | geu
  deriving DecidableEq, Repr

/-- A branch condition on two registers (R95). -/
def condHolds (c : Cond) (a b : Word) : Bool :=
  match c with
  | .eq => a == b
  | .ne => a != b
  | .lt => decide (a.toInt < b.toInt)
  | .ge => decide (b.toInt ≤ a.toInt)
  | .ltu => decide (a.toNat < b.toNat)
  | .geu => decide (b.toNat ≤ a.toNat)

/-- VCMP's condition codes (R68, R178) on two lanes: `.eq` to `.ge` signed, `.ltu` to `.geu` unsigned. -/
def laneCond (code : Nat) (a b : Lane) : Bool :=
  match code with
  | 0 => a == b
  | 1 => a != b
  | 2 => decide (a.toInt < b.toInt)
  | 3 => decide (a.toInt ≤ b.toInt)
  | 4 => decide (b.toInt < a.toInt)
  | 5 => decide (b.toInt ≤ a.toInt)
  | 6 => decide (a.toNat < b.toNat)
  | 7 => decide (a.toNat ≤ b.toNat)
  | 8 => decide (b.toNat < a.toNat)
  | _ => decide (b.toNat ≤ a.toNat)

/-- VFCMP's condition codes (R68, R178), from the comparison of two floating-point values; none when either is a NaN. -/
def floatCond (code : Nat) (o : Option Ordering) : Bool :=
  match o with
  | none => code == 1
  | some o =>
    match code with
    | 0 => o == .eq
    | 1 => o != .eq
    | 2 => o == .lt
    | 3 => o != .gt
    | 4 => o == .gt
    | _ => o != .lt

end Sys2Proof.Machine
end

