-- ==== Sys2Proof/Config.lean ====
section
/-! DEFINITION. The values the manual leaves open: opaque constants that no proof can see. -/
namespace Sys2Proof

/-- A free value: the n-th value the manual leaves open, as bits of any width (R16, R39, R264; DESIGN CHOICE, log 4). -/
opaque Config.freeBits : Nat → Nat

/-- The signature of the security block over a report (R375; PRESUMED, log 30). -/
opaque Config.signature : List Byte → Nat → Byte

/-- The four measurements of boot (R373 step 2; PRESUMED, log 30): measurement, byte. -/
opaque Config.measurement : Nat → Nat → Byte

end Sys2Proof
end

