-- ==== Sys2Proof/Syntax.lean ====
section
/-! DEFINITION. The instructions and the events of the Gwynmen M7: one constructor for each row of spec/opcode_table.json.
 The field `y` is the sync field WL WR SL SR (R26), `g` the governing predicate (R166), `wd` the command bound word of R39, R81. -/
namespace Sys2Proof

/-- Events with parameters, 72 C-stream, 98 A-stream and 118 X-stream instructions (R72, R79, R83), then the
events without parameters. -/
inductive Instr where
  | tokenWaitResume (st : StreamId)
  | queueWaitResume (st : StreamId)
  | scoreboardWaitResume (st : StreamId)
  | commitWaitResume (st : StreamId)
  | loadDataArrival (op : Nat)
  | watchdogExpiry (st : StreamId)
  | commandBoundExpiry (op : Nat)
  | sectorCommit (op : Nat)
  | writeTransactionCommit (op : Nat)
  | copyCompletion (op : Nat)
  | atomicCommit (op : Nat)
  | nmUnitUpdate (turn : UnitTurn)
  | echoApply (op : Nat)
  | poolPartialReturn (turn : UnitTurn)
  | attentionPartialReturn (turn : UnitTurn)
  | claimEnd (claim : Nat)
  | claimTimeout (claim : Nat) (op : Nat)
  | dscanBlockRebuild (op : Nat)
  | digestFillComplete (op : Nat)
  | digestWritebackEnd (slot : Nat)
  | waitaWake (grove : Nat)
  | barrierComplete (level : BitVec 2)
  | doorbell (mailbox : Nat)
  | softPreemptTimeout (launch : Nat)
  | overlayLoad (launch : Nat)
  | preemptSaveBegin (launch : Nat)
  | saveEnd (launch : Nat)
  | saveBroken (launch : Nat)
  | teamRestore (launch : Nat)
  | budgetExpiry (launch : Nat)
  | launchDone (launch : Nat)
  | migrationDrainEnd (mig : Nat)
  | migrationArrival (mig : Nat)
  | rdupInvalidateAck (op : Nat)
  | backInvalidateResponse (op : Nat)
  | collectiveComplete (op : Nat)
  | collectiveDeadline (op : Nat)
  | groupOpen (group : Nat)
  | groupClose (group : Nat)
  | groupOpenConfirmed (group : Nat)
  | groupOpenTimeout (group : Nat)
  | groupCloseComplete (group : Nat)
  | sessionReopen (group : Nat)
  | linkBringup (link : Nat)
  | linkRekey (link : Nat)
  | frameReceive (link : Nat)
  | tunnelRetransmit (link : Nat)
  | flitCrcRetry (link : Nat)
  | hostRequestCompletion (op : Nat)
  | bootStep (ok : Bool)
  | stampPatrolVisit (granule : Nat)
  | channelFailure (channel : Nat)
  | channelRetirementEnd (channel : Nat)
  | stampCheckAnswer (op : Nat)
  | registerValueArrival (op : Nat)
  | cAdd (y : BitVec 4) (d : Reg) (a : Reg) (b : Reg)
  | cSub (y : BitVec 4) (d : Reg) (a : Reg) (b : Reg)
  | cAnd (y : BitVec 4) (d : Reg) (a : Reg) (b : Reg)
  | cOr (y : BitVec 4) (d : Reg) (a : Reg) (b : Reg)
  | cXor (y : BitVec 4) (d : Reg) (a : Reg) (b : Reg)
  | cShl (y : BitVec 4) (d : Reg) (a : Reg) (b : Reg)
  | cShr (y : BitVec 4) (d : Reg) (a : Reg) (b : Reg)
  | cSra (y : BitVec 4) (d : Reg) (a : Reg) (b : Reg)
  | cMul (y : BitVec 4) (d : Reg) (a : Reg) (b : Reg)
  | cMulh (y : BitVec 4) (d : Reg) (a : Reg) (b : Reg)
  | cMulhu (y : BitVec 4) (d : Reg) (a : Reg) (b : Reg)
  | cDiv (y : BitVec 4) (d : Reg) (a : Reg) (b : Reg)
  | cRem (y : BitVec 4) (d : Reg) (a : Reg) (b : Reg)
  | cMin (y : BitVec 4) (d : Reg) (a : Reg) (b : Reg)
  | cMax (y : BitVec 4) (d : Reg) (a : Reg) (b : Reg)
  | cAddi (y : BitVec 4) (d : Reg) (a : Reg) (imm : BitVec 11)
  | cAndi (y : BitVec 4) (d : Reg) (a : Reg) (imm : BitVec 11)
  | cOri (y : BitVec 4) (d : Reg) (a : Reg) (imm : BitVec 11)
  | cXori (y : BitVec 4) (d : Reg) (a : Reg) (imm : BitVec 11)
  | cShli (y : BitVec 4) (d : Reg) (a : Reg) (n : BitVec 6)
  | cShri (y : BitVec 4) (d : Reg) (a : Reg) (n : BitVec 6)
  | cSrai (y : BitVec 4) (d : Reg) (a : Reg) (n : BitVec 6)
  | cLi (y : BitVec 4) (d : Reg) (imm : BitVec 16)
  | cLui (y : BitVec 4) (d : Reg) (imm : BitVec 16)
  | cSeq (y : BitVec 4) (d : Reg) (a : Reg) (b : Reg)
  | cSne (y : BitVec 4) (d : Reg) (a : Reg) (b : Reg)
  | cSlt (y : BitVec 4) (d : Reg) (a : Reg) (b : Reg)
  | cSltu (y : BitVec 4) (d : Reg) (a : Reg) (b : Reg)
  | cSle (y : BitVec 4) (d : Reg) (a : Reg) (b : Reg)
  | cSleu (y : BitVec 4) (d : Reg) (a : Reg) (b : Reg)
  | cClz (y : BitVec 4) (d : Reg) (a : Reg)
  | cPopc (y : BitVec 4) (d : Reg) (a : Reg)
  | cB (y : BitVec 4) (o : BitVec 16)
  | cBeq (y : BitVec 4) (a : Reg) (b : Reg) (o : BitVec 11)
  | cBne (y : BitVec 4) (a : Reg) (b : Reg) (o : BitVec 11)
  | cBlt (y : BitVec 4) (a : Reg) (b : Reg) (o : BitVec 11)
  | cBge (y : BitVec 4) (a : Reg) (b : Reg) (o : BitVec 11)
  | cBltu (y : BitVec 4) (a : Reg) (b : Reg) (o : BitVec 11)
  | cBgeu (y : BitVec 4) (a : Reg) (b : Reg) (o : BitVec 11)
  | cCall (y : BitVec 4) (d : Reg) (o : BitVec 16)
  | cRet (y : BitVec 4) (a : Reg)
  | cLoop (y : BitVec 4) (a : Reg) (e : BitVec 16)
  | cCsrr (y : BitVec 4) (d : Reg) (csr : BitVec 11)
  | cCsrw (y : BitVec 4) (a : Reg) (csr : BitVec 11)
  | cCsrs (y : BitVec 4) (a : Reg) (csr : BitVec 11)
  | cCsrc (y : BitVec 4) (a : Reg) (csr : BitVec 11)
  | cLdw (y : BitVec 4) (d : Reg) (a : Reg) (o : BitVec 11)
  | cStw (y : BitVec 4) (d : Reg) (a : Reg) (o : BitVec 11)
  | cFpush (y : BitVec 4) (a : Reg)
  | cFpushi (y : BitVec 4) (imm : BitVec 21)
  | cTshape (y : BitVec 4) (t : BitVec 4) (a : Reg)
  | cSeal (y : BitVec 4) (h : Handle) (a : Reg)
  | cUnseal (y : BitVec 4) (h : Handle)
  | cDbar (y : BitVec 4) (l : BitVec 2)
  | cGenf (y : BitVec 4)
  | cBound (y : BitVec 4) (a : Reg)
  | cMigrate (y : BitVec 4) (h : Handle) (a : Reg) (b : Reg) (t : Bool)
  | cFence (y : BitVec 4) (o : BitVec 2) (sc : BitVec 2)
  | cFlush (y : BitVec 4) (h : Handle) (a : Reg) (b : Reg)
  | cTsig (y : BitVec 4) (side : Bool) (n : BitVec 8)
  | cTwait (y : BitVec 4) (side : Bool) (n : BitVec 8)
  | cTapec (y : BitVec 4) (h : Handle) (a : Reg)
  | cTrap (y : BitVec 4) (code : BitVec 16)
  | cRtt (y : BitVec 4)
  | cHalt (y : BitVec 4)
  | cWfe (y : BitVec 4)
  | cLttw (y : BitVec 4) (a : Reg) (b : Reg)
  | cLttinv (y : BitVec 4) (a : Reg)
  | cDreg (y : BitVec 4) (a : Reg) (b : Reg)
  | cDfree (y : BitVec 4) (a : Reg)
  | cSavec (y : BitVec 4) (a : Reg) (b : Reg)
  | cRestc (y : BitVec 4) (a : Reg) (b : Reg)
  | aAdd (y : BitVec 4) (d : Reg) (a : Reg) (b : Reg)
  | aSub (y : BitVec 4) (d : Reg) (a : Reg) (b : Reg)
  | aAnd (y : BitVec 4) (d : Reg) (a : Reg) (b : Reg)
  | aOr (y : BitVec 4) (d : Reg) (a : Reg) (b : Reg)
  | aXor (y : BitVec 4) (d : Reg) (a : Reg) (b : Reg)
  | aShl (y : BitVec 4) (d : Reg) (a : Reg) (b : Reg)
  | aShr (y : BitVec 4) (d : Reg) (a : Reg) (b : Reg)
  | aSra (y : BitVec 4) (d : Reg) (a : Reg) (b : Reg)
  | aMul (y : BitVec 4) (d : Reg) (a : Reg) (b : Reg)
  | aMin (y : BitVec 4) (d : Reg) (a : Reg) (b : Reg)
  | aMax (y : BitVec 4) (d : Reg) (a : Reg) (b : Reg)
  | aSeq (y : BitVec 4) (d : Reg) (a : Reg) (b : Reg)
  | aSne (y : BitVec 4) (d : Reg) (a : Reg) (b : Reg)
  | aSlt (y : BitVec 4) (d : Reg) (a : Reg) (b : Reg)
  | aSltu (y : BitVec 4) (d : Reg) (a : Reg) (b : Reg)
  | aAddi (y : BitVec 4) (d : Reg) (a : Reg) (imm : BitVec 32)
  | aAndi (y : BitVec 4) (d : Reg) (a : Reg) (imm : BitVec 32)
  | aShli (y : BitVec 4) (d : Reg) (a : Reg) (n : BitVec 6)
  | aShri (y : BitVec 4) (d : Reg) (a : Reg) (n : BitVec 6)
  | aLi (y : BitVec 4) (d : Reg) (imm : BitVec 32)
  | aLui (y : BitVec 4) (d : Reg) (imm : BitVec 32)
  | aB (y : BitVec 4) (o : BitVec 16)
  | aBeq (y : BitVec 4) (a : Reg) (b : Reg) (o : BitVec 16)
  | aBne (y : BitVec 4) (a : Reg) (b : Reg) (o : BitVec 16)
  | aBlt (y : BitVec 4) (a : Reg) (b : Reg) (o : BitVec 16)
  | aBge (y : BitVec 4) (a : Reg) (b : Reg) (o : BitVec 16)
  | aBltu (y : BitVec 4) (a : Reg) (b : Reg) (o : BitVec 16)
  | aBgeu (y : BitVec 4) (a : Reg) (b : Reg) (o : BitVec 16)
  | aLoop (y : BitVec 4) (a : Reg) (e : BitVec 16)
  | aBrq (y : BitVec 4) (qual : BitVec 4) (o : BitVec 16)
  | aOpush (y : BitVec 4) (a : Reg)
  | aVqpop (y : BitVec 4) (d : Reg)
  | aBound (y : BitVec 4) (a : Reg)
  | aEnd (y : BitVec 4)
  | aNop (y : BitVec 4)
  | aLd8 (y : BitVec 4) (q : LqNum) (h : Handle) (cf : Reg) (b : Reg) (ty : ElemCode) (o : BitVec 2) (sc : BitVec 2)
  | aLd16 (y : BitVec 4) (q : LqNum) (h : Handle) (cf : Reg) (b : Reg) (ty : ElemCode) (o : BitVec 2) (sc : BitVec 2)
  | aLd32 (y : BitVec 4) (q : LqNum) (h : Handle) (cf : Reg) (b : Reg) (ty : ElemCode) (o : BitVec 2) (sc : BitVec 2)
  | aLd64 (y : BitVec 4) (q : LqNum) (h : Handle) (cf : Reg) (b : Reg) (ty : ElemCode) (o : BitVec 2) (sc : BitVec 2)
  | aSt8 (y : BitVec 4) (h : Handle) (cf : Reg) (b : Reg) (ty : ElemCode) (o : BitVec 2) (sc : BitVec 2)
  | aSt16 (y : BitVec 4) (h : Handle) (cf : Reg) (b : Reg) (ty : ElemCode) (o : BitVec 2) (sc : BitVec 2)
  | aSt32 (y : BitVec 4) (h : Handle) (cf : Reg) (b : Reg) (ty : ElemCode) (o : BitVec 2) (sc : BitVec 2)
  | aSt64 (y : BitVec 4) (h : Handle) (cf : Reg) (b : Reg) (ty : ElemCode) (o : BitVec 2) (sc : BitVec 2)
  | aLdt (y : BitVec 4) (q : LqNum) (h : Handle) (cf : Reg)
  | aStt (y : BitVec 4) (h : Handle) (cf : Reg)
  | aLdi (y : BitVec 4) (q : LqNum) (a : Reg)
  | aLdv (y : BitVec 4) (q : LqNum) (d : Reg) (h : Handle) (cf : Reg) (b : Reg) (o : BitVec 2) (sc : BitVec 2)
  | aLdvBqa (y : BitVec 4) (q : LqNum) (d : Reg) (h : Handle) (cf : Reg) (b : Reg) (o : BitVec 2) (sc : BitVec 2)
  | aLda8 (y : BitVec 4) (d : Reg) (h : Handle) (cf : Reg) (ty : ElemCode) (o : BitVec 2) (sc : BitVec 2)
  | aLda16 (y : BitVec 4) (d : Reg) (h : Handle) (cf : Reg) (ty : ElemCode) (o : BitVec 2) (sc : BitVec 2)
  | aLda32 (y : BitVec 4) (d : Reg) (h : Handle) (cf : Reg) (ty : ElemCode) (o : BitVec 2) (sc : BitVec 2)
  | aLda64 (y : BitVec 4) (d : Reg) (h : Handle) (cf : Reg) (ty : ElemCode) (o : BitVec 2) (sc : BitVec 2)
  | aSta8 (y : BitVec 4) (h : Handle) (cf : Reg) (b : Reg) (ty : ElemCode) (o : BitVec 2) (sc : BitVec 2)
  | aSta16 (y : BitVec 4) (h : Handle) (cf : Reg) (b : Reg) (ty : ElemCode) (o : BitVec 2) (sc : BitVec 2)
  | aSta32 (y : BitVec 4) (h : Handle) (cf : Reg) (b : Reg) (ty : ElemCode) (o : BitVec 2) (sc : BitVec 2)
  | aSta64 (y : BitVec 4) (h : Handle) (cf : Reg) (b : Reg) (ty : ElemCode) (o : BitVec 2) (sc : BitVec 2)
  | aCpy (y : BitVec 4) (tok : ShortReg) (hd : Handle) (dcf : ShortReg) (hs : Handle) (scf : ShortReg) (len : ShortReg) (wd : BitVec 16)
  | aCpy2d (y : BitVec 4) (tok : ShortReg) (hd : Handle) (dcf : ShortReg) (hs : Handle) (scf : ShortReg) (len : ShortReg) (wd : BitVec 16)
  | aCpyx (y : BitVec 4) (tok : ShortReg) (hd : Handle) (dcf : ShortReg) (hs : Handle) (scf : ShortReg) (len : ShortReg) (wd : BitVec 16)
  | aDqry (y : BitVec 4) (qual : BitVec 4) (d : Reg) (h : Handle) (cf : Reg)
  | aDqryv (y : BitVec 4) (qual : BitVec 4) (q : LqNum) (h : Handle) (cf : Reg) (b : Reg)
  | aDqpf (y : BitVec 4) (h : Handle) (cf : Reg) (b : Reg)
  | aDscan (y : BitVec 4) (h : Handle) (cf : Reg) (b : Reg)
  | aFence (y : BitVec 4) (o : BitVec 2) (sc : BitVec 2)
  | aWaita (y : BitVec 4) (h : Handle) (cf : Reg)
  | aAaddI32 (y : BitVec 4) (h : Handle) (cf : Reg) (b : Reg) (o : BitVec 2) (sc : BitVec 2)
  | aAaddI64 (y : BitVec 4) (h : Handle) (cf : Reg) (b : Reg) (o : BitVec 2) (sc : BitVec 2)
  | aAaddF32 (y : BitVec 4) (h : Handle) (cf : Reg) (b : Reg) (o : BitVec 2) (sc : BitVec 2)
  | aAmin (y : BitVec 4) (h : Handle) (cf : Reg) (b : Reg) (ty : ElemCode) (o : BitVec 2) (sc : BitVec 2)
  | aAmax (y : BitVec 4) (h : Handle) (cf : Reg) (b : Reg) (ty : ElemCode) (o : BitVec 2) (sc : BitVec 2)
  | aAand (y : BitVec 4) (h : Handle) (cf : Reg) (b : Reg) (ty : ElemCode) (o : BitVec 2) (sc : BitVec 2)
  | aAor (y : BitVec 4) (h : Handle) (cf : Reg) (b : Reg) (ty : ElemCode) (o : BitVec 2) (sc : BitVec 2)
  | aAxor (y : BitVec 4) (h : Handle) (cf : Reg) (b : Reg) (ty : ElemCode) (o : BitVec 2) (sc : BitVec 2)
  | aAfaddI32 (y : BitVec 4) (d : Reg) (h : Handle) (cf : Reg) (b : Reg) (o : BitVec 2) (sc : BitVec 2)
  | aAfaddI64 (y : BitVec 4) (d : Reg) (h : Handle) (cf : Reg) (b : Reg) (o : BitVec 2) (sc : BitVec 2)
  | aAfaddF32 (y : BitVec 4) (d : Reg) (h : Handle) (cf : Reg) (b : Reg) (o : BitVec 2) (sc : BitVec 2)
  | aAxchg (y : BitVec 4) (d : Reg) (h : Handle) (cf : Reg) (b : Reg) (ty : ElemCode) (o : BitVec 2) (sc : BitVec 2)
  | aAcas (y : BitVec 4) (d : Reg) (h : Handle) (cf : Reg) (b : Reg) (x : Reg) (ty : ElemCode) (o : BitVec 2) (sc : BitVec 2)
  | aAscat (y : BitVec 4) (h : Handle) (cf : Reg) (b : Reg) (ty : ElemCode)
  | aNmaddI32 (y : BitVec 4) (h : Handle) (cf : Reg) (b : Reg)
  | aNmaddF32 (y : BitVec 4) (h : Handle) (cf : Reg) (b : Reg)
  | aNmmin (y : BitVec 4) (h : Handle) (cf : Reg) (b : Reg) (ty : ElemCode)
  | aNmmax (y : BitVec 4) (h : Handle) (cf : Reg) (b : Reg) (ty : ElemCode)
  | aNmfence (y : BitVec 4)
  | aEmbag (y : BitVec 4) (q : LqNum) (ha : Handle) (acf : ShortReg) (hb : Handle) (bcf : ShortReg) (n : ShortReg)
  | aKvatt (y : BitVec 4) (q : LqNum) (ha : Handle) (acf : ShortReg) (hb : Handle) (bcf : ShortReg) (n : ShortReg)
  | aPut (y : BitVec 4) (tok : ShortReg) (hd : Handle) (dcf : ShortReg) (hs : Handle) (scf : ShortReg) (len : ShortReg) (wd : BitVec 16)
  | aPut2d (y : BitVec 4) (tok : ShortReg) (hd : Handle) (dcf : ShortReg) (hs : Handle) (scf : ShortReg) (len : ShortReg) (wd : BitVec 16)
  | aGet (y : BitVec 4) (tok : ShortReg) (hd : Handle) (dcf : ShortReg) (hs : Handle) (scf : ShortReg) (len : ShortReg) (wd : BitVec 16)
  | aGet2d (y : BitVec 4) (tok : ShortReg) (hd : Handle) (dcf : ShortReg) (hs : Handle) (scf : ShortReg) (len : ShortReg) (wd : BitVec 16)
  | aRadd (y : BitVec 4) (h : Handle) (cf : Reg) (b : Reg) (ty : ElemCode)
  | aRfadd (y : BitVec 4) (d : Reg) (h : Handle) (cf : Reg) (b : Reg) (ty : ElemCode)
  | aRcas (y : BitVec 4) (d : Reg) (h : Handle) (cf : Reg) (b : Reg) (x : Reg) (ty : ElemCode) (o : BitVec 2) (sc : BitVec 2)
  | aFfence (y : BitVec 4)
  | aAllred (y : BitVec 4) (qual : BitVec 4) (d : Reg) (h : Handle) (cf : Reg) (b : Reg) (x : Reg) (ty : ElemCode)
  | aRedscat (y : BitVec 4) (qual : BitVec 4) (d : Reg) (h : Handle) (cf : Reg) (b : Reg) (x : Reg) (ty : ElemCode)
  | aAllgath (y : BitVec 4) (qual : BitVec 4) (d : Reg) (h : Handle) (cf : Reg) (b : Reg) (x : Reg) (ty : ElemCode)
  | aBcast (y : BitVec 4) (qual : BitVec 4) (d : Reg) (h : Handle) (cf : Reg) (b : Reg) (x : Reg) (ty : ElemCode)
  | xAdd (y : BitVec 4) (d : Reg) (a : Reg) (b : Reg)
  | xSub (y : BitVec 4) (d : Reg) (a : Reg) (b : Reg)
  | xAnd (y : BitVec 4) (d : Reg) (a : Reg) (b : Reg)
  | xOr (y : BitVec 4) (d : Reg) (a : Reg) (b : Reg)
  | xXor (y : BitVec 4) (d : Reg) (a : Reg) (b : Reg)
  | xShl (y : BitVec 4) (d : Reg) (a : Reg) (b : Reg)
  | xShr (y : BitVec 4) (d : Reg) (a : Reg) (b : Reg)
  | xSra (y : BitVec 4) (d : Reg) (a : Reg) (b : Reg)
  | xMul (y : BitVec 4) (d : Reg) (a : Reg) (b : Reg)
  | xMin (y : BitVec 4) (d : Reg) (a : Reg) (b : Reg)
  | xMax (y : BitVec 4) (d : Reg) (a : Reg) (b : Reg)
  | xAddi (y : BitVec 4) (d : Reg) (a : Reg) (imm : BitVec 32)
  | xLi (y : BitVec 4) (d : Reg) (imm : BitVec 32)
  | xLui (y : BitVec 4) (d : Reg) (imm : BitVec 32)
  | xCmpeq (y : BitVec 4) (d : CFlag) (a : Reg) (b : Reg)
  | xCmplt (y : BitVec 4) (d : CFlag) (a : Reg) (b : Reg)
  | xCmple (y : BitVec 4) (d : CFlag) (a : Reg) (b : Reg)
  | xBtgt (y : BitVec 4) (d : BtReg) (o : BitVec 32)
  | xBtgtReg (y : BitVec 4) (d : BtReg) (a : Reg)
  | xBx (y : BitVec 4) (qual : BitVec 4) (ca : CFlag) (tb : BtReg)
  | xLoop (y : BitVec 4) (a : Reg) (e : BitVec 32)
  | xVany (y : BitVec 4) (qual : BitVec 4) (d : CFlag) (a : PReg)
  | xVall (y : BitVec 4) (qual : BitVec 4) (d : CFlag) (a : PReg)
  | xPcnt (y : BitVec 4) (d : Reg) (a : PReg)
  | xNop (y : BitVec 4)
  | xBound (y : BitVec 4) (a : Reg)
  | xEnd (y : BitVec 4)
  | xCsrr (y : BitVec 4) (d : Reg) (csr : BitVec 11)
  | xCsrw (y : BitVec 4) (a : Reg) (csr : BitVec 11)
  | xVpop (y : BitVec 4) (d : VReg) (q : LqNum)
  | xVpops (y : BitVec 4) (d : VReg) (q : LqNum)
  | xVpush (y : BitVec 4) (a : VReg)
  | xXpush (y : BitVec 4) (a : Reg)
  | xOpop (y : BitVec 4) (d : CFlag)
  | xOpush (y : BitVec 4) (a : CFlag)
  | xVadd (y : BitVec 4) (d : VReg) (a : VReg) (b : VReg) (g : PReg) (ty : ElemCode)
  | xVsub (y : BitVec 4) (d : VReg) (a : VReg) (b : VReg) (g : PReg) (ty : ElemCode)
  | xVmul (y : BitVec 4) (d : VReg) (a : VReg) (b : VReg) (g : PReg) (ty : ElemCode)
  | xVmulh (y : BitVec 4) (d : VReg) (a : VReg) (b : VReg) (g : PReg) (ty : ElemCode)
  | xVand (y : BitVec 4) (d : VReg) (a : VReg) (b : VReg) (g : PReg) (ty : ElemCode)
  | xVor (y : BitVec 4) (d : VReg) (a : VReg) (b : VReg) (g : PReg) (ty : ElemCode)
  | xVxor (y : BitVec 4) (d : VReg) (a : VReg) (b : VReg) (g : PReg) (ty : ElemCode)
  | xVshl (y : BitVec 4) (d : VReg) (a : VReg) (b : VReg) (g : PReg) (ty : ElemCode)
  | xVshr (y : BitVec 4) (d : VReg) (a : VReg) (b : VReg) (g : PReg) (ty : ElemCode)
  | xVsra (y : BitVec 4) (d : VReg) (a : VReg) (b : VReg) (g : PReg) (ty : ElemCode)
  | xVmin (y : BitVec 4) (d : VReg) (a : VReg) (b : VReg) (g : PReg) (ty : ElemCode)
  | xVmax (y : BitVec 4) (d : VReg) (a : VReg) (b : VReg) (g : PReg) (ty : ElemCode)
  | xVabs (y : BitVec 4) (d : VReg) (a : VReg) (g : PReg) (ty : ElemCode)
  | xVfadd (y : BitVec 4) (d : VReg) (a : VReg) (b : VReg) (g : PReg) (ty : ElemCode) (rnd : BitVec 2)
  | xVfsub (y : BitVec 4) (d : VReg) (a : VReg) (b : VReg) (g : PReg) (ty : ElemCode) (rnd : BitVec 2)
  | xVfmul (y : BitVec 4) (d : VReg) (a : VReg) (b : VReg) (g : PReg) (ty : ElemCode) (rnd : BitVec 2)
  | xVfma (y : BitVec 4) (d : VReg) (a : VReg) (b : VReg) (vc : VReg) (g : PReg) (ty : ElemCode) (rnd : BitVec 2)
  | xVfms (y : BitVec 4) (d : VReg) (a : VReg) (b : VReg) (vc : VReg) (g : PReg) (ty : ElemCode) (rnd : BitVec 2)
  | xVfnma (y : BitVec 4) (d : VReg) (a : VReg) (b : VReg) (vc : VReg) (g : PReg) (ty : ElemCode) (rnd : BitVec 2)
  | xVfnms (y : BitVec 4) (d : VReg) (a : VReg) (b : VReg) (vc : VReg) (g : PReg) (ty : ElemCode) (rnd : BitVec 2)
  | xVfmin (y : BitVec 4) (d : VReg) (a : VReg) (b : VReg) (g : PReg) (ty : ElemCode) (rnd : BitVec 2)
  | xVfmax (y : BitVec 4) (d : VReg) (a : VReg) (b : VReg) (g : PReg) (ty : ElemCode) (rnd : BitVec 2)
  | xVfabs (y : BitVec 4) (d : VReg) (a : VReg) (g : PReg) (ty : ElemCode) (rnd : BitVec 2)
  | xVfneg (y : BitVec 4) (d : VReg) (a : VReg) (g : PReg) (ty : ElemCode) (rnd : BitVec 2)
  | xVfdiv (y : BitVec 4) (d : VReg) (a : VReg) (b : VReg) (g : PReg) (ty : ElemCode) (rnd : BitVec 2)
  | xVfsqrt (y : BitVec 4) (d : VReg) (a : VReg) (g : PReg) (ty : ElemCode) (rnd : BitVec 2)
  | xVfrcp (y : BitVec 4) (d : VReg) (a : VReg) (g : PReg) (ty : ElemCode) (rnd : BitVec 2)
  | xVfexp2 (y : BitVec 4) (d : VReg) (a : VReg) (g : PReg) (ty : ElemCode) (rnd : BitVec 2)
  | xVflog2 (y : BitVec 4) (d : VReg) (a : VReg) (g : PReg) (ty : ElemCode) (rnd : BitVec 2)
  | xVftanh (y : BitVec 4) (d : VReg) (a : VReg) (g : PReg) (ty : ElemCode) (rnd : BitVec 2)
  | xVfsigm (y : BitVec 4) (d : VReg) (a : VReg) (g : PReg) (ty : ElemCode) (rnd : BitVec 2)
  | xVcmp (y : BitVec 4) (qual : BitVec 4) (d : PReg) (a : VReg) (b : VReg) (g : PReg) (ty : ElemCode)
  | xVfcmp (y : BitVec 4) (qual : BitVec 4) (d : PReg) (a : VReg) (b : VReg) (g : PReg) (ty : ElemCode)
  | xPand (y : BitVec 4) (d : PReg) (a : PReg) (b : PReg)
  | xPor (y : BitVec 4) (d : PReg) (a : PReg) (b : PReg)
  | xPxor (y : BitVec 4) (d : PReg) (a : PReg) (b : PReg)
  | xPnot (y : BitVec 4) (d : PReg) (a : PReg)
  | xVsel (y : BitVec 4) (d : VReg) (a : VReg) (b : VReg) (g : PReg)
  | xVcvtf (y : BitVec 4) (d : VReg) (a : VReg) (src : ElemCode) (g : PReg) (ty : ElemCode) (pol : BitVec 2) (rnd : BitVec 2)
  | xVcvti (y : BitVec 4) (d : VReg) (a : VReg) (src : ElemCode) (g : PReg) (ty : ElemCode) (pol : BitVec 2) (rnd : BitVec 2)
  | xVqnt (y : BitVec 4) (d : VReg) (a : VReg) (b : VReg) (g : PReg) (ty : ElemCode) (pol : BitVec 2) (rnd : BitVec 2)
  | xVdqnt (y : BitVec 4) (d : VReg) (a : VReg) (b : VReg) (g : PReg) (ty : ElemCode)
  | xVbcast (y : BitVec 4) (d : VReg) (a : Reg) (g : PReg) (ty : ElemCode)
  | xVshuf (y : BitVec 4) (d : VReg) (a : VReg) (b : VReg) (g : PReg)
  | xVrot (y : BitVec 4) (d : VReg) (a : VReg) (g : PReg) (n : BitVec 6)
  | xVextr (y : BitVec 4) (d : Reg) (a : VReg) (ty : ElemCode) (n : BitVec 6)
  | xVins (y : BitVec 4) (d : VReg) (a : Reg) (ty : ElemCode) (n : BitVec 6)
  | xVcomp (y : BitVec 4) (d : VReg) (a : VReg) (g : PReg)
  | xVexp (y : BitVec 4) (d : VReg) (a : VReg) (g : PReg)
  | xVrsum (y : BitVec 4) (d : Reg) (a : VReg) (g : PReg) (ty : ElemCode)
  | xVrfsum (y : BitVec 4) (d : Reg) (a : VReg) (g : PReg) (ty : ElemCode) (rnd : BitVec 2)
  | xVrmax (y : BitVec 4) (d : Reg) (a : VReg) (g : PReg) (ty : ElemCode)
  | xVrmin (y : BitVec 4) (d : Reg) (a : VReg) (g : PReg) (ty : ElemCode)
  | xVsortk (y : BitVec 4) (d : VReg) (a : VReg) (b : VReg) (g : PReg) (ty : ElemCode)
  | xVsegsum (y : BitVec 4) (d : VReg) (a : VReg) (b : VReg) (g : PReg) (ty : ElemCode)
  | xVtopk (y : BitVec 4) (d : VReg) (a : VReg) (g : PReg) (ty : ElemCode) (k : BitVec 6)
  | xTapeon (y : BitVec 4)
  | xTapeoff (y : BitVec 4)
  | xVtape (y : BitVec 4) (a : VReg) (g : PReg)
  | xXtape (y : BitVec 4) (a : Reg)
  | xPtape (y : BitVec 4) (a : PReg)
  | xVuntape (y : BitVec 4) (d : VReg)
  | xXuntape (y : BitVec 4) (d : Reg)
  | xPuntape (y : BitVec 4) (d : PReg)
  | xTrev (y : BitVec 4)
  | xTmark (y : BitVec 4) (a : Reg)
  | xTld (y : BitVec 4) (d : TReg) (q : LqNum) (a : Reg)
  | xTst (y : BitVec 4) (ta : TReg) (b : Reg)
  | xTzero (y : BitVec 4) (d : TReg)
  | xTmovv (y : BitVec 4) (d : VReg) (ta : TReg) (b : Reg)
  | xZld (y : BitVec 4) (d : ZReg) (q : LqNum) (a : Reg)
  | xZst (y : BitVec 4) (za : ZReg) (b : Reg)
  | xZzero (y : BitVec 4) (d : ZReg)
  | xZmovv (y : BitVec 4) (d : VReg) (za : ZReg) (b : Reg)
  | xMma (y : BitVec 4) (d : ZReg) (ta : TReg) (tb : TReg) (wd : Option (BitVec 16))
  | xMmai (y : BitVec 4) (d : ZReg) (ta : TReg) (tb : TReg) (wd : Option (BitVec 16))
  | xMmah (y : BitVec 4) (d : ZReg) (ta : TReg) (tb : TReg) (wd : Option (BitVec 16))
  | xMmab1 (y : BitVec 4) (d : ZReg) (ta : TReg) (tb : TReg) (wd : Option (BitVec 16))
  | xMmab2 (y : BitVec 4) (d : ZReg) (ta : TReg) (tb : TReg) (vc : VReg) (wd : Option (BitVec 16))
  | xMmas (y : BitVec 4) (d : ZReg) (ta : TReg) (tb : TReg) (wd : Option (BitVec 16))
  | xMmax (y : BitVec 4) (d : ZReg) (ta : TReg) (tb : TReg) (wd : Option (BitVec 16))
  | xMman (y : BitVec 4) (d : ZReg) (ta : TReg) (tb : TReg) (wd : Option (BitVec 16))
  | xMmv (y : BitVec 4) (d : ZReg) (ta : TReg) (b : VReg) (wd : Option (BitVec 16))
  | slipStallResume
  | copySlotFree
  | matrixAcceptResume
  | matrixOpStart
  | matrixOpComplete
  | drainLimit
  | trapDelivery
  | millisecondTick
  | remoteAccessArrival
  | fabricAck
  | contributionPacket
  | hostMemoryRequest
  | hostAtomicop
  | attestationRequest
  | hwinRegisterWrite
  | deviceReset
  | securityAlarm
  | alarmQuietTimeout
  | junctionOvertemp
  | controlParityError
  | patrolScrub
  | saveImageTransferEnd
  deriving DecidableEq, Repr

end Sys2Proof
end

