-- ==== Sys2Proof/WellFormed.lean ====
section
/-! DEFINITION. The field values that spec/04 (R63 step 3, R66–R84) and the instruction families accept. -/
namespace Sys2Proof

/-- The binary8 codes of R66: bit 5 set and P, bits [2:0], from 1 to 7. -/
def isBinary8 (ty : ElemCode) : Bool := ty.getLsbD 5 && (ty &&& 7#6) != 0

/-- A signed binary8 code: bit 4 clear (R66). -/
def isSignedBinary8 (ty : ElemCode) : Bool := isBinary8 ty && !ty.getLsbD 4

/-- The types that LD, ST, LDA and STA of a width accept (R78). -/
def accessTypes (width : Nat) (ty : ElemCode) : Bool :=
  match width with
  | 8 => ty == 0 || isBinary8 ty
  | 16 => ty == 1 || ty == 4
  | 32 => ty == 2 || ty == 5
  | _ => ty == 3

/-- AMIN, AMAX (R78), RADD and RFADD (R163): INT32, INT64, FP32. -/
def minMaxTypes (ty : ElemCode) : Bool := ty == 2 || ty == 3 || ty == 5
/-- AAND, AOR, AXOR, AXCHG, ACAS and RCAS: INT32, INT64 (R78). -/
def wordTypes (ty : ElemCode) : Bool := ty == 2 || ty == 3
/-- INT32 and FP32: ASCAT (R153), NMMIN, NMMAX (R157), VEXTR, VINS, VSORTK, VSEGSUM, VTOPK (R184–R189). -/
def lane32Types (ty : ElemCode) : Bool := ty == 2 || ty == 5
/-- The wire types of a collective: FP32, BF16 and the signed binary8 codes (R164, R343). -/
def wireTypes (ty : ElemCode) : Bool := ty == 5 || ty == 4 || isSignedBinary8 ty
/-- BF16 and FP32 (R177, R186). -/
def floatTypes (ty : ElemCode) : Bool := ty == 4 || ty == 5
/-- VBCAST (R184), VRMAX and VRMIN (R185): INT8, INT16, INT32, BF16, FP32. -/
def bcastTypes (ty : ElemCode) : Bool := ty == 0 || ty == 1 || ty == 2 || ty == 4 || ty == 5

/-- The formats with no infinity: f8pPs, f8pPu and the integers (R67). -/
def isFinite (ty : ElemCode) : Bool := if isBinary8 ty then !ty.getLsbD 3 else ty.toNat < 4

/-- POL = 1 with a finite target format raises ILLEGAL (R67). -/
def polOk (ty : ElemCode) (pol : BitVec 2) : Bool := !(pol == 1 && isFinite ty)

/-- The source types of VCVTF and VCVTI (R181). -/
def cvtSource (src : ElemCode) : Bool := bcastTypes src || isBinary8 src

/-- VCVTF's targets and policies (R181, R67). -/
def cvtfOk (ty src : ElemCode) (pol : BitVec 2) : Bool :=
  (floatTypes ty || isBinary8 ty) && cvtSource src && polOk ty pol

/-- VCVTI's targets and policies: POL is `.sat` or `.trap` (R181). -/
def cvtiOk (ty src : ElemCode) (pol : BitVec 2) : Bool :=
  ty.toNat < 3 && cvtSource src && (pol == 0 || pol == 3)

/-- A field value that the instruction's family does not accept makes the word ILLEGAL (R63 step 3). An event has no word.
The rows of LDV and LDV bqa name no ORD and that of VRFSUM no RND, so these are 0 (R77, R82), though R138 and R186 name them: chapter 4
governs the bits (DEDUCED, log 228, 229). -/
def wellFormed : Instr → Bool
  | .cAdd _ _ _ _ => true
  | .cSub _ _ _ _ => true
  | .cAnd _ _ _ _ => true
  | .cOr _ _ _ _ => true
  | .cXor _ _ _ _ => true
  | .cShl _ _ _ _ => true
  | .cShr _ _ _ _ => true
  | .cSra _ _ _ _ => true
  | .cMul _ _ _ _ => true
  | .cMulh _ _ _ _ => true
  | .cMulhu _ _ _ _ => true
  | .cDiv _ _ _ _ => true
  | .cRem _ _ _ _ => true
  | .cMin _ _ _ _ => true
  | .cMax _ _ _ _ => true
  | .cAddi _ _ _ _ => true
  | .cAndi _ _ _ _ => true
  | .cOri _ _ _ _ => true
  | .cXori _ _ _ _ => true
  | .cShli _ _ _ _ => true
  | .cShri _ _ _ _ => true
  | .cSrai _ _ _ _ => true
  | .cLi _ _ _ => true
  | .cLui _ _ _ => true
  | .cSeq _ _ _ _ => true
  | .cSne _ _ _ _ => true
  | .cSlt _ _ _ _ => true
  | .cSltu _ _ _ _ => true
  | .cSle _ _ _ _ => true
  | .cSleu _ _ _ _ => true
  | .cClz _ _ _ => true
  | .cPopc _ _ _ => true
  | .cB _ _ => true
  | .cBeq _ _ _ _ => true
  | .cBne _ _ _ _ => true
  | .cBlt _ _ _ _ => true
  | .cBge _ _ _ _ => true
  | .cBltu _ _ _ _ => true
  | .cBgeu _ _ _ _ => true
  | .cCall _ _ _ => true
  | .cRet _ _ => true
  | .cLoop _ _ e => decide (e ≠ 0)
  | .cCsrr _ _ _ => true
  | .cCsrw _ _ _ => true
  | .cCsrs _ _ _ => true
  | .cCsrc _ _ _ => true
  | .cLdw _ _ _ _ => true
  | .cStw _ _ _ _ => true
  | .cFpush _ _ => true
  | .cFpushi _ _ => true
  | .cTshape _ t _ => decide (t.toNat < 12)
  | .cSeal _ _ _ => true
  | .cUnseal _ _ => true
  | .cDbar _ l => decide (l.toNat < 2)
  | .cGenf _ => true
  | .cBound _ _ => true
  | .cMigrate _ _ _ _ _ => true
  | .cFence _ o _ => decide (o ≠ 0)
  | .cFlush _ _ _ _ => true
  | .cTsig _ _ n => decide (n ≠ 0)
  | .cTwait _ _ n => decide (n ≠ 0)
  | .cTapec _ _ _ => true
  | .cTrap _ _ => true
  | .cRtt _ => true
  | .cHalt _ => true
  | .cWfe _ => true
  | .cLttw _ _ _ => true
  | .cLttinv _ _ => true
  | .cDreg _ _ _ => true
  | .cDfree _ _ => true
  | .cSavec _ _ _ => true
  | .cRestc _ _ _ => true
  | .aAdd _ _ _ _ => true
  | .aSub _ _ _ _ => true
  | .aAnd _ _ _ _ => true
  | .aOr _ _ _ _ => true
  | .aXor _ _ _ _ => true
  | .aShl _ _ _ _ => true
  | .aShr _ _ _ _ => true
  | .aSra _ _ _ _ => true
  | .aMul _ _ _ _ => true
  | .aMin _ _ _ _ => true
  | .aMax _ _ _ _ => true
  | .aSeq _ _ _ _ => true
  | .aSne _ _ _ _ => true
  | .aSlt _ _ _ _ => true
  | .aSltu _ _ _ _ => true
  | .aAddi _ _ _ _ => true
  | .aAndi _ _ _ _ => true
  | .aShli _ _ _ _ => true
  | .aShri _ _ _ _ => true
  | .aLi _ _ _ => true
  | .aLui _ _ _ => true
  | .aB _ _ => true
  | .aBeq _ _ _ _ => true
  | .aBne _ _ _ _ => true
  | .aBlt _ _ _ _ => true
  | .aBge _ _ _ _ => true
  | .aBltu _ _ _ _ => true
  | .aBgeu _ _ _ _ => true
  | .aLoop _ _ e => decide (e ≠ 0)
  | .aBrq _ qual _ => decide (qual.toNat < 2)
  | .aOpush _ _ => true
  | .aVqpop _ _ => true
  | .aBound _ _ => true
  | .aEnd _ => true
  | .aNop _ => true
  | .aLd8 _ _ _ _ _ ty o sc => decide (accessTypes 8 ty ∧ o ≠ 2 ∧ (o ≠ 0 ∨ sc = 0))
  | .aLd16 _ _ _ _ _ ty o sc => decide (accessTypes 16 ty ∧ o ≠ 2 ∧ (o ≠ 0 ∨ sc = 0))
  | .aLd32 _ _ _ _ _ ty o sc => decide (accessTypes 32 ty ∧ o ≠ 2 ∧ (o ≠ 0 ∨ sc = 0))
  | .aLd64 _ _ _ _ _ ty o sc => decide (accessTypes 64 ty ∧ o ≠ 2 ∧ (o ≠ 0 ∨ sc = 0))
  | .aSt8 _ _ _ _ ty o sc => decide (accessTypes 8 ty ∧ o ≠ 1 ∧ (o ≠ 0 ∨ sc = 0))
  | .aSt16 _ _ _ _ ty o sc => decide (accessTypes 16 ty ∧ o ≠ 1 ∧ (o ≠ 0 ∨ sc = 0))
  | .aSt32 _ _ _ _ ty o sc => decide (accessTypes 32 ty ∧ o ≠ 1 ∧ (o ≠ 0 ∨ sc = 0))
  | .aSt64 _ _ _ _ ty o sc => decide (accessTypes 64 ty ∧ o ≠ 1 ∧ (o ≠ 0 ∨ sc = 0))
  | .aLdt _ _ _ _ => true
  | .aStt _ _ _ => true
  | .aLdi _ _ _ => true
  | .aLdv _ _ _ _ _ _ o sc => decide (o = 0 ∧ sc = 0)
  | .aLdvBqa _ _ _ _ _ _ o sc => decide (o = 0 ∧ sc = 0)
  | .aLda8 _ _ _ _ ty o sc => decide (accessTypes 8 ty ∧ o ≠ 2 ∧ (o ≠ 0 ∨ sc = 0))
  | .aLda16 _ _ _ _ ty o sc => decide (accessTypes 16 ty ∧ o ≠ 2 ∧ (o ≠ 0 ∨ sc = 0))
  | .aLda32 _ _ _ _ ty o sc => decide (accessTypes 32 ty ∧ o ≠ 2 ∧ (o ≠ 0 ∨ sc = 0))
  | .aLda64 _ _ _ _ ty o sc => decide (accessTypes 64 ty ∧ o ≠ 2 ∧ (o ≠ 0 ∨ sc = 0))
  | .aSta8 _ _ _ _ ty o sc => decide (accessTypes 8 ty ∧ o ≠ 1 ∧ (o ≠ 0 ∨ sc = 0))
  | .aSta16 _ _ _ _ ty o sc => decide (accessTypes 16 ty ∧ o ≠ 1 ∧ (o ≠ 0 ∨ sc = 0))
  | .aSta32 _ _ _ _ ty o sc => decide (accessTypes 32 ty ∧ o ≠ 1 ∧ (o ≠ 0 ∨ sc = 0))
  | .aSta64 _ _ _ _ ty o sc => decide (accessTypes 64 ty ∧ o ≠ 1 ∧ (o ≠ 0 ∨ sc = 0))
  | .aCpy _ _ _ _ _ _ _ _ => true
  | .aCpy2d _ _ _ _ _ _ len _ => decide (len.val ≠ 15)
  | .aCpyx _ _ _ _ _ _ _ _ => true
  | .aDqry _ qual _ _ _ => decide (qual.toNat < 8)
  | .aDqryv _ qual _ _ _ _ => decide (qual.toNat < 8)
  | .aDqpf _ _ _ _ => true
  | .aDscan _ _ _ _ => true
  | .aFence _ o _ => decide (o ≠ 0)
  | .aWaita _ _ _ => true
  | .aAaddI32 _ _ _ _ o sc => decide ((o ≠ 0 ∨ sc = 0))
  | .aAaddI64 _ _ _ _ o sc => decide ((o ≠ 0 ∨ sc = 0))
  | .aAaddF32 _ _ _ _ o sc => decide ((o ≠ 0 ∨ sc = 0))
  | .aAmin _ _ _ _ ty o sc => decide (minMaxTypes ty ∧ (o ≠ 0 ∨ sc = 0))
  | .aAmax _ _ _ _ ty o sc => decide (minMaxTypes ty ∧ (o ≠ 0 ∨ sc = 0))
  | .aAand _ _ _ _ ty o sc => decide (wordTypes ty ∧ (o ≠ 0 ∨ sc = 0))
  | .aAor _ _ _ _ ty o sc => decide (wordTypes ty ∧ (o ≠ 0 ∨ sc = 0))
  | .aAxor _ _ _ _ ty o sc => decide (wordTypes ty ∧ (o ≠ 0 ∨ sc = 0))
  | .aAfaddI32 _ _ _ _ _ o sc => decide ((o ≠ 0 ∨ sc = 0))
  | .aAfaddI64 _ _ _ _ _ o sc => decide ((o ≠ 0 ∨ sc = 0))
  | .aAfaddF32 _ _ _ _ _ o sc => decide ((o ≠ 0 ∨ sc = 0))
  | .aAxchg _ _ _ _ _ ty o sc => decide (wordTypes ty ∧ (o ≠ 0 ∨ sc = 0))
  | .aAcas _ _ _ _ _ _ ty o sc => decide (wordTypes ty ∧ (o ≠ 0 ∨ sc = 0))
  | .aAscat _ _ _ _ ty => decide (lane32Types ty)
  | .aNmaddI32 _ _ _ _ => true
  | .aNmaddF32 _ _ _ _ => true
  | .aNmmin _ _ _ _ ty => decide (lane32Types ty)
  | .aNmmax _ _ _ _ ty => decide (lane32Types ty)
  | .aNmfence _ => true
  | .aEmbag _ _ _ _ _ _ _ => true
  | .aKvatt _ _ _ _ _ _ _ => true
  | .aPut _ _ _ _ _ _ _ _ => true
  | .aPut2d _ _ _ _ _ _ len _ => decide (len.val ≠ 15)
  | .aGet _ _ _ _ _ _ _ _ => true
  | .aGet2d _ _ _ _ _ _ len _ => decide (len.val ≠ 15)
  | .aRadd _ _ _ _ ty => decide (minMaxTypes ty)
  | .aRfadd _ _ _ _ _ ty => decide (minMaxTypes ty)
  | .aRcas _ _ _ _ _ _ ty o sc => decide (wordTypes ty ∧ (o ≠ 0 ∨ sc = 0))
  | .aFfence _ => true
  | .aAllred _ qual _ _ _ _ x ty => decide (qual.toNat < 2 ∧ wireTypes ty ∧ (qual ≠ 0 ∨ x = 0))
  | .aRedscat _ qual _ _ _ _ x ty => decide (qual.toNat < 2 ∧ wireTypes ty ∧ (qual ≠ 0 ∨ x = 0))
  | .aAllgath _ qual _ _ _ _ x ty => decide (qual.toNat < 2 ∧ wireTypes ty ∧ (qual ≠ 0 ∨ x = 0))
  | .aBcast _ qual _ _ _ _ x ty => decide (qual.toNat < 2 ∧ wireTypes ty ∧ (qual ≠ 0 ∨ x = 0))
  | .xAdd _ _ _ _ => true
  | .xSub _ _ _ _ => true
  | .xAnd _ _ _ _ => true
  | .xOr _ _ _ _ => true
  | .xXor _ _ _ _ => true
  | .xShl _ _ _ _ => true
  | .xShr _ _ _ _ => true
  | .xSra _ _ _ _ => true
  | .xMul _ _ _ _ => true
  | .xMin _ _ _ _ => true
  | .xMax _ _ _ _ => true
  | .xAddi _ _ _ _ => true
  | .xLi _ _ _ => true
  | .xLui _ _ _ => true
  | .xCmpeq _ _ _ _ => true
  | .xCmplt _ _ _ _ => true
  | .xCmple _ _ _ _ => true
  | .xBtgt _ _ _ => true
  | .xBtgtReg _ _ _ => true
  | .xBx _ qual _ _ => decide (qual.toNat < 2)
  | .xLoop _ _ e => decide (e ≠ 0)
  | .xVany _ qual _ _ => decide (qual.toNat < 2)
  | .xVall _ qual _ _ => decide (qual.toNat < 2)
  | .xPcnt _ _ _ => true
  | .xNop _ => true
  | .xBound _ _ => true
  | .xEnd _ => true
  | .xCsrr _ _ _ => true
  | .xCsrw _ _ _ => true
  | .xVpop _ _ _ => true
  | .xVpops _ _ _ => true
  | .xVpush _ _ => true
  | .xXpush _ _ => true
  | .xOpop _ _ => true
  | .xOpush _ _ => true
  | .xVadd _ _ _ _ _ ty => decide (ty.toNat < 3)
  | .xVsub _ _ _ _ _ ty => decide (ty.toNat < 3)
  | .xVmul _ _ _ _ _ ty => decide (ty.toNat < 3)
  | .xVmulh _ _ _ _ _ ty => decide (ty.toNat < 3)
  | .xVand _ _ _ _ _ ty => decide (ty.toNat < 3)
  | .xVor _ _ _ _ _ ty => decide (ty.toNat < 3)
  | .xVxor _ _ _ _ _ ty => decide (ty.toNat < 3)
  | .xVshl _ _ _ _ _ ty => decide (ty.toNat < 3)
  | .xVshr _ _ _ _ _ ty => decide (ty.toNat < 3)
  | .xVsra _ _ _ _ _ ty => decide (ty.toNat < 3)
  | .xVmin _ _ _ _ _ ty => decide (ty.toNat < 3)
  | .xVmax _ _ _ _ _ ty => decide (ty.toNat < 3)
  | .xVabs _ _ _ _ ty => decide (ty.toNat < 3)
  | .xVfadd _ _ _ _ _ ty _ => decide (floatTypes ty)
  | .xVfsub _ _ _ _ _ ty _ => decide (floatTypes ty)
  | .xVfmul _ _ _ _ _ ty _ => decide (floatTypes ty)
  | .xVfma _ _ _ _ _ _ ty _ => decide (floatTypes ty)
  | .xVfms _ _ _ _ _ _ ty _ => decide (floatTypes ty)
  | .xVfnma _ _ _ _ _ _ ty _ => decide (floatTypes ty)
  | .xVfnms _ _ _ _ _ _ ty _ => decide (floatTypes ty)
  | .xVfmin _ _ _ _ _ ty _ => decide (floatTypes ty)
  | .xVfmax _ _ _ _ _ ty _ => decide (floatTypes ty)
  | .xVfabs _ _ _ _ ty _ => decide (floatTypes ty)
  | .xVfneg _ _ _ _ ty _ => decide (floatTypes ty)
  | .xVfdiv _ _ _ _ _ ty _ => decide (floatTypes ty)
  | .xVfsqrt _ _ _ _ ty _ => decide (floatTypes ty)
  | .xVfrcp _ _ _ _ ty _ => decide (floatTypes ty)
  | .xVfexp2 _ _ _ _ ty _ => decide (floatTypes ty)
  | .xVflog2 _ _ _ _ ty _ => decide (floatTypes ty)
  | .xVftanh _ _ _ _ ty _ => decide (floatTypes ty)
  | .xVfsigm _ _ _ _ ty _ => decide (floatTypes ty)
  | .xVcmp _ qual _ _ _ _ ty => decide (qual.toNat < 10 ∧ ty = 2)
  | .xVfcmp _ qual _ _ _ _ ty => decide (qual.toNat < 6 ∧ ty = 5)
  | .xPand _ _ _ _ => true
  | .xPor _ _ _ _ => true
  | .xPxor _ _ _ _ => true
  | .xPnot _ _ _ => true
  | .xVsel _ _ _ _ _ => true
  | .xVcvtf _ _ _ src _ ty pol _ => decide (cvtfOk ty src pol)
  | .xVcvti _ _ _ src _ ty pol _ => decide (cvtiOk ty src pol)
  | .xVqnt _ _ _ _ _ ty pol _ => decide (isBinary8 ty ∧ polOk ty pol)
  | .xVdqnt _ _ _ _ _ ty => decide (isBinary8 ty)
  | .xVbcast _ _ _ _ ty => decide (bcastTypes ty)
  | .xVshuf _ _ _ _ _ => true
  | .xVrot _ _ _ _ _ => true
  | .xVextr _ _ _ ty _ => decide (lane32Types ty)
  | .xVins _ _ _ ty _ => decide (lane32Types ty)
  | .xVcomp _ _ _ _ => true
  | .xVexp _ _ _ _ => true
  | .xVrsum _ _ _ _ ty => decide (ty.toNat < 3)
  | .xVrfsum _ _ _ _ ty rnd => decide (floatTypes ty ∧ rnd = 0)
  | .xVrmax _ _ _ _ ty => decide (bcastTypes ty)
  | .xVrmin _ _ _ _ ty => decide (bcastTypes ty)
  | .xVsortk _ d _ _ _ ty => decide (lane32Types ty ∧ d.val % 2 = 0)
  | .xVsegsum _ _ _ _ _ ty => decide (lane32Types ty)
  | .xVtopk _ d _ _ ty _ => decide (lane32Types ty ∧ d.val % 2 = 0)
  | .xTapeon _ => true
  | .xTapeoff _ => true
  | .xVtape _ _ _ => true
  | .xXtape _ _ => true
  | .xPtape _ _ => true
  | .xVuntape _ _ => true
  | .xXuntape _ _ => true
  | .xPuntape _ _ => true
  | .xTrev _ => true
  | .xTmark _ _ => true
  | .xTld _ _ _ _ => true
  | .xTst _ _ _ => true
  | .xTzero _ _ => true
  | .xTmovv _ _ _ _ => true
  | .xZld _ _ _ _ => true
  | .xZst _ _ _ => true
  | .xZzero _ _ => true
  | .xZmovv _ _ _ _ => true
  | .xMma _ _ _ _ _ => true
  | .xMmai _ _ _ _ _ => true
  | .xMmah _ _ _ _ _ => true
  | .xMmab1 _ _ _ _ _ => true
  | .xMmab2 _ _ _ _ vc _ => decide (vc.val % 2 = 0)
  | .xMmas _ _ _ _ _ => true
  | .xMmax _ _ _ _ _ => true
  | .xMman _ _ _ _ _ => true
  | .xMmv _ _ _ _ _ => true
  | .tokenWaitResume _ => true
  | .queueWaitResume _ => true
  | .slipStallResume => true
  | .scoreboardWaitResume _ => true
  | .copySlotFree => true
  | .matrixAcceptResume => true
  | .commitWaitResume _ => true
  | .loadDataArrival _ => true
  | .watchdogExpiry _ => true
  | .commandBoundExpiry _ => true
  | .sectorCommit _ => true
  | .writeTransactionCommit _ => true
  | .copyCompletion _ => true
  | .atomicCommit _ => true
  | .nmUnitUpdate _ => true
  | .echoApply _ => true
  | .poolPartialReturn _ => true
  | .attentionPartialReturn _ => true
  | .claimEnd _ => true
  | .claimTimeout _ _ => true
  | .dscanBlockRebuild _ => true
  | .digestFillComplete _ => true
  | .digestWritebackEnd _ => true
  | .waitaWake _ => true
  | .barrierComplete _ => true
  | .matrixOpStart => true
  | .matrixOpComplete => true
  | .drainLimit => true
  | .trapDelivery => true
  | .doorbell _ => true
  | .millisecondTick => true
  | .softPreemptTimeout _ => true
  | .overlayLoad _ => true
  | .preemptSaveBegin _ => true
  | .saveEnd _ => true
  | .saveBroken _ => true
  | .teamRestore _ => true
  | .budgetExpiry _ => true
  | .launchDone _ => true
  | .migrationDrainEnd _ => true
  | .migrationArrival _ => true
  | .rdupInvalidateAck _ => true
  | .backInvalidateResponse _ => true
  | .remoteAccessArrival => true
  | .fabricAck => true
  | .contributionPacket => true
  | .collectiveComplete _ => true
  | .collectiveDeadline _ => true
  | .groupOpen _ => true
  | .groupClose _ => true
  | .groupOpenConfirmed _ => true
  | .groupOpenTimeout _ => true
  | .groupCloseComplete _ => true
  | .sessionReopen _ => true
  | .linkBringup _ => true
  | .linkRekey _ => true
  | .frameReceive _ => true
  | .tunnelRetransmit _ => true
  | .flitCrcRetry _ => true
  | .hostMemoryRequest => true
  | .hostAtomicop => true
  | .hostRequestCompletion _ => true
  | .attestationRequest => true
  | .hwinRegisterWrite => true
  | .deviceReset => true
  | .bootStep _ => true
  | .securityAlarm => true
  | .alarmQuietTimeout => true
  | .junctionOvertemp => true
  | .controlParityError => true
  | .patrolScrub => true
  | .stampPatrolVisit _ => true
  | .channelFailure _ => true
  | .channelRetirementEnd _ => true
  | .stampCheckAnswer _ => true
  | .registerValueArrival _ => true
  | .saveImageTransferEnd => true

end Sys2Proof
end

