-- ==== Sys2Proof/Decode.lean ====
section
/-! DEFINITION. The decoder and the encoder of the three word formats (spec/04 R62–R84), one row for each opcode.
Lean's compiler gives no code to a constructor with fields past the 245th of its type, and Instr has 365: the definitions
that build such a value carry `noncomputable`. They are plain definitions that the kernel evaluates. -/
namespace Sys2Proof

/-- A bit field of a word: its lowest bit and its width. -/
structure Field where
  lo : Nat
  width : Nat
  deriving DecidableEq, Repr

/-- Bits [lo + width − 1 : lo] of a word. -/
def Field.get (f : Field) (w : Nat) : Nat := (w >>> f.lo) % 2 ^ f.width

/-- One opcode: its number, whether it is supervisor-only (R73), whether it accepts EXT = 1 (R81), the fixed field
values it requires (its Q or TY), the bits that are ignored and not checked (R78), its fields and the instruction they name. -/
structure Row where
  op : Nat
  sup : Bool
  ext : Bool
  fixed : Nat
  ignored : Nat
  fields : List Field
  build : List Nat → Option (BitVec 16) → Option Instr

/-- The word that holds these values in these fields. -/
def packFields : List Field → List Nat → Nat
  | f :: fs, v :: vs => v <<< f.lo ||| packFields fs vs
  | _, _ => 0

/-- Why a word is no instruction: R63 step 1 or step 3. -/
inductive DecodeError where
  | unassigned
  | reserved
  deriving DecidableEq, Repr


def rowsC0 : List Row := [
  ⟨0x01, false, false, 0x0, 0x0, [⟨28, 4⟩, ⟨16, 5⟩, ⟨11, 5⟩, ⟨6, 5⟩],
    fun vs _ => match vs with | [y, d, a, b] => some (.cAdd (BitVec.ofNat 4 y) (Fin.ofNat 32 d) (Fin.ofNat 32 a) (Fin.ofNat 32 b)) | _ => none⟩,
  ⟨0x02, false, false, 0x0, 0x0, [⟨28, 4⟩, ⟨16, 5⟩, ⟨11, 5⟩, ⟨6, 5⟩],
    fun vs _ => match vs with | [y, d, a, b] => some (.cSub (BitVec.ofNat 4 y) (Fin.ofNat 32 d) (Fin.ofNat 32 a) (Fin.ofNat 32 b)) | _ => none⟩,
  ⟨0x03, false, false, 0x0, 0x0, [⟨28, 4⟩, ⟨16, 5⟩, ⟨11, 5⟩, ⟨6, 5⟩],
    fun vs _ => match vs with | [y, d, a, b] => some (.cAnd (BitVec.ofNat 4 y) (Fin.ofNat 32 d) (Fin.ofNat 32 a) (Fin.ofNat 32 b)) | _ => none⟩,
  ⟨0x04, false, false, 0x0, 0x0, [⟨28, 4⟩, ⟨16, 5⟩, ⟨11, 5⟩, ⟨6, 5⟩],
    fun vs _ => match vs with | [y, d, a, b] => some (.cOr (BitVec.ofNat 4 y) (Fin.ofNat 32 d) (Fin.ofNat 32 a) (Fin.ofNat 32 b)) | _ => none⟩,
  ⟨0x05, false, false, 0x0, 0x0, [⟨28, 4⟩, ⟨16, 5⟩, ⟨11, 5⟩, ⟨6, 5⟩],
    fun vs _ => match vs with | [y, d, a, b] => some (.cXor (BitVec.ofNat 4 y) (Fin.ofNat 32 d) (Fin.ofNat 32 a) (Fin.ofNat 32 b)) | _ => none⟩,
  ⟨0x06, false, false, 0x0, 0x0, [⟨28, 4⟩, ⟨16, 5⟩, ⟨11, 5⟩, ⟨6, 5⟩],
    fun vs _ => match vs with | [y, d, a, b] => some (.cShl (BitVec.ofNat 4 y) (Fin.ofNat 32 d) (Fin.ofNat 32 a) (Fin.ofNat 32 b)) | _ => none⟩,
  ⟨0x07, false, false, 0x0, 0x0, [⟨28, 4⟩, ⟨16, 5⟩, ⟨11, 5⟩, ⟨6, 5⟩],
    fun vs _ => match vs with | [y, d, a, b] => some (.cShr (BitVec.ofNat 4 y) (Fin.ofNat 32 d) (Fin.ofNat 32 a) (Fin.ofNat 32 b)) | _ => none⟩,
  ⟨0x08, false, false, 0x0, 0x0, [⟨28, 4⟩, ⟨16, 5⟩, ⟨11, 5⟩, ⟨6, 5⟩],
    fun vs _ => match vs with | [y, d, a, b] => some (.cSra (BitVec.ofNat 4 y) (Fin.ofNat 32 d) (Fin.ofNat 32 a) (Fin.ofNat 32 b)) | _ => none⟩,
  ⟨0x09, false, false, 0x0, 0x0, [⟨28, 4⟩, ⟨16, 5⟩, ⟨11, 5⟩, ⟨6, 5⟩],
    fun vs _ => match vs with | [y, d, a, b] => some (.cMul (BitVec.ofNat 4 y) (Fin.ofNat 32 d) (Fin.ofNat 32 a) (Fin.ofNat 32 b)) | _ => none⟩,
  ⟨0x0A, false, false, 0x0, 0x0, [⟨28, 4⟩, ⟨16, 5⟩, ⟨11, 5⟩, ⟨6, 5⟩],
    fun vs _ => match vs with | [y, d, a, b] => some (.cMulh (BitVec.ofNat 4 y) (Fin.ofNat 32 d) (Fin.ofNat 32 a) (Fin.ofNat 32 b)) | _ => none⟩,
  ⟨0x0B, false, false, 0x0, 0x0, [⟨28, 4⟩, ⟨16, 5⟩, ⟨11, 5⟩, ⟨6, 5⟩],
    fun vs _ => match vs with | [y, d, a, b] => some (.cMulhu (BitVec.ofNat 4 y) (Fin.ofNat 32 d) (Fin.ofNat 32 a) (Fin.ofNat 32 b)) | _ => none⟩,
  ⟨0x0C, false, false, 0x0, 0x0, [⟨28, 4⟩, ⟨16, 5⟩, ⟨11, 5⟩, ⟨6, 5⟩],
    fun vs _ => match vs with | [y, d, a, b] => some (.cDiv (BitVec.ofNat 4 y) (Fin.ofNat 32 d) (Fin.ofNat 32 a) (Fin.ofNat 32 b)) | _ => none⟩,
  ⟨0x0D, false, false, 0x0, 0x0, [⟨28, 4⟩, ⟨16, 5⟩, ⟨11, 5⟩, ⟨6, 5⟩],
    fun vs _ => match vs with | [y, d, a, b] => some (.cRem (BitVec.ofNat 4 y) (Fin.ofNat 32 d) (Fin.ofNat 32 a) (Fin.ofNat 32 b)) | _ => none⟩,
  ⟨0x0E, false, false, 0x0, 0x0, [⟨28, 4⟩, ⟨16, 5⟩, ⟨11, 5⟩, ⟨6, 5⟩],
    fun vs _ => match vs with | [y, d, a, b] => some (.cMin (BitVec.ofNat 4 y) (Fin.ofNat 32 d) (Fin.ofNat 32 a) (Fin.ofNat 32 b)) | _ => none⟩,
  ⟨0x0F, false, false, 0x0, 0x0, [⟨28, 4⟩, ⟨16, 5⟩, ⟨11, 5⟩, ⟨6, 5⟩],
    fun vs _ => match vs with | [y, d, a, b] => some (.cMax (BitVec.ofNat 4 y) (Fin.ofNat 32 d) (Fin.ofNat 32 a) (Fin.ofNat 32 b)) | _ => none⟩,
  ⟨0x10, false, false, 0x0, 0x0, [⟨28, 4⟩, ⟨16, 5⟩, ⟨11, 5⟩, ⟨0, 11⟩],
    fun vs _ => match vs with | [y, d, a, imm] => some (.cAddi (BitVec.ofNat 4 y) (Fin.ofNat 32 d) (Fin.ofNat 32 a) (BitVec.ofNat 11 imm)) | _ => none⟩,
  ⟨0x11, false, false, 0x0, 0x0, [⟨28, 4⟩, ⟨16, 5⟩, ⟨11, 5⟩, ⟨0, 11⟩],
    fun vs _ => match vs with | [y, d, a, imm] => some (.cAndi (BitVec.ofNat 4 y) (Fin.ofNat 32 d) (Fin.ofNat 32 a) (BitVec.ofNat 11 imm)) | _ => none⟩,
  ⟨0x12, false, false, 0x0, 0x0, [⟨28, 4⟩, ⟨16, 5⟩, ⟨11, 5⟩, ⟨0, 11⟩],
    fun vs _ => match vs with | [y, d, a, imm] => some (.cOri (BitVec.ofNat 4 y) (Fin.ofNat 32 d) (Fin.ofNat 32 a) (BitVec.ofNat 11 imm)) | _ => none⟩,
  ⟨0x13, false, false, 0x0, 0x0, [⟨28, 4⟩, ⟨16, 5⟩, ⟨11, 5⟩, ⟨0, 11⟩],
    fun vs _ => match vs with | [y, d, a, imm] => some (.cXori (BitVec.ofNat 4 y) (Fin.ofNat 32 d) (Fin.ofNat 32 a) (BitVec.ofNat 11 imm)) | _ => none⟩,
  ⟨0x14, false, false, 0x0, 0x0, [⟨28, 4⟩, ⟨16, 5⟩, ⟨11, 5⟩, ⟨0, 6⟩],
    fun vs _ => match vs with | [y, d, a, n] => some (.cShli (BitVec.ofNat 4 y) (Fin.ofNat 32 d) (Fin.ofNat 32 a) (BitVec.ofNat 6 n)) | _ => none⟩,
  ⟨0x15, false, false, 0x0, 0x0, [⟨28, 4⟩, ⟨16, 5⟩, ⟨11, 5⟩, ⟨0, 6⟩],
    fun vs _ => match vs with | [y, d, a, n] => some (.cShri (BitVec.ofNat 4 y) (Fin.ofNat 32 d) (Fin.ofNat 32 a) (BitVec.ofNat 6 n)) | _ => none⟩,
  ⟨0x16, false, false, 0x0, 0x0, [⟨28, 4⟩, ⟨16, 5⟩, ⟨11, 5⟩, ⟨0, 6⟩],
    fun vs _ => match vs with | [y, d, a, n] => some (.cSrai (BitVec.ofNat 4 y) (Fin.ofNat 32 d) (Fin.ofNat 32 a) (BitVec.ofNat 6 n)) | _ => none⟩,
  ⟨0x17, false, false, 0x0, 0x0, [⟨28, 4⟩, ⟨16, 5⟩, ⟨0, 16⟩],
    fun vs _ => match vs with | [y, d, imm] => some (.cLi (BitVec.ofNat 4 y) (Fin.ofNat 32 d) (BitVec.ofNat 16 imm)) | _ => none⟩,
  ⟨0x18, false, false, 0x0, 0x0, [⟨28, 4⟩, ⟨16, 5⟩, ⟨0, 16⟩],
    fun vs _ => match vs with | [y, d, imm] => some (.cLui (BitVec.ofNat 4 y) (Fin.ofNat 32 d) (BitVec.ofNat 16 imm)) | _ => none⟩]

def rowsC1 : List Row := [
  ⟨0x20, false, false, 0x0, 0x0, [⟨28, 4⟩, ⟨16, 5⟩, ⟨11, 5⟩, ⟨6, 5⟩],
    fun vs _ => match vs with | [y, d, a, b] => some (.cSeq (BitVec.ofNat 4 y) (Fin.ofNat 32 d) (Fin.ofNat 32 a) (Fin.ofNat 32 b)) | _ => none⟩,
  ⟨0x21, false, false, 0x0, 0x0, [⟨28, 4⟩, ⟨16, 5⟩, ⟨11, 5⟩, ⟨6, 5⟩],
    fun vs _ => match vs with | [y, d, a, b] => some (.cSne (BitVec.ofNat 4 y) (Fin.ofNat 32 d) (Fin.ofNat 32 a) (Fin.ofNat 32 b)) | _ => none⟩,
  ⟨0x22, false, false, 0x0, 0x0, [⟨28, 4⟩, ⟨16, 5⟩, ⟨11, 5⟩, ⟨6, 5⟩],
    fun vs _ => match vs with | [y, d, a, b] => some (.cSlt (BitVec.ofNat 4 y) (Fin.ofNat 32 d) (Fin.ofNat 32 a) (Fin.ofNat 32 b)) | _ => none⟩,
  ⟨0x23, false, false, 0x0, 0x0, [⟨28, 4⟩, ⟨16, 5⟩, ⟨11, 5⟩, ⟨6, 5⟩],
    fun vs _ => match vs with | [y, d, a, b] => some (.cSltu (BitVec.ofNat 4 y) (Fin.ofNat 32 d) (Fin.ofNat 32 a) (Fin.ofNat 32 b)) | _ => none⟩,
  ⟨0x24, false, false, 0x0, 0x0, [⟨28, 4⟩, ⟨16, 5⟩, ⟨11, 5⟩, ⟨6, 5⟩],
    fun vs _ => match vs with | [y, d, a, b] => some (.cSle (BitVec.ofNat 4 y) (Fin.ofNat 32 d) (Fin.ofNat 32 a) (Fin.ofNat 32 b)) | _ => none⟩,
  ⟨0x25, false, false, 0x0, 0x0, [⟨28, 4⟩, ⟨16, 5⟩, ⟨11, 5⟩, ⟨6, 5⟩],
    fun vs _ => match vs with | [y, d, a, b] => some (.cSleu (BitVec.ofNat 4 y) (Fin.ofNat 32 d) (Fin.ofNat 32 a) (Fin.ofNat 32 b)) | _ => none⟩,
  ⟨0x26, false, false, 0x0, 0x0, [⟨28, 4⟩, ⟨16, 5⟩, ⟨11, 5⟩],
    fun vs _ => match vs with | [y, d, a] => some (.cClz (BitVec.ofNat 4 y) (Fin.ofNat 32 d) (Fin.ofNat 32 a)) | _ => none⟩,
  ⟨0x27, false, false, 0x0, 0x0, [⟨28, 4⟩, ⟨16, 5⟩, ⟨11, 5⟩],
    fun vs _ => match vs with | [y, d, a] => some (.cPopc (BitVec.ofNat 4 y) (Fin.ofNat 32 d) (Fin.ofNat 32 a)) | _ => none⟩,
  ⟨0x30, false, false, 0x0, 0x0, [⟨28, 4⟩, ⟨0, 16⟩],
    fun vs _ => match vs with | [y, o] => some (.cB (BitVec.ofNat 4 y) (BitVec.ofNat 16 o)) | _ => none⟩,
  ⟨0x31, false, false, 0x0, 0x0, [⟨28, 4⟩, ⟨16, 5⟩, ⟨11, 5⟩, ⟨0, 11⟩],
    fun vs _ => match vs with | [y, a, b, o] => some (.cBeq (BitVec.ofNat 4 y) (Fin.ofNat 32 a) (Fin.ofNat 32 b) (BitVec.ofNat 11 o)) | _ => none⟩,
  ⟨0x32, false, false, 0x0, 0x0, [⟨28, 4⟩, ⟨16, 5⟩, ⟨11, 5⟩, ⟨0, 11⟩],
    fun vs _ => match vs with | [y, a, b, o] => some (.cBne (BitVec.ofNat 4 y) (Fin.ofNat 32 a) (Fin.ofNat 32 b) (BitVec.ofNat 11 o)) | _ => none⟩,
  ⟨0x33, false, false, 0x0, 0x0, [⟨28, 4⟩, ⟨16, 5⟩, ⟨11, 5⟩, ⟨0, 11⟩],
    fun vs _ => match vs with | [y, a, b, o] => some (.cBlt (BitVec.ofNat 4 y) (Fin.ofNat 32 a) (Fin.ofNat 32 b) (BitVec.ofNat 11 o)) | _ => none⟩,
  ⟨0x34, false, false, 0x0, 0x0, [⟨28, 4⟩, ⟨16, 5⟩, ⟨11, 5⟩, ⟨0, 11⟩],
    fun vs _ => match vs with | [y, a, b, o] => some (.cBge (BitVec.ofNat 4 y) (Fin.ofNat 32 a) (Fin.ofNat 32 b) (BitVec.ofNat 11 o)) | _ => none⟩,
  ⟨0x35, false, false, 0x0, 0x0, [⟨28, 4⟩, ⟨16, 5⟩, ⟨11, 5⟩, ⟨0, 11⟩],
    fun vs _ => match vs with | [y, a, b, o] => some (.cBltu (BitVec.ofNat 4 y) (Fin.ofNat 32 a) (Fin.ofNat 32 b) (BitVec.ofNat 11 o)) | _ => none⟩,
  ⟨0x36, false, false, 0x0, 0x0, [⟨28, 4⟩, ⟨16, 5⟩, ⟨11, 5⟩, ⟨0, 11⟩],
    fun vs _ => match vs with | [y, a, b, o] => some (.cBgeu (BitVec.ofNat 4 y) (Fin.ofNat 32 a) (Fin.ofNat 32 b) (BitVec.ofNat 11 o)) | _ => none⟩,
  ⟨0x37, false, false, 0x0, 0x0, [⟨28, 4⟩, ⟨16, 5⟩, ⟨0, 16⟩],
    fun vs _ => match vs with | [y, d, o] => some (.cCall (BitVec.ofNat 4 y) (Fin.ofNat 32 d) (BitVec.ofNat 16 o)) | _ => none⟩,
  ⟨0x38, false, false, 0x0, 0x0, [⟨28, 4⟩, ⟨11, 5⟩],
    fun vs _ => match vs with | [y, a] => some (.cRet (BitVec.ofNat 4 y) (Fin.ofNat 32 a)) | _ => none⟩,
  ⟨0x39, false, false, 0x0, 0x0, [⟨28, 4⟩, ⟨16, 5⟩, ⟨0, 16⟩],
    fun vs _ => match vs with | [y, a, e] => some (.cLoop (BitVec.ofNat 4 y) (Fin.ofNat 32 a) (BitVec.ofNat 16 e)) | _ => none⟩,
  ⟨0x40, false, false, 0x0, 0x0, [⟨28, 4⟩, ⟨16, 5⟩, ⟨0, 11⟩],
    fun vs _ => match vs with | [y, d, csr] => some (.cCsrr (BitVec.ofNat 4 y) (Fin.ofNat 32 d) (BitVec.ofNat 11 csr)) | _ => none⟩,
  ⟨0x41, false, false, 0x0, 0x0, [⟨28, 4⟩, ⟨11, 5⟩, ⟨0, 11⟩],
    fun vs _ => match vs with | [y, a, csr] => some (.cCsrw (BitVec.ofNat 4 y) (Fin.ofNat 32 a) (BitVec.ofNat 11 csr)) | _ => none⟩,
  ⟨0x42, false, false, 0x0, 0x0, [⟨28, 4⟩, ⟨11, 5⟩, ⟨0, 11⟩],
    fun vs _ => match vs with | [y, a, csr] => some (.cCsrs (BitVec.ofNat 4 y) (Fin.ofNat 32 a) (BitVec.ofNat 11 csr)) | _ => none⟩,
  ⟨0x43, false, false, 0x0, 0x0, [⟨28, 4⟩, ⟨11, 5⟩, ⟨0, 11⟩],
    fun vs _ => match vs with | [y, a, csr] => some (.cCsrc (BitVec.ofNat 4 y) (Fin.ofNat 32 a) (BitVec.ofNat 11 csr)) | _ => none⟩,
  ⟨0x44, false, false, 0x0, 0x0, [⟨28, 4⟩, ⟨16, 5⟩, ⟨11, 5⟩, ⟨0, 11⟩],
    fun vs _ => match vs with | [y, d, a, o] => some (.cLdw (BitVec.ofNat 4 y) (Fin.ofNat 32 d) (Fin.ofNat 32 a) (BitVec.ofNat 11 o)) | _ => none⟩,
  ⟨0x45, false, false, 0x0, 0x0, [⟨28, 4⟩, ⟨16, 5⟩, ⟨11, 5⟩, ⟨0, 11⟩],
    fun vs _ => match vs with | [y, d, a, o] => some (.cStw (BitVec.ofNat 4 y) (Fin.ofNat 32 d) (Fin.ofNat 32 a) (BitVec.ofNat 11 o)) | _ => none⟩]

def rowsC2 : List Row := [
  ⟨0x46, false, false, 0x0, 0x0, [⟨28, 4⟩, ⟨11, 5⟩],
    fun vs _ => match vs with | [y, a] => some (.cFpush (BitVec.ofNat 4 y) (Fin.ofNat 32 a)) | _ => none⟩,
  ⟨0x47, false, false, 0x0, 0x0, [⟨28, 4⟩, ⟨0, 21⟩],
    fun vs _ => match vs with | [y, imm] => some (.cFpushi (BitVec.ofNat 4 y) (BitVec.ofNat 21 imm)) | _ => none⟩,
  ⟨0x48, false, false, 0x0, 0x0, [⟨28, 4⟩, ⟨17, 4⟩, ⟨11, 5⟩],
    fun vs _ => match vs with | [y, t, a] => some (.cTshape (BitVec.ofNat 4 y) (BitVec.ofNat 4 t) (Fin.ofNat 32 a)) | _ => none⟩,
  ⟨0x49, false, false, 0x0, 0x0, [⟨28, 4⟩, ⟨11, 10⟩, ⟨6, 5⟩],
    fun vs _ => match vs with | [y, h, a] => some (.cSeal (BitVec.ofNat 4 y) (Fin.ofNat 1024 h) (Fin.ofNat 32 a)) | _ => none⟩,
  ⟨0x4A, false, false, 0x0, 0x0, [⟨28, 4⟩, ⟨11, 10⟩],
    fun vs _ => match vs with | [y, h] => some (.cUnseal (BitVec.ofNat 4 y) (Fin.ofNat 1024 h)) | _ => none⟩,
  ⟨0x50, false, false, 0x0, 0x0, [⟨28, 4⟩, ⟨0, 2⟩],
    fun vs _ => match vs with | [y, l] => some (.cDbar (BitVec.ofNat 4 y) (BitVec.ofNat 2 l)) | _ => none⟩,
  ⟨0x51, false, false, 0x0, 0x0, [⟨28, 4⟩],
    fun vs _ => match vs with | [y] => some (.cGenf (BitVec.ofNat 4 y)) | _ => none⟩,
  ⟨0x52, false, false, 0x0, 0x0, [⟨28, 4⟩, ⟨11, 5⟩],
    fun vs _ => match vs with | [y, a] => some (.cBound (BitVec.ofNat 4 y) (Fin.ofNat 32 a)) | _ => none⟩,
  ⟨0x53, false, false, 0x0, 0x0, [⟨28, 4⟩, ⟨11, 10⟩, ⟨6, 5⟩, ⟨1, 5⟩, ⟨0, 1⟩],
    fun vs _ => match vs with | [y, h, a, b, t] => some (.cMigrate (BitVec.ofNat 4 y) (Fin.ofNat 1024 h) (Fin.ofNat 32 a) (Fin.ofNat 32 b) (Nat.testBit t 0)) | _ => none⟩,
  ⟨0x54, false, false, 0x0, 0x0, [⟨28, 4⟩, ⟨4, 2⟩, ⟨0, 2⟩],
    fun vs _ => match vs with | [y, o, sc] => some (.cFence (BitVec.ofNat 4 y) (BitVec.ofNat 2 o) (BitVec.ofNat 2 sc)) | _ => none⟩,
  ⟨0x55, false, false, 0x0, 0x0, [⟨28, 4⟩, ⟨11, 10⟩, ⟨6, 5⟩, ⟨1, 5⟩],
    fun vs _ => match vs with | [y, h, a, b] => some (.cFlush (BitVec.ofNat 4 y) (Fin.ofNat 1024 h) (Fin.ofNat 32 a) (Fin.ofNat 32 b)) | _ => none⟩,
  ⟨0x56, false, false, 0x0, 0x0, [⟨28, 4⟩, ⟨8, 1⟩, ⟨0, 8⟩],
    fun vs _ => match vs with | [y, side, n] => some (.cTsig (BitVec.ofNat 4 y) (Nat.testBit side 0) (BitVec.ofNat 8 n)) | _ => none⟩,
  ⟨0x57, false, false, 0x0, 0x0, [⟨28, 4⟩, ⟨8, 1⟩, ⟨0, 8⟩],
    fun vs _ => match vs with | [y, side, n] => some (.cTwait (BitVec.ofNat 4 y) (Nat.testBit side 0) (BitVec.ofNat 8 n)) | _ => none⟩,
  ⟨0x58, false, false, 0x0, 0x0, [⟨28, 4⟩, ⟨11, 10⟩, ⟨6, 5⟩],
    fun vs _ => match vs with | [y, h, a] => some (.cTapec (BitVec.ofNat 4 y) (Fin.ofNat 1024 h) (Fin.ofNat 32 a)) | _ => none⟩,
  ⟨0x59, false, false, 0x0, 0x0, [⟨28, 4⟩, ⟨0, 16⟩],
    fun vs _ => match vs with | [y, code] => some (.cTrap (BitVec.ofNat 4 y) (BitVec.ofNat 16 code)) | _ => none⟩,
  ⟨0x5A, true, false, 0x0, 0x0, [⟨28, 4⟩],
    fun vs _ => match vs with | [y] => some (.cRtt (BitVec.ofNat 4 y)) | _ => none⟩,
  ⟨0x5B, false, false, 0x0, 0x0, [⟨28, 4⟩],
    fun vs _ => match vs with | [y] => some (.cHalt (BitVec.ofNat 4 y)) | _ => none⟩,
  ⟨0x5C, false, false, 0x0, 0x0, [⟨28, 4⟩],
    fun vs _ => match vs with | [y] => some (.cWfe (BitVec.ofNat 4 y)) | _ => none⟩,
  ⟨0x70, true, false, 0x0, 0x0, [⟨28, 4⟩, ⟨11, 5⟩, ⟨6, 5⟩],
    fun vs _ => match vs with | [y, a, b] => some (.cLttw (BitVec.ofNat 4 y) (Fin.ofNat 32 a) (Fin.ofNat 32 b)) | _ => none⟩,
  ⟨0x71, true, false, 0x0, 0x0, [⟨28, 4⟩, ⟨11, 5⟩],
    fun vs _ => match vs with | [y, a] => some (.cLttinv (BitVec.ofNat 4 y) (Fin.ofNat 32 a)) | _ => none⟩,
  ⟨0x72, true, false, 0x0, 0x0, [⟨28, 4⟩, ⟨11, 5⟩, ⟨6, 5⟩],
    fun vs _ => match vs with | [y, a, b] => some (.cDreg (BitVec.ofNat 4 y) (Fin.ofNat 32 a) (Fin.ofNat 32 b)) | _ => none⟩,
  ⟨0x73, true, false, 0x0, 0x0, [⟨28, 4⟩, ⟨11, 5⟩],
    fun vs _ => match vs with | [y, a] => some (.cDfree (BitVec.ofNat 4 y) (Fin.ofNat 32 a)) | _ => none⟩,
  ⟨0x74, true, false, 0x0, 0x0, [⟨28, 4⟩, ⟨11, 5⟩, ⟨6, 5⟩],
    fun vs _ => match vs with | [y, a, b] => some (.cSavec (BitVec.ofNat 4 y) (Fin.ofNat 32 a) (Fin.ofNat 32 b)) | _ => none⟩,
  ⟨0x75, true, false, 0x0, 0x0, [⟨28, 4⟩, ⟨11, 5⟩, ⟨6, 5⟩],
    fun vs _ => match vs with | [y, a, b] => some (.cRestc (BitVec.ofNat 4 y) (Fin.ofNat 32 a) (Fin.ofNat 32 b)) | _ => none⟩]

/-- The C-stream opcode map (R72). -/
def rowsC : List Row := rowsC0 ++ rowsC1 ++ rowsC2

def rowsA0 : List Row := [
  ⟨0x01, false, false, 0x0, 0x0, [⟨60, 4⟩, ⟨47, 5⟩, ⟨42, 5⟩, ⟨37, 5⟩],
    fun vs _ => match vs with | [y, d, a, b] => some (.aAdd (BitVec.ofNat 4 y) (Fin.ofNat 32 d) (Fin.ofNat 32 a) (Fin.ofNat 32 b)) | _ => none⟩,
  ⟨0x02, false, false, 0x0, 0x0, [⟨60, 4⟩, ⟨47, 5⟩, ⟨42, 5⟩, ⟨37, 5⟩],
    fun vs _ => match vs with | [y, d, a, b] => some (.aSub (BitVec.ofNat 4 y) (Fin.ofNat 32 d) (Fin.ofNat 32 a) (Fin.ofNat 32 b)) | _ => none⟩,
  ⟨0x03, false, false, 0x0, 0x0, [⟨60, 4⟩, ⟨47, 5⟩, ⟨42, 5⟩, ⟨37, 5⟩],
    fun vs _ => match vs with | [y, d, a, b] => some (.aAnd (BitVec.ofNat 4 y) (Fin.ofNat 32 d) (Fin.ofNat 32 a) (Fin.ofNat 32 b)) | _ => none⟩,
  ⟨0x04, false, false, 0x0, 0x0, [⟨60, 4⟩, ⟨47, 5⟩, ⟨42, 5⟩, ⟨37, 5⟩],
    fun vs _ => match vs with | [y, d, a, b] => some (.aOr (BitVec.ofNat 4 y) (Fin.ofNat 32 d) (Fin.ofNat 32 a) (Fin.ofNat 32 b)) | _ => none⟩,
  ⟨0x05, false, false, 0x0, 0x0, [⟨60, 4⟩, ⟨47, 5⟩, ⟨42, 5⟩, ⟨37, 5⟩],
    fun vs _ => match vs with | [y, d, a, b] => some (.aXor (BitVec.ofNat 4 y) (Fin.ofNat 32 d) (Fin.ofNat 32 a) (Fin.ofNat 32 b)) | _ => none⟩,
  ⟨0x06, false, false, 0x0, 0x0, [⟨60, 4⟩, ⟨47, 5⟩, ⟨42, 5⟩, ⟨37, 5⟩],
    fun vs _ => match vs with | [y, d, a, b] => some (.aShl (BitVec.ofNat 4 y) (Fin.ofNat 32 d) (Fin.ofNat 32 a) (Fin.ofNat 32 b)) | _ => none⟩,
  ⟨0x07, false, false, 0x0, 0x0, [⟨60, 4⟩, ⟨47, 5⟩, ⟨42, 5⟩, ⟨37, 5⟩],
    fun vs _ => match vs with | [y, d, a, b] => some (.aShr (BitVec.ofNat 4 y) (Fin.ofNat 32 d) (Fin.ofNat 32 a) (Fin.ofNat 32 b)) | _ => none⟩,
  ⟨0x08, false, false, 0x0, 0x0, [⟨60, 4⟩, ⟨47, 5⟩, ⟨42, 5⟩, ⟨37, 5⟩],
    fun vs _ => match vs with | [y, d, a, b] => some (.aSra (BitVec.ofNat 4 y) (Fin.ofNat 32 d) (Fin.ofNat 32 a) (Fin.ofNat 32 b)) | _ => none⟩,
  ⟨0x09, false, false, 0x0, 0x0, [⟨60, 4⟩, ⟨47, 5⟩, ⟨42, 5⟩, ⟨37, 5⟩],
    fun vs _ => match vs with | [y, d, a, b] => some (.aMul (BitVec.ofNat 4 y) (Fin.ofNat 32 d) (Fin.ofNat 32 a) (Fin.ofNat 32 b)) | _ => none⟩,
  ⟨0x0A, false, false, 0x0, 0x0, [⟨60, 4⟩, ⟨47, 5⟩, ⟨42, 5⟩, ⟨37, 5⟩],
    fun vs _ => match vs with | [y, d, a, b] => some (.aMin (BitVec.ofNat 4 y) (Fin.ofNat 32 d) (Fin.ofNat 32 a) (Fin.ofNat 32 b)) | _ => none⟩,
  ⟨0x0B, false, false, 0x0, 0x0, [⟨60, 4⟩, ⟨47, 5⟩, ⟨42, 5⟩, ⟨37, 5⟩],
    fun vs _ => match vs with | [y, d, a, b] => some (.aMax (BitVec.ofNat 4 y) (Fin.ofNat 32 d) (Fin.ofNat 32 a) (Fin.ofNat 32 b)) | _ => none⟩,
  ⟨0x0C, false, false, 0x0, 0x0, [⟨60, 4⟩, ⟨47, 5⟩, ⟨42, 5⟩, ⟨37, 5⟩],
    fun vs _ => match vs with | [y, d, a, b] => some (.aSeq (BitVec.ofNat 4 y) (Fin.ofNat 32 d) (Fin.ofNat 32 a) (Fin.ofNat 32 b)) | _ => none⟩,
  ⟨0x0D, false, false, 0x0, 0x0, [⟨60, 4⟩, ⟨47, 5⟩, ⟨42, 5⟩, ⟨37, 5⟩],
    fun vs _ => match vs with | [y, d, a, b] => some (.aSne (BitVec.ofNat 4 y) (Fin.ofNat 32 d) (Fin.ofNat 32 a) (Fin.ofNat 32 b)) | _ => none⟩,
  ⟨0x0E, false, false, 0x0, 0x0, [⟨60, 4⟩, ⟨47, 5⟩, ⟨42, 5⟩, ⟨37, 5⟩],
    fun vs _ => match vs with | [y, d, a, b] => some (.aSlt (BitVec.ofNat 4 y) (Fin.ofNat 32 d) (Fin.ofNat 32 a) (Fin.ofNat 32 b)) | _ => none⟩,
  ⟨0x0F, false, false, 0x0, 0x0, [⟨60, 4⟩, ⟨47, 5⟩, ⟨42, 5⟩, ⟨37, 5⟩],
    fun vs _ => match vs with | [y, d, a, b] => some (.aSltu (BitVec.ofNat 4 y) (Fin.ofNat 32 d) (Fin.ofNat 32 a) (Fin.ofNat 32 b)) | _ => none⟩,
  ⟨0x10, false, false, 0x0, 0x0, [⟨60, 4⟩, ⟨47, 5⟩, ⟨42, 5⟩, ⟨0, 32⟩],
    fun vs _ => match vs with | [y, d, a, imm] => some (.aAddi (BitVec.ofNat 4 y) (Fin.ofNat 32 d) (Fin.ofNat 32 a) (BitVec.ofNat 32 imm)) | _ => none⟩,
  ⟨0x11, false, false, 0x0, 0x0, [⟨60, 4⟩, ⟨47, 5⟩, ⟨42, 5⟩, ⟨0, 32⟩],
    fun vs _ => match vs with | [y, d, a, imm] => some (.aAndi (BitVec.ofNat 4 y) (Fin.ofNat 32 d) (Fin.ofNat 32 a) (BitVec.ofNat 32 imm)) | _ => none⟩,
  ⟨0x12, false, false, 0x0, 0x0, [⟨60, 4⟩, ⟨47, 5⟩, ⟨42, 5⟩, ⟨0, 6⟩],
    fun vs _ => match vs with | [y, d, a, n] => some (.aShli (BitVec.ofNat 4 y) (Fin.ofNat 32 d) (Fin.ofNat 32 a) (BitVec.ofNat 6 n)) | _ => none⟩,
  ⟨0x13, false, false, 0x0, 0x0, [⟨60, 4⟩, ⟨47, 5⟩, ⟨42, 5⟩, ⟨0, 6⟩],
    fun vs _ => match vs with | [y, d, a, n] => some (.aShri (BitVec.ofNat 4 y) (Fin.ofNat 32 d) (Fin.ofNat 32 a) (BitVec.ofNat 6 n)) | _ => none⟩,
  ⟨0x14, false, false, 0x0, 0x0, [⟨60, 4⟩, ⟨47, 5⟩, ⟨0, 32⟩],
    fun vs _ => match vs with | [y, d, imm] => some (.aLi (BitVec.ofNat 4 y) (Fin.ofNat 32 d) (BitVec.ofNat 32 imm)) | _ => none⟩,
  ⟨0x15, false, false, 0x0, 0x0, [⟨60, 4⟩, ⟨47, 5⟩, ⟨0, 32⟩],
    fun vs _ => match vs with | [y, d, imm] => some (.aLui (BitVec.ofNat 4 y) (Fin.ofNat 32 d) (BitVec.ofNat 32 imm)) | _ => none⟩,
  ⟨0x20, false, false, 0x0, 0x0, [⟨60, 4⟩, ⟨0, 16⟩],
    fun vs _ => match vs with | [y, o] => some (.aB (BitVec.ofNat 4 y) (BitVec.ofNat 16 o)) | _ => none⟩,
  ⟨0x21, false, false, 0x0, 0x0, [⟨60, 4⟩, ⟨47, 5⟩, ⟨42, 5⟩, ⟨0, 16⟩],
    fun vs _ => match vs with | [y, a, b, o] => some (.aBeq (BitVec.ofNat 4 y) (Fin.ofNat 32 a) (Fin.ofNat 32 b) (BitVec.ofNat 16 o)) | _ => none⟩,
  ⟨0x22, false, false, 0x0, 0x0, [⟨60, 4⟩, ⟨47, 5⟩, ⟨42, 5⟩, ⟨0, 16⟩],
    fun vs _ => match vs with | [y, a, b, o] => some (.aBne (BitVec.ofNat 4 y) (Fin.ofNat 32 a) (Fin.ofNat 32 b) (BitVec.ofNat 16 o)) | _ => none⟩]

def rowsA1 : List Row := [
  ⟨0x23, false, false, 0x0, 0x0, [⟨60, 4⟩, ⟨47, 5⟩, ⟨42, 5⟩, ⟨0, 16⟩],
    fun vs _ => match vs with | [y, a, b, o] => some (.aBlt (BitVec.ofNat 4 y) (Fin.ofNat 32 a) (Fin.ofNat 32 b) (BitVec.ofNat 16 o)) | _ => none⟩,
  ⟨0x24, false, false, 0x0, 0x0, [⟨60, 4⟩, ⟨47, 5⟩, ⟨42, 5⟩, ⟨0, 16⟩],
    fun vs _ => match vs with | [y, a, b, o] => some (.aBge (BitVec.ofNat 4 y) (Fin.ofNat 32 a) (Fin.ofNat 32 b) (BitVec.ofNat 16 o)) | _ => none⟩,
  ⟨0x25, false, false, 0x0, 0x0, [⟨60, 4⟩, ⟨47, 5⟩, ⟨42, 5⟩, ⟨0, 16⟩],
    fun vs _ => match vs with | [y, a, b, o] => some (.aBltu (BitVec.ofNat 4 y) (Fin.ofNat 32 a) (Fin.ofNat 32 b) (BitVec.ofNat 16 o)) | _ => none⟩,
  ⟨0x26, false, false, 0x0, 0x0, [⟨60, 4⟩, ⟨47, 5⟩, ⟨42, 5⟩, ⟨0, 16⟩],
    fun vs _ => match vs with | [y, a, b, o] => some (.aBgeu (BitVec.ofNat 4 y) (Fin.ofNat 32 a) (Fin.ofNat 32 b) (BitVec.ofNat 16 o)) | _ => none⟩,
  ⟨0x27, false, false, 0x0, 0x0, [⟨60, 4⟩, ⟨47, 5⟩, ⟨0, 16⟩],
    fun vs _ => match vs with | [y, a, e] => some (.aLoop (BitVec.ofNat 4 y) (Fin.ofNat 32 a) (BitVec.ofNat 16 e)) | _ => none⟩,
  ⟨0x28, false, false, 0x0, 0x0, [⟨60, 4⟩, ⟨16, 4⟩, ⟨0, 16⟩],
    fun vs _ => match vs with | [y, qual, o] => some (.aBrq (BitVec.ofNat 4 y) (BitVec.ofNat 4 qual) (BitVec.ofNat 16 o)) | _ => none⟩,
  ⟨0x29, false, false, 0x6000000, 0x0, [⟨60, 4⟩, ⟨42, 5⟩],
    fun vs _ => match vs with | [y, a] => some (.aOpush (BitVec.ofNat 4 y) (Fin.ofNat 32 a)) | _ => none⟩,
  ⟨0x2A, false, false, 0x5000000, 0x0, [⟨60, 4⟩, ⟨47, 5⟩],
    fun vs _ => match vs with | [y, d] => some (.aVqpop (BitVec.ofNat 4 y) (Fin.ofNat 32 d)) | _ => none⟩,
  ⟨0x2B, false, false, 0x0, 0x0, [⟨60, 4⟩, ⟨42, 5⟩],
    fun vs _ => match vs with | [y, a] => some (.aBound (BitVec.ofNat 4 y) (Fin.ofNat 32 a)) | _ => none⟩,
  ⟨0x2C, false, false, 0x0, 0x0, [⟨60, 4⟩],
    fun vs _ => match vs with | [y] => some (.aEnd (BitVec.ofNat 4 y)) | _ => none⟩,
  ⟨0x2D, false, false, 0x0, 0x0, [⟨60, 4⟩],
    fun vs _ => match vs with | [y] => some (.aNop (BitVec.ofNat 4 y)) | _ => none⟩,
  ⟨0x30, false, false, 0x0, 0x0, [⟨60, 4⟩, ⟨24, 2⟩, ⟨42, 10⟩, ⟨37, 5⟩, ⟨27, 5⟩, ⟨18, 6⟩, ⟨16, 2⟩, ⟨14, 2⟩],
    fun vs _ => match vs with | [y, q, h, cf, b, ty, o, sc] => some (.aLd8 (BitVec.ofNat 4 y) (Fin.ofNat 4 q) (Fin.ofNat 1024 h) (Fin.ofNat 32 cf) (Fin.ofNat 32 b) (BitVec.ofNat 6 ty) (BitVec.ofNat 2 o) (BitVec.ofNat 2 sc)) | _ => none⟩,
  ⟨0x31, false, false, 0x0, 0x0, [⟨60, 4⟩, ⟨24, 2⟩, ⟨42, 10⟩, ⟨37, 5⟩, ⟨27, 5⟩, ⟨18, 6⟩, ⟨16, 2⟩, ⟨14, 2⟩],
    fun vs _ => match vs with | [y, q, h, cf, b, ty, o, sc] => some (.aLd16 (BitVec.ofNat 4 y) (Fin.ofNat 4 q) (Fin.ofNat 1024 h) (Fin.ofNat 32 cf) (Fin.ofNat 32 b) (BitVec.ofNat 6 ty) (BitVec.ofNat 2 o) (BitVec.ofNat 2 sc)) | _ => none⟩,
  ⟨0x32, false, false, 0x0, 0x0, [⟨60, 4⟩, ⟨24, 2⟩, ⟨42, 10⟩, ⟨37, 5⟩, ⟨27, 5⟩, ⟨18, 6⟩, ⟨16, 2⟩, ⟨14, 2⟩],
    fun vs _ => match vs with | [y, q, h, cf, b, ty, o, sc] => some (.aLd32 (BitVec.ofNat 4 y) (Fin.ofNat 4 q) (Fin.ofNat 1024 h) (Fin.ofNat 32 cf) (Fin.ofNat 32 b) (BitVec.ofNat 6 ty) (BitVec.ofNat 2 o) (BitVec.ofNat 2 sc)) | _ => none⟩,
  ⟨0x33, false, false, 0x0, 0x0, [⟨60, 4⟩, ⟨24, 2⟩, ⟨42, 10⟩, ⟨37, 5⟩, ⟨27, 5⟩, ⟨18, 6⟩, ⟨16, 2⟩, ⟨14, 2⟩],
    fun vs _ => match vs with | [y, q, h, cf, b, ty, o, sc] => some (.aLd64 (BitVec.ofNat 4 y) (Fin.ofNat 4 q) (Fin.ofNat 1024 h) (Fin.ofNat 32 cf) (Fin.ofNat 32 b) (BitVec.ofNat 6 ty) (BitVec.ofNat 2 o) (BitVec.ofNat 2 sc)) | _ => none⟩,
  ⟨0x34, false, false, 0x4000000, 0x0, [⟨60, 4⟩, ⟨42, 10⟩, ⟨37, 5⟩, ⟨27, 5⟩, ⟨18, 6⟩, ⟨16, 2⟩, ⟨14, 2⟩],
    fun vs _ => match vs with | [y, h, cf, b, ty, o, sc] => some (.aSt8 (BitVec.ofNat 4 y) (Fin.ofNat 1024 h) (Fin.ofNat 32 cf) (Fin.ofNat 32 b) (BitVec.ofNat 6 ty) (BitVec.ofNat 2 o) (BitVec.ofNat 2 sc)) | _ => none⟩,
  ⟨0x35, false, false, 0x4000000, 0x0, [⟨60, 4⟩, ⟨42, 10⟩, ⟨37, 5⟩, ⟨27, 5⟩, ⟨18, 6⟩, ⟨16, 2⟩, ⟨14, 2⟩],
    fun vs _ => match vs with | [y, h, cf, b, ty, o, sc] => some (.aSt16 (BitVec.ofNat 4 y) (Fin.ofNat 1024 h) (Fin.ofNat 32 cf) (Fin.ofNat 32 b) (BitVec.ofNat 6 ty) (BitVec.ofNat 2 o) (BitVec.ofNat 2 sc)) | _ => none⟩,
  ⟨0x36, false, false, 0x4000000, 0x0, [⟨60, 4⟩, ⟨42, 10⟩, ⟨37, 5⟩, ⟨27, 5⟩, ⟨18, 6⟩, ⟨16, 2⟩, ⟨14, 2⟩],
    fun vs _ => match vs with | [y, h, cf, b, ty, o, sc] => some (.aSt32 (BitVec.ofNat 4 y) (Fin.ofNat 1024 h) (Fin.ofNat 32 cf) (Fin.ofNat 32 b) (BitVec.ofNat 6 ty) (BitVec.ofNat 2 o) (BitVec.ofNat 2 sc)) | _ => none⟩,
  ⟨0x37, false, false, 0x4000000, 0x0, [⟨60, 4⟩, ⟨42, 10⟩, ⟨37, 5⟩, ⟨27, 5⟩, ⟨18, 6⟩, ⟨16, 2⟩, ⟨14, 2⟩],
    fun vs _ => match vs with | [y, h, cf, b, ty, o, sc] => some (.aSt64 (BitVec.ofNat 4 y) (Fin.ofNat 1024 h) (Fin.ofNat 32 cf) (Fin.ofNat 32 b) (BitVec.ofNat 6 ty) (BitVec.ofNat 2 o) (BitVec.ofNat 2 sc)) | _ => none⟩,
  ⟨0x38, false, false, 0x0, 0xFC0000, [⟨60, 4⟩, ⟨24, 2⟩, ⟨42, 10⟩, ⟨37, 5⟩],
    fun vs _ => match vs with | [y, q, h, cf] => some (.aLdt (BitVec.ofNat 4 y) (Fin.ofNat 4 q) (Fin.ofNat 1024 h) (Fin.ofNat 32 cf)) | _ => none⟩,
  ⟨0x39, false, false, 0x4000000, 0xFC0000, [⟨60, 4⟩, ⟨42, 10⟩, ⟨37, 5⟩],
    fun vs _ => match vs with | [y, h, cf] => some (.aStt (BitVec.ofNat 4 y) (Fin.ofNat 1024 h) (Fin.ofNat 32 cf)) | _ => none⟩,
  ⟨0x3A, false, false, 0x0, 0x0, [⟨60, 4⟩, ⟨24, 2⟩, ⟨42, 5⟩],
    fun vs _ => match vs with | [y, q, a] => some (.aLdi (BitVec.ofNat 4 y) (Fin.ofNat 4 q) (Fin.ofNat 32 a)) | _ => none⟩,
  ⟨0x3B, false, false, 0x0, 0xFC0000, [⟨60, 4⟩, ⟨24, 2⟩, ⟨32, 5⟩, ⟨42, 10⟩, ⟨37, 5⟩, ⟨27, 5⟩, ⟨16, 2⟩, ⟨14, 2⟩],
    fun vs _ => match vs with | [y, q, d, h, cf, b, o, sc] => some (.aLdv (BitVec.ofNat 4 y) (Fin.ofNat 4 q) (Fin.ofNat 32 d) (Fin.ofNat 1024 h) (Fin.ofNat 32 cf) (Fin.ofNat 32 b) (BitVec.ofNat 2 o) (BitVec.ofNat 2 sc)) | _ => none⟩,
  ⟨0x3C, false, false, 0x0, 0xFC0000, [⟨60, 4⟩, ⟨24, 2⟩, ⟨32, 5⟩, ⟨42, 10⟩, ⟨37, 5⟩, ⟨27, 5⟩, ⟨16, 2⟩, ⟨14, 2⟩],
    fun vs _ => match vs with | [y, q, d, h, cf, b, o, sc] => some (.aLdvBqa (BitVec.ofNat 4 y) (Fin.ofNat 4 q) (Fin.ofNat 32 d) (Fin.ofNat 1024 h) (Fin.ofNat 32 cf) (Fin.ofNat 32 b) (BitVec.ofNat 2 o) (BitVec.ofNat 2 sc)) | _ => none⟩]

def rowsA2 : List Row := [
  ⟨0x40, false, false, 0x0, 0x0, [⟨60, 4⟩, ⟨32, 5⟩, ⟨42, 10⟩, ⟨37, 5⟩, ⟨18, 6⟩, ⟨16, 2⟩, ⟨14, 2⟩],
    fun vs _ => match vs with | [y, d, h, cf, ty, o, sc] => some (.aLda8 (BitVec.ofNat 4 y) (Fin.ofNat 32 d) (Fin.ofNat 1024 h) (Fin.ofNat 32 cf) (BitVec.ofNat 6 ty) (BitVec.ofNat 2 o) (BitVec.ofNat 2 sc)) | _ => none⟩,
  ⟨0x41, false, false, 0x0, 0x0, [⟨60, 4⟩, ⟨32, 5⟩, ⟨42, 10⟩, ⟨37, 5⟩, ⟨18, 6⟩, ⟨16, 2⟩, ⟨14, 2⟩],
    fun vs _ => match vs with | [y, d, h, cf, ty, o, sc] => some (.aLda16 (BitVec.ofNat 4 y) (Fin.ofNat 32 d) (Fin.ofNat 1024 h) (Fin.ofNat 32 cf) (BitVec.ofNat 6 ty) (BitVec.ofNat 2 o) (BitVec.ofNat 2 sc)) | _ => none⟩,
  ⟨0x42, false, false, 0x0, 0x0, [⟨60, 4⟩, ⟨32, 5⟩, ⟨42, 10⟩, ⟨37, 5⟩, ⟨18, 6⟩, ⟨16, 2⟩, ⟨14, 2⟩],
    fun vs _ => match vs with | [y, d, h, cf, ty, o, sc] => some (.aLda32 (BitVec.ofNat 4 y) (Fin.ofNat 32 d) (Fin.ofNat 1024 h) (Fin.ofNat 32 cf) (BitVec.ofNat 6 ty) (BitVec.ofNat 2 o) (BitVec.ofNat 2 sc)) | _ => none⟩,
  ⟨0x43, false, false, 0x0, 0x0, [⟨60, 4⟩, ⟨32, 5⟩, ⟨42, 10⟩, ⟨37, 5⟩, ⟨18, 6⟩, ⟨16, 2⟩, ⟨14, 2⟩],
    fun vs _ => match vs with | [y, d, h, cf, ty, o, sc] => some (.aLda64 (BitVec.ofNat 4 y) (Fin.ofNat 32 d) (Fin.ofNat 1024 h) (Fin.ofNat 32 cf) (BitVec.ofNat 6 ty) (BitVec.ofNat 2 o) (BitVec.ofNat 2 sc)) | _ => none⟩,
  ⟨0x44, false, false, 0x0, 0x0, [⟨60, 4⟩, ⟨42, 10⟩, ⟨37, 5⟩, ⟨27, 5⟩, ⟨18, 6⟩, ⟨16, 2⟩, ⟨14, 2⟩],
    fun vs _ => match vs with | [y, h, cf, b, ty, o, sc] => some (.aSta8 (BitVec.ofNat 4 y) (Fin.ofNat 1024 h) (Fin.ofNat 32 cf) (Fin.ofNat 32 b) (BitVec.ofNat 6 ty) (BitVec.ofNat 2 o) (BitVec.ofNat 2 sc)) | _ => none⟩,
  ⟨0x45, false, false, 0x0, 0x0, [⟨60, 4⟩, ⟨42, 10⟩, ⟨37, 5⟩, ⟨27, 5⟩, ⟨18, 6⟩, ⟨16, 2⟩, ⟨14, 2⟩],
    fun vs _ => match vs with | [y, h, cf, b, ty, o, sc] => some (.aSta16 (BitVec.ofNat 4 y) (Fin.ofNat 1024 h) (Fin.ofNat 32 cf) (Fin.ofNat 32 b) (BitVec.ofNat 6 ty) (BitVec.ofNat 2 o) (BitVec.ofNat 2 sc)) | _ => none⟩,
  ⟨0x46, false, false, 0x0, 0x0, [⟨60, 4⟩, ⟨42, 10⟩, ⟨37, 5⟩, ⟨27, 5⟩, ⟨18, 6⟩, ⟨16, 2⟩, ⟨14, 2⟩],
    fun vs _ => match vs with | [y, h, cf, b, ty, o, sc] => some (.aSta32 (BitVec.ofNat 4 y) (Fin.ofNat 1024 h) (Fin.ofNat 32 cf) (Fin.ofNat 32 b) (BitVec.ofNat 6 ty) (BitVec.ofNat 2 o) (BitVec.ofNat 2 sc)) | _ => none⟩,
  ⟨0x47, false, false, 0x0, 0x0, [⟨60, 4⟩, ⟨42, 10⟩, ⟨37, 5⟩, ⟨27, 5⟩, ⟨18, 6⟩, ⟨16, 2⟩, ⟨14, 2⟩],
    fun vs _ => match vs with | [y, h, cf, b, ty, o, sc] => some (.aSta64 (BitVec.ofNat 4 y) (Fin.ofNat 1024 h) (Fin.ofNat 32 cf) (Fin.ofNat 32 b) (BitVec.ofNat 6 ty) (BitVec.ofNat 2 o) (BitVec.ofNat 2 sc)) | _ => none⟩,
  ⟨0x48, false, false, 0x0, 0x0, [⟨60, 4⟩, ⟨20, 4⟩, ⟨42, 10⟩, ⟨28, 4⟩, ⟨32, 10⟩, ⟨24, 4⟩, ⟨16, 4⟩, ⟨0, 16⟩],
    fun vs _ => match vs with | [y, tok, hd, dcf, hs, scf, len, wd] => some (.aCpy (BitVec.ofNat 4 y) (Fin.ofNat 16 tok) (Fin.ofNat 1024 hd) (Fin.ofNat 16 dcf) (Fin.ofNat 1024 hs) (Fin.ofNat 16 scf) (Fin.ofNat 16 len) (BitVec.ofNat 16 wd)) | _ => none⟩,
  ⟨0x49, false, false, 0x0, 0x0, [⟨60, 4⟩, ⟨20, 4⟩, ⟨42, 10⟩, ⟨28, 4⟩, ⟨32, 10⟩, ⟨24, 4⟩, ⟨16, 4⟩, ⟨0, 16⟩],
    fun vs _ => match vs with | [y, tok, hd, dcf, hs, scf, len, wd] => some (.aCpy2d (BitVec.ofNat 4 y) (Fin.ofNat 16 tok) (Fin.ofNat 1024 hd) (Fin.ofNat 16 dcf) (Fin.ofNat 1024 hs) (Fin.ofNat 16 scf) (Fin.ofNat 16 len) (BitVec.ofNat 16 wd)) | _ => none⟩,
  ⟨0x4A, false, false, 0x0, 0x0, [⟨60, 4⟩, ⟨20, 4⟩, ⟨42, 10⟩, ⟨28, 4⟩, ⟨32, 10⟩, ⟨24, 4⟩, ⟨16, 4⟩, ⟨0, 16⟩],
    fun vs _ => match vs with | [y, tok, hd, dcf, hs, scf, len, wd] => some (.aCpyx (BitVec.ofNat 4 y) (Fin.ofNat 16 tok) (Fin.ofNat 1024 hd) (Fin.ofNat 16 dcf) (Fin.ofNat 1024 hs) (Fin.ofNat 16 scf) (Fin.ofNat 16 len) (BitVec.ofNat 16 wd)) | _ => none⟩,
  ⟨0x50, false, false, 0x0, 0xFC0000, [⟨60, 4⟩, ⟨10, 4⟩, ⟨32, 5⟩, ⟨42, 10⟩, ⟨37, 5⟩],
    fun vs _ => match vs with | [y, qual, d, h, cf] => some (.aDqry (BitVec.ofNat 4 y) (BitVec.ofNat 4 qual) (Fin.ofNat 32 d) (Fin.ofNat 1024 h) (Fin.ofNat 32 cf)) | _ => none⟩,
  ⟨0x51, false, false, 0x0, 0xFC0000, [⟨60, 4⟩, ⟨10, 4⟩, ⟨24, 2⟩, ⟨42, 10⟩, ⟨37, 5⟩, ⟨27, 5⟩],
    fun vs _ => match vs with | [y, qual, q, h, cf, b] => some (.aDqryv (BitVec.ofNat 4 y) (BitVec.ofNat 4 qual) (Fin.ofNat 4 q) (Fin.ofNat 1024 h) (Fin.ofNat 32 cf) (Fin.ofNat 32 b)) | _ => none⟩,
  ⟨0x52, false, false, 0x0, 0xFC0000, [⟨60, 4⟩, ⟨42, 10⟩, ⟨37, 5⟩, ⟨27, 5⟩],
    fun vs _ => match vs with | [y, h, cf, b] => some (.aDqpf (BitVec.ofNat 4 y) (Fin.ofNat 1024 h) (Fin.ofNat 32 cf) (Fin.ofNat 32 b)) | _ => none⟩,
  ⟨0x53, false, false, 0x0, 0xFC0000, [⟨60, 4⟩, ⟨42, 10⟩, ⟨37, 5⟩, ⟨27, 5⟩],
    fun vs _ => match vs with | [y, h, cf, b] => some (.aDscan (BitVec.ofNat 4 y) (Fin.ofNat 1024 h) (Fin.ofNat 32 cf) (Fin.ofNat 32 b)) | _ => none⟩,
  ⟨0x54, false, false, 0x0, 0xFC0000, [⟨60, 4⟩, ⟨16, 2⟩, ⟨14, 2⟩],
    fun vs _ => match vs with | [y, o, sc] => some (.aFence (BitVec.ofNat 4 y) (BitVec.ofNat 2 o) (BitVec.ofNat 2 sc)) | _ => none⟩,
  ⟨0x55, false, false, 0x0, 0xFC0000, [⟨60, 4⟩, ⟨42, 10⟩, ⟨37, 5⟩],
    fun vs _ => match vs with | [y, h, cf] => some (.aWaita (BitVec.ofNat 4 y) (Fin.ofNat 1024 h) (Fin.ofNat 32 cf)) | _ => none⟩,
  ⟨0x60, false, false, 0x80000, 0x0, [⟨60, 4⟩, ⟨42, 10⟩, ⟨37, 5⟩, ⟨27, 5⟩, ⟨16, 2⟩, ⟨14, 2⟩],
    fun vs _ => match vs with | [y, h, cf, b, o, sc] => some (.aAaddI32 (BitVec.ofNat 4 y) (Fin.ofNat 1024 h) (Fin.ofNat 32 cf) (Fin.ofNat 32 b) (BitVec.ofNat 2 o) (BitVec.ofNat 2 sc)) | _ => none⟩,
  ⟨0x61, false, false, 0xC0000, 0x0, [⟨60, 4⟩, ⟨42, 10⟩, ⟨37, 5⟩, ⟨27, 5⟩, ⟨16, 2⟩, ⟨14, 2⟩],
    fun vs _ => match vs with | [y, h, cf, b, o, sc] => some (.aAaddI64 (BitVec.ofNat 4 y) (Fin.ofNat 1024 h) (Fin.ofNat 32 cf) (Fin.ofNat 32 b) (BitVec.ofNat 2 o) (BitVec.ofNat 2 sc)) | _ => none⟩,
  ⟨0x62, false, false, 0x140000, 0x0, [⟨60, 4⟩, ⟨42, 10⟩, ⟨37, 5⟩, ⟨27, 5⟩, ⟨16, 2⟩, ⟨14, 2⟩],
    fun vs _ => match vs with | [y, h, cf, b, o, sc] => some (.aAaddF32 (BitVec.ofNat 4 y) (Fin.ofNat 1024 h) (Fin.ofNat 32 cf) (Fin.ofNat 32 b) (BitVec.ofNat 2 o) (BitVec.ofNat 2 sc)) | _ => none⟩,
  ⟨0x63, false, false, 0x0, 0x0, [⟨60, 4⟩, ⟨42, 10⟩, ⟨37, 5⟩, ⟨27, 5⟩, ⟨18, 6⟩, ⟨16, 2⟩, ⟨14, 2⟩],
    fun vs _ => match vs with | [y, h, cf, b, ty, o, sc] => some (.aAmin (BitVec.ofNat 4 y) (Fin.ofNat 1024 h) (Fin.ofNat 32 cf) (Fin.ofNat 32 b) (BitVec.ofNat 6 ty) (BitVec.ofNat 2 o) (BitVec.ofNat 2 sc)) | _ => none⟩,
  ⟨0x64, false, false, 0x0, 0x0, [⟨60, 4⟩, ⟨42, 10⟩, ⟨37, 5⟩, ⟨27, 5⟩, ⟨18, 6⟩, ⟨16, 2⟩, ⟨14, 2⟩],
    fun vs _ => match vs with | [y, h, cf, b, ty, o, sc] => some (.aAmax (BitVec.ofNat 4 y) (Fin.ofNat 1024 h) (Fin.ofNat 32 cf) (Fin.ofNat 32 b) (BitVec.ofNat 6 ty) (BitVec.ofNat 2 o) (BitVec.ofNat 2 sc)) | _ => none⟩,
  ⟨0x65, false, false, 0x0, 0x0, [⟨60, 4⟩, ⟨42, 10⟩, ⟨37, 5⟩, ⟨27, 5⟩, ⟨18, 6⟩, ⟨16, 2⟩, ⟨14, 2⟩],
    fun vs _ => match vs with | [y, h, cf, b, ty, o, sc] => some (.aAand (BitVec.ofNat 4 y) (Fin.ofNat 1024 h) (Fin.ofNat 32 cf) (Fin.ofNat 32 b) (BitVec.ofNat 6 ty) (BitVec.ofNat 2 o) (BitVec.ofNat 2 sc)) | _ => none⟩,
  ⟨0x66, false, false, 0x0, 0x0, [⟨60, 4⟩, ⟨42, 10⟩, ⟨37, 5⟩, ⟨27, 5⟩, ⟨18, 6⟩, ⟨16, 2⟩, ⟨14, 2⟩],
    fun vs _ => match vs with | [y, h, cf, b, ty, o, sc] => some (.aAor (BitVec.ofNat 4 y) (Fin.ofNat 1024 h) (Fin.ofNat 32 cf) (Fin.ofNat 32 b) (BitVec.ofNat 6 ty) (BitVec.ofNat 2 o) (BitVec.ofNat 2 sc)) | _ => none⟩]

def rowsA3 : List Row := [
  ⟨0x67, false, false, 0x0, 0x0, [⟨60, 4⟩, ⟨42, 10⟩, ⟨37, 5⟩, ⟨27, 5⟩, ⟨18, 6⟩, ⟨16, 2⟩, ⟨14, 2⟩],
    fun vs _ => match vs with | [y, h, cf, b, ty, o, sc] => some (.aAxor (BitVec.ofNat 4 y) (Fin.ofNat 1024 h) (Fin.ofNat 32 cf) (Fin.ofNat 32 b) (BitVec.ofNat 6 ty) (BitVec.ofNat 2 o) (BitVec.ofNat 2 sc)) | _ => none⟩,
  ⟨0x68, false, false, 0x80000, 0x0, [⟨60, 4⟩, ⟨32, 5⟩, ⟨42, 10⟩, ⟨37, 5⟩, ⟨27, 5⟩, ⟨16, 2⟩, ⟨14, 2⟩],
    fun vs _ => match vs with | [y, d, h, cf, b, o, sc] => some (.aAfaddI32 (BitVec.ofNat 4 y) (Fin.ofNat 32 d) (Fin.ofNat 1024 h) (Fin.ofNat 32 cf) (Fin.ofNat 32 b) (BitVec.ofNat 2 o) (BitVec.ofNat 2 sc)) | _ => none⟩,
  ⟨0x69, false, false, 0xC0000, 0x0, [⟨60, 4⟩, ⟨32, 5⟩, ⟨42, 10⟩, ⟨37, 5⟩, ⟨27, 5⟩, ⟨16, 2⟩, ⟨14, 2⟩],
    fun vs _ => match vs with | [y, d, h, cf, b, o, sc] => some (.aAfaddI64 (BitVec.ofNat 4 y) (Fin.ofNat 32 d) (Fin.ofNat 1024 h) (Fin.ofNat 32 cf) (Fin.ofNat 32 b) (BitVec.ofNat 2 o) (BitVec.ofNat 2 sc)) | _ => none⟩,
  ⟨0x6A, false, false, 0x140000, 0x0, [⟨60, 4⟩, ⟨32, 5⟩, ⟨42, 10⟩, ⟨37, 5⟩, ⟨27, 5⟩, ⟨16, 2⟩, ⟨14, 2⟩],
    fun vs _ => match vs with | [y, d, h, cf, b, o, sc] => some (.aAfaddF32 (BitVec.ofNat 4 y) (Fin.ofNat 32 d) (Fin.ofNat 1024 h) (Fin.ofNat 32 cf) (Fin.ofNat 32 b) (BitVec.ofNat 2 o) (BitVec.ofNat 2 sc)) | _ => none⟩,
  ⟨0x6B, false, false, 0x0, 0x0, [⟨60, 4⟩, ⟨32, 5⟩, ⟨42, 10⟩, ⟨37, 5⟩, ⟨27, 5⟩, ⟨18, 6⟩, ⟨16, 2⟩, ⟨14, 2⟩],
    fun vs _ => match vs with | [y, d, h, cf, b, ty, o, sc] => some (.aAxchg (BitVec.ofNat 4 y) (Fin.ofNat 32 d) (Fin.ofNat 1024 h) (Fin.ofNat 32 cf) (Fin.ofNat 32 b) (BitVec.ofNat 6 ty) (BitVec.ofNat 2 o) (BitVec.ofNat 2 sc)) | _ => none⟩,
  ⟨0x6C, false, false, 0x0, 0x0, [⟨60, 4⟩, ⟨32, 5⟩, ⟨42, 10⟩, ⟨37, 5⟩, ⟨27, 5⟩, ⟨5, 5⟩, ⟨18, 6⟩, ⟨16, 2⟩, ⟨14, 2⟩],
    fun vs _ => match vs with | [y, d, h, cf, b, x, ty, o, sc] => some (.aAcas (BitVec.ofNat 4 y) (Fin.ofNat 32 d) (Fin.ofNat 1024 h) (Fin.ofNat 32 cf) (Fin.ofNat 32 b) (Fin.ofNat 32 x) (BitVec.ofNat 6 ty) (BitVec.ofNat 2 o) (BitVec.ofNat 2 sc)) | _ => none⟩,
  ⟨0x6D, false, false, 0x4000000, 0x0, [⟨60, 4⟩, ⟨42, 10⟩, ⟨37, 5⟩, ⟨27, 5⟩, ⟨18, 6⟩],
    fun vs _ => match vs with | [y, h, cf, b, ty] => some (.aAscat (BitVec.ofNat 4 y) (Fin.ofNat 1024 h) (Fin.ofNat 32 cf) (Fin.ofNat 32 b) (BitVec.ofNat 6 ty)) | _ => none⟩,
  ⟨0x70, false, false, 0x4080000, 0x0, [⟨60, 4⟩, ⟨42, 10⟩, ⟨37, 5⟩, ⟨27, 5⟩],
    fun vs _ => match vs with | [y, h, cf, b] => some (.aNmaddI32 (BitVec.ofNat 4 y) (Fin.ofNat 1024 h) (Fin.ofNat 32 cf) (Fin.ofNat 32 b)) | _ => none⟩,
  ⟨0x71, false, false, 0x4140000, 0x0, [⟨60, 4⟩, ⟨42, 10⟩, ⟨37, 5⟩, ⟨27, 5⟩],
    fun vs _ => match vs with | [y, h, cf, b] => some (.aNmaddF32 (BitVec.ofNat 4 y) (Fin.ofNat 1024 h) (Fin.ofNat 32 cf) (Fin.ofNat 32 b)) | _ => none⟩,
  ⟨0x72, false, false, 0x4000000, 0x0, [⟨60, 4⟩, ⟨42, 10⟩, ⟨37, 5⟩, ⟨27, 5⟩, ⟨18, 6⟩],
    fun vs _ => match vs with | [y, h, cf, b, ty] => some (.aNmmin (BitVec.ofNat 4 y) (Fin.ofNat 1024 h) (Fin.ofNat 32 cf) (Fin.ofNat 32 b) (BitVec.ofNat 6 ty)) | _ => none⟩,
  ⟨0x73, false, false, 0x4000000, 0x0, [⟨60, 4⟩, ⟨42, 10⟩, ⟨37, 5⟩, ⟨27, 5⟩, ⟨18, 6⟩],
    fun vs _ => match vs with | [y, h, cf, b, ty] => some (.aNmmax (BitVec.ofNat 4 y) (Fin.ofNat 1024 h) (Fin.ofNat 32 cf) (Fin.ofNat 32 b) (BitVec.ofNat 6 ty)) | _ => none⟩,
  ⟨0x74, false, false, 0x0, 0xFC0000, [⟨60, 4⟩],
    fun vs _ => match vs with | [y] => some (.aNmfence (BitVec.ofNat 4 y)) | _ => none⟩,
  ⟨0x75, false, false, 0x0, 0x0, [⟨60, 4⟩, ⟨17, 2⟩, ⟨42, 10⟩, ⟨28, 4⟩, ⟨32, 10⟩, ⟨24, 4⟩, ⟨20, 4⟩],
    fun vs _ => match vs with | [y, q, ha, acf, hb, bcf, n] => some (.aEmbag (BitVec.ofNat 4 y) (Fin.ofNat 4 q) (Fin.ofNat 1024 ha) (Fin.ofNat 16 acf) (Fin.ofNat 1024 hb) (Fin.ofNat 16 bcf) (Fin.ofNat 16 n)) | _ => none⟩,
  ⟨0x76, false, false, 0x0, 0x0, [⟨60, 4⟩, ⟨17, 2⟩, ⟨42, 10⟩, ⟨28, 4⟩, ⟨32, 10⟩, ⟨24, 4⟩, ⟨20, 4⟩],
    fun vs _ => match vs with | [y, q, ha, acf, hb, bcf, n] => some (.aKvatt (BitVec.ofNat 4 y) (Fin.ofNat 4 q) (Fin.ofNat 1024 ha) (Fin.ofNat 16 acf) (Fin.ofNat 1024 hb) (Fin.ofNat 16 bcf) (Fin.ofNat 16 n)) | _ => none⟩,
  ⟨0x80, false, false, 0x0, 0x0, [⟨60, 4⟩, ⟨20, 4⟩, ⟨42, 10⟩, ⟨28, 4⟩, ⟨32, 10⟩, ⟨24, 4⟩, ⟨16, 4⟩, ⟨0, 16⟩],
    fun vs _ => match vs with | [y, tok, hd, dcf, hs, scf, len, wd] => some (.aPut (BitVec.ofNat 4 y) (Fin.ofNat 16 tok) (Fin.ofNat 1024 hd) (Fin.ofNat 16 dcf) (Fin.ofNat 1024 hs) (Fin.ofNat 16 scf) (Fin.ofNat 16 len) (BitVec.ofNat 16 wd)) | _ => none⟩,
  ⟨0x81, false, false, 0x0, 0x0, [⟨60, 4⟩, ⟨20, 4⟩, ⟨42, 10⟩, ⟨28, 4⟩, ⟨32, 10⟩, ⟨24, 4⟩, ⟨16, 4⟩, ⟨0, 16⟩],
    fun vs _ => match vs with | [y, tok, hd, dcf, hs, scf, len, wd] => some (.aPut2d (BitVec.ofNat 4 y) (Fin.ofNat 16 tok) (Fin.ofNat 1024 hd) (Fin.ofNat 16 dcf) (Fin.ofNat 1024 hs) (Fin.ofNat 16 scf) (Fin.ofNat 16 len) (BitVec.ofNat 16 wd)) | _ => none⟩,
  ⟨0x82, false, false, 0x0, 0x0, [⟨60, 4⟩, ⟨20, 4⟩, ⟨42, 10⟩, ⟨28, 4⟩, ⟨32, 10⟩, ⟨24, 4⟩, ⟨16, 4⟩, ⟨0, 16⟩],
    fun vs _ => match vs with | [y, tok, hd, dcf, hs, scf, len, wd] => some (.aGet (BitVec.ofNat 4 y) (Fin.ofNat 16 tok) (Fin.ofNat 1024 hd) (Fin.ofNat 16 dcf) (Fin.ofNat 1024 hs) (Fin.ofNat 16 scf) (Fin.ofNat 16 len) (BitVec.ofNat 16 wd)) | _ => none⟩,
  ⟨0x83, false, false, 0x0, 0x0, [⟨60, 4⟩, ⟨20, 4⟩, ⟨42, 10⟩, ⟨28, 4⟩, ⟨32, 10⟩, ⟨24, 4⟩, ⟨16, 4⟩, ⟨0, 16⟩],
    fun vs _ => match vs with | [y, tok, hd, dcf, hs, scf, len, wd] => some (.aGet2d (BitVec.ofNat 4 y) (Fin.ofNat 16 tok) (Fin.ofNat 1024 hd) (Fin.ofNat 16 dcf) (Fin.ofNat 1024 hs) (Fin.ofNat 16 scf) (Fin.ofNat 16 len) (BitVec.ofNat 16 wd)) | _ => none⟩,
  ⟨0x84, false, false, 0x0, 0x0, [⟨60, 4⟩, ⟨42, 10⟩, ⟨37, 5⟩, ⟨27, 5⟩, ⟨18, 6⟩],
    fun vs _ => match vs with | [y, h, cf, b, ty] => some (.aRadd (BitVec.ofNat 4 y) (Fin.ofNat 1024 h) (Fin.ofNat 32 cf) (Fin.ofNat 32 b) (BitVec.ofNat 6 ty)) | _ => none⟩,
  ⟨0x85, false, false, 0x0, 0x0, [⟨60, 4⟩, ⟨32, 5⟩, ⟨42, 10⟩, ⟨37, 5⟩, ⟨27, 5⟩, ⟨18, 6⟩],
    fun vs _ => match vs with | [y, d, h, cf, b, ty] => some (.aRfadd (BitVec.ofNat 4 y) (Fin.ofNat 32 d) (Fin.ofNat 1024 h) (Fin.ofNat 32 cf) (Fin.ofNat 32 b) (BitVec.ofNat 6 ty)) | _ => none⟩,
  ⟨0x86, false, false, 0x0, 0x0, [⟨60, 4⟩, ⟨32, 5⟩, ⟨42, 10⟩, ⟨37, 5⟩, ⟨27, 5⟩, ⟨5, 5⟩, ⟨18, 6⟩, ⟨16, 2⟩, ⟨14, 2⟩],
    fun vs _ => match vs with | [y, d, h, cf, b, x, ty, o, sc] => some (.aRcas (BitVec.ofNat 4 y) (Fin.ofNat 32 d) (Fin.ofNat 1024 h) (Fin.ofNat 32 cf) (Fin.ofNat 32 b) (Fin.ofNat 32 x) (BitVec.ofNat 6 ty) (BitVec.ofNat 2 o) (BitVec.ofNat 2 sc)) | _ => none⟩,
  ⟨0x87, false, false, 0x0, 0xFC0000, [⟨60, 4⟩],
    fun vs _ => match vs with | [y] => some (.aFfence (BitVec.ofNat 4 y)) | _ => none⟩,
  ⟨0x88, false, false, 0x0, 0x0, [⟨60, 4⟩, ⟨10, 4⟩, ⟨32, 5⟩, ⟨42, 10⟩, ⟨37, 5⟩, ⟨27, 5⟩, ⟨5, 5⟩, ⟨18, 6⟩],
    fun vs _ => match vs with | [y, qual, d, h, cf, b, x, ty] => some (.aAllred (BitVec.ofNat 4 y) (BitVec.ofNat 4 qual) (Fin.ofNat 32 d) (Fin.ofNat 1024 h) (Fin.ofNat 32 cf) (Fin.ofNat 32 b) (Fin.ofNat 32 x) (BitVec.ofNat 6 ty)) | _ => none⟩,
  ⟨0x89, false, false, 0x0, 0x0, [⟨60, 4⟩, ⟨10, 4⟩, ⟨32, 5⟩, ⟨42, 10⟩, ⟨37, 5⟩, ⟨27, 5⟩, ⟨5, 5⟩, ⟨18, 6⟩],
    fun vs _ => match vs with | [y, qual, d, h, cf, b, x, ty] => some (.aRedscat (BitVec.ofNat 4 y) (BitVec.ofNat 4 qual) (Fin.ofNat 32 d) (Fin.ofNat 1024 h) (Fin.ofNat 32 cf) (Fin.ofNat 32 b) (Fin.ofNat 32 x) (BitVec.ofNat 6 ty)) | _ => none⟩]

def rowsA4 : List Row := [
  ⟨0x8A, false, false, 0x0, 0x0, [⟨60, 4⟩, ⟨10, 4⟩, ⟨32, 5⟩, ⟨42, 10⟩, ⟨37, 5⟩, ⟨27, 5⟩, ⟨5, 5⟩, ⟨18, 6⟩],
    fun vs _ => match vs with | [y, qual, d, h, cf, b, x, ty] => some (.aAllgath (BitVec.ofNat 4 y) (BitVec.ofNat 4 qual) (Fin.ofNat 32 d) (Fin.ofNat 1024 h) (Fin.ofNat 32 cf) (Fin.ofNat 32 b) (Fin.ofNat 32 x) (BitVec.ofNat 6 ty)) | _ => none⟩,
  ⟨0x8B, false, false, 0x0, 0x0, [⟨60, 4⟩, ⟨10, 4⟩, ⟨32, 5⟩, ⟨42, 10⟩, ⟨37, 5⟩, ⟨27, 5⟩, ⟨5, 5⟩, ⟨18, 6⟩],
    fun vs _ => match vs with | [y, qual, d, h, cf, b, x, ty] => some (.aBcast (BitVec.ofNat 4 y) (BitVec.ofNat 4 qual) (Fin.ofNat 32 d) (Fin.ofNat 1024 h) (Fin.ofNat 32 cf) (Fin.ofNat 32 b) (Fin.ofNat 32 x) (BitVec.ofNat 6 ty)) | _ => none⟩]

/-- The A-stream opcode map (R79). -/
def rowsA : List Row := rowsA0 ++ rowsA1 ++ rowsA2 ++ rowsA3 ++ rowsA4

noncomputable def rowsX0 : List Row := [
  ⟨0x01, false, false, 0x0, 0x0, [⟨60, 4⟩, ⟨45, 5⟩, ⟨39, 5⟩, ⟨33, 5⟩],
    fun vs _ => match vs with | [y, d, a, b] => some (.xAdd (BitVec.ofNat 4 y) (Fin.ofNat 32 d) (Fin.ofNat 32 a) (Fin.ofNat 32 b)) | _ => none⟩,
  ⟨0x02, false, false, 0x0, 0x0, [⟨60, 4⟩, ⟨45, 5⟩, ⟨39, 5⟩, ⟨33, 5⟩],
    fun vs _ => match vs with | [y, d, a, b] => some (.xSub (BitVec.ofNat 4 y) (Fin.ofNat 32 d) (Fin.ofNat 32 a) (Fin.ofNat 32 b)) | _ => none⟩,
  ⟨0x03, false, false, 0x0, 0x0, [⟨60, 4⟩, ⟨45, 5⟩, ⟨39, 5⟩, ⟨33, 5⟩],
    fun vs _ => match vs with | [y, d, a, b] => some (.xAnd (BitVec.ofNat 4 y) (Fin.ofNat 32 d) (Fin.ofNat 32 a) (Fin.ofNat 32 b)) | _ => none⟩,
  ⟨0x04, false, false, 0x0, 0x0, [⟨60, 4⟩, ⟨45, 5⟩, ⟨39, 5⟩, ⟨33, 5⟩],
    fun vs _ => match vs with | [y, d, a, b] => some (.xOr (BitVec.ofNat 4 y) (Fin.ofNat 32 d) (Fin.ofNat 32 a) (Fin.ofNat 32 b)) | _ => none⟩,
  ⟨0x05, false, false, 0x0, 0x0, [⟨60, 4⟩, ⟨45, 5⟩, ⟨39, 5⟩, ⟨33, 5⟩],
    fun vs _ => match vs with | [y, d, a, b] => some (.xXor (BitVec.ofNat 4 y) (Fin.ofNat 32 d) (Fin.ofNat 32 a) (Fin.ofNat 32 b)) | _ => none⟩,
  ⟨0x06, false, false, 0x0, 0x0, [⟨60, 4⟩, ⟨45, 5⟩, ⟨39, 5⟩, ⟨33, 5⟩],
    fun vs _ => match vs with | [y, d, a, b] => some (.xShl (BitVec.ofNat 4 y) (Fin.ofNat 32 d) (Fin.ofNat 32 a) (Fin.ofNat 32 b)) | _ => none⟩,
  ⟨0x07, false, false, 0x0, 0x0, [⟨60, 4⟩, ⟨45, 5⟩, ⟨39, 5⟩, ⟨33, 5⟩],
    fun vs _ => match vs with | [y, d, a, b] => some (.xShr (BitVec.ofNat 4 y) (Fin.ofNat 32 d) (Fin.ofNat 32 a) (Fin.ofNat 32 b)) | _ => none⟩,
  ⟨0x08, false, false, 0x0, 0x0, [⟨60, 4⟩, ⟨45, 5⟩, ⟨39, 5⟩, ⟨33, 5⟩],
    fun vs _ => match vs with | [y, d, a, b] => some (.xSra (BitVec.ofNat 4 y) (Fin.ofNat 32 d) (Fin.ofNat 32 a) (Fin.ofNat 32 b)) | _ => none⟩,
  ⟨0x09, false, false, 0x0, 0x0, [⟨60, 4⟩, ⟨45, 5⟩, ⟨39, 5⟩, ⟨33, 5⟩],
    fun vs _ => match vs with | [y, d, a, b] => some (.xMul (BitVec.ofNat 4 y) (Fin.ofNat 32 d) (Fin.ofNat 32 a) (Fin.ofNat 32 b)) | _ => none⟩,
  ⟨0x0A, false, false, 0x0, 0x0, [⟨60, 4⟩, ⟨45, 5⟩, ⟨39, 5⟩, ⟨33, 5⟩],
    fun vs _ => match vs with | [y, d, a, b] => some (.xMin (BitVec.ofNat 4 y) (Fin.ofNat 32 d) (Fin.ofNat 32 a) (Fin.ofNat 32 b)) | _ => none⟩,
  ⟨0x0B, false, false, 0x0, 0x0, [⟨60, 4⟩, ⟨45, 5⟩, ⟨39, 5⟩, ⟨33, 5⟩],
    fun vs _ => match vs with | [y, d, a, b] => some (.xMax (BitVec.ofNat 4 y) (Fin.ofNat 32 d) (Fin.ofNat 32 a) (Fin.ofNat 32 b)) | _ => none⟩,
  ⟨0x0C, false, false, 0x0, 0x0, [⟨60, 4⟩, ⟨45, 5⟩, ⟨39, 5⟩, ⟨0, 32⟩],
    fun vs _ => match vs with | [y, d, a, imm] => some (.xAddi (BitVec.ofNat 4 y) (Fin.ofNat 32 d) (Fin.ofNat 32 a) (BitVec.ofNat 32 imm)) | _ => none⟩,
  ⟨0x0D, false, false, 0x0, 0x0, [⟨60, 4⟩, ⟨45, 5⟩, ⟨0, 32⟩],
    fun vs _ => match vs with | [y, d, imm] => some (.xLi (BitVec.ofNat 4 y) (Fin.ofNat 32 d) (BitVec.ofNat 32 imm)) | _ => none⟩,
  ⟨0x0E, false, false, 0x0, 0x0, [⟨60, 4⟩, ⟨45, 5⟩, ⟨0, 32⟩],
    fun vs _ => match vs with | [y, d, imm] => some (.xLui (BitVec.ofNat 4 y) (Fin.ofNat 32 d) (BitVec.ofNat 32 imm)) | _ => none⟩,
  ⟨0x10, false, false, 0x0, 0x0, [⟨60, 4⟩, ⟨45, 3⟩, ⟨39, 5⟩, ⟨33, 5⟩],
    fun vs _ => match vs with | [y, d, a, b] => some (.xCmpeq (BitVec.ofNat 4 y) (Fin.ofNat 8 d) (Fin.ofNat 32 a) (Fin.ofNat 32 b)) | _ => none⟩,
  ⟨0x11, false, false, 0x0, 0x0, [⟨60, 4⟩, ⟨45, 3⟩, ⟨39, 5⟩, ⟨33, 5⟩],
    fun vs _ => match vs with | [y, d, a, b] => some (.xCmplt (BitVec.ofNat 4 y) (Fin.ofNat 8 d) (Fin.ofNat 32 a) (Fin.ofNat 32 b)) | _ => none⟩,
  ⟨0x12, false, false, 0x0, 0x0, [⟨60, 4⟩, ⟨45, 3⟩, ⟨39, 5⟩, ⟨33, 5⟩],
    fun vs _ => match vs with | [y, d, a, b] => some (.xCmple (BitVec.ofNat 4 y) (Fin.ofNat 8 d) (Fin.ofNat 32 a) (Fin.ofNat 32 b)) | _ => none⟩,
  ⟨0x13, false, false, 0x0, 0x0, [⟨60, 4⟩, ⟨45, 2⟩, ⟨0, 32⟩],
    fun vs _ => match vs with | [y, d, o] => some (.xBtgt (BitVec.ofNat 4 y) (Fin.ofNat 4 d) (BitVec.ofNat 32 o)) | _ => none⟩,
  ⟨0x14, false, false, 0x0, 0x0, [⟨60, 4⟩, ⟨45, 2⟩, ⟨39, 5⟩],
    fun vs _ => match vs with | [y, d, a] => some (.xBtgtReg (BitVec.ofNat 4 y) (Fin.ofNat 4 d) (Fin.ofNat 32 a)) | _ => none⟩,
  ⟨0x15, false, false, 0x0, 0x0, [⟨60, 4⟩, ⟨9, 4⟩, ⟨39, 3⟩, ⟨33, 2⟩],
    fun vs _ => match vs with | [y, qual, ca, tb] => some (.xBx (BitVec.ofNat 4 y) (BitVec.ofNat 4 qual) (Fin.ofNat 8 ca) (Fin.ofNat 4 tb)) | _ => none⟩,
  ⟨0x16, false, false, 0x0, 0x0, [⟨60, 4⟩, ⟨39, 5⟩, ⟨0, 32⟩],
    fun vs _ => match vs with | [y, a, e] => some (.xLoop (BitVec.ofNat 4 y) (Fin.ofNat 32 a) (BitVec.ofNat 32 e)) | _ => none⟩,
  ⟨0x17, false, false, 0x0, 0x0, [⟨60, 4⟩, ⟨9, 4⟩, ⟨45, 3⟩, ⟨39, 4⟩],
    fun vs _ => match vs with | [y, qual, d, a] => some (.xVany (BitVec.ofNat 4 y) (BitVec.ofNat 4 qual) (Fin.ofNat 8 d) (Fin.ofNat 16 a)) | _ => none⟩,
  ⟨0x18, false, false, 0x0, 0x0, [⟨60, 4⟩, ⟨9, 4⟩, ⟨45, 3⟩, ⟨39, 4⟩],
    fun vs _ => match vs with | [y, qual, d, a] => some (.xVall (BitVec.ofNat 4 y) (BitVec.ofNat 4 qual) (Fin.ofNat 8 d) (Fin.ofNat 16 a)) | _ => none⟩,
  ⟨0x19, false, false, 0x0, 0x0, [⟨60, 4⟩, ⟨45, 5⟩, ⟨39, 4⟩],
    fun vs _ => match vs with | [y, d, a] => some (.xPcnt (BitVec.ofNat 4 y) (Fin.ofNat 32 d) (Fin.ofNat 16 a)) | _ => none⟩]

noncomputable def rowsX1 : List Row := [
  ⟨0x1A, false, false, 0x0, 0x0, [⟨60, 4⟩],
    fun vs _ => match vs with | [y] => some (.xNop (BitVec.ofNat 4 y)) | _ => none⟩,
  ⟨0x1B, false, false, 0x0, 0x0, [⟨60, 4⟩, ⟨39, 5⟩],
    fun vs _ => match vs with | [y, a] => some (.xBound (BitVec.ofNat 4 y) (Fin.ofNat 32 a)) | _ => none⟩,
  ⟨0x1C, false, false, 0x0, 0x0, [⟨60, 4⟩],
    fun vs _ => match vs with | [y] => some (.xEnd (BitVec.ofNat 4 y)) | _ => none⟩,
  ⟨0x1D, false, false, 0x0, 0x0, [⟨60, 4⟩, ⟨45, 5⟩, ⟨0, 11⟩],
    fun vs _ => match vs with | [y, d, csr] => some (.xCsrr (BitVec.ofNat 4 y) (Fin.ofNat 32 d) (BitVec.ofNat 11 csr)) | _ => none⟩,
  ⟨0x1E, false, false, 0x0, 0x0, [⟨60, 4⟩, ⟨39, 5⟩, ⟨0, 11⟩],
    fun vs _ => match vs with | [y, a, csr] => some (.xCsrw (BitVec.ofNat 4 y) (Fin.ofNat 32 a) (BitVec.ofNat 11 csr)) | _ => none⟩,
  ⟨0x20, false, false, 0x0, 0x0, [⟨60, 4⟩, ⟨45, 6⟩, ⟨6, 2⟩],
    fun vs _ => match vs with | [y, d, q] => some (.xVpop (BitVec.ofNat 4 y) (Fin.ofNat 64 d) (Fin.ofNat 4 q)) | _ => none⟩,
  ⟨0x21, false, false, 0x0, 0x0, [⟨60, 4⟩, ⟨45, 6⟩, ⟨6, 2⟩],
    fun vs _ => match vs with | [y, d, q] => some (.xVpops (BitVec.ofNat 4 y) (Fin.ofNat 64 d) (Fin.ofNat 4 q)) | _ => none⟩,
  ⟨0x22, false, false, 0x100, 0x0, [⟨60, 4⟩, ⟨39, 6⟩],
    fun vs _ => match vs with | [y, a] => some (.xVpush (BitVec.ofNat 4 y) (Fin.ofNat 64 a)) | _ => none⟩,
  ⟨0x23, false, false, 0x140, 0x0, [⟨60, 4⟩, ⟨39, 5⟩],
    fun vs _ => match vs with | [y, a] => some (.xXpush (BitVec.ofNat 4 y) (Fin.ofNat 32 a)) | _ => none⟩,
  ⟨0x24, false, false, 0x180, 0x0, [⟨60, 4⟩, ⟨45, 3⟩],
    fun vs _ => match vs with | [y, d] => some (.xOpop (BitVec.ofNat 4 y) (Fin.ofNat 8 d)) | _ => none⟩,
  ⟨0x25, false, false, 0x1C0, 0x0, [⟨60, 4⟩, ⟨39, 3⟩],
    fun vs _ => match vs with | [y, a] => some (.xOpush (BitVec.ofNat 4 y) (Fin.ofNat 8 a)) | _ => none⟩,
  ⟨0x30, false, false, 0x0, 0x0, [⟨60, 4⟩, ⟨45, 6⟩, ⟨39, 6⟩, ⟨33, 6⟩, ⟨23, 4⟩, ⟨17, 6⟩],
    fun vs _ => match vs with | [y, d, a, b, g, ty] => some (.xVadd (BitVec.ofNat 4 y) (Fin.ofNat 64 d) (Fin.ofNat 64 a) (Fin.ofNat 64 b) (Fin.ofNat 16 g) (BitVec.ofNat 6 ty)) | _ => none⟩,
  ⟨0x31, false, false, 0x0, 0x0, [⟨60, 4⟩, ⟨45, 6⟩, ⟨39, 6⟩, ⟨33, 6⟩, ⟨23, 4⟩, ⟨17, 6⟩],
    fun vs _ => match vs with | [y, d, a, b, g, ty] => some (.xVsub (BitVec.ofNat 4 y) (Fin.ofNat 64 d) (Fin.ofNat 64 a) (Fin.ofNat 64 b) (Fin.ofNat 16 g) (BitVec.ofNat 6 ty)) | _ => none⟩,
  ⟨0x32, false, false, 0x0, 0x0, [⟨60, 4⟩, ⟨45, 6⟩, ⟨39, 6⟩, ⟨33, 6⟩, ⟨23, 4⟩, ⟨17, 6⟩],
    fun vs _ => match vs with | [y, d, a, b, g, ty] => some (.xVmul (BitVec.ofNat 4 y) (Fin.ofNat 64 d) (Fin.ofNat 64 a) (Fin.ofNat 64 b) (Fin.ofNat 16 g) (BitVec.ofNat 6 ty)) | _ => none⟩,
  ⟨0x33, false, false, 0x0, 0x0, [⟨60, 4⟩, ⟨45, 6⟩, ⟨39, 6⟩, ⟨33, 6⟩, ⟨23, 4⟩, ⟨17, 6⟩],
    fun vs _ => match vs with | [y, d, a, b, g, ty] => some (.xVmulh (BitVec.ofNat 4 y) (Fin.ofNat 64 d) (Fin.ofNat 64 a) (Fin.ofNat 64 b) (Fin.ofNat 16 g) (BitVec.ofNat 6 ty)) | _ => none⟩,
  ⟨0x34, false, false, 0x0, 0x0, [⟨60, 4⟩, ⟨45, 6⟩, ⟨39, 6⟩, ⟨33, 6⟩, ⟨23, 4⟩, ⟨17, 6⟩],
    fun vs _ => match vs with | [y, d, a, b, g, ty] => some (.xVand (BitVec.ofNat 4 y) (Fin.ofNat 64 d) (Fin.ofNat 64 a) (Fin.ofNat 64 b) (Fin.ofNat 16 g) (BitVec.ofNat 6 ty)) | _ => none⟩,
  ⟨0x35, false, false, 0x0, 0x0, [⟨60, 4⟩, ⟨45, 6⟩, ⟨39, 6⟩, ⟨33, 6⟩, ⟨23, 4⟩, ⟨17, 6⟩],
    fun vs _ => match vs with | [y, d, a, b, g, ty] => some (.xVor (BitVec.ofNat 4 y) (Fin.ofNat 64 d) (Fin.ofNat 64 a) (Fin.ofNat 64 b) (Fin.ofNat 16 g) (BitVec.ofNat 6 ty)) | _ => none⟩,
  ⟨0x36, false, false, 0x0, 0x0, [⟨60, 4⟩, ⟨45, 6⟩, ⟨39, 6⟩, ⟨33, 6⟩, ⟨23, 4⟩, ⟨17, 6⟩],
    fun vs _ => match vs with | [y, d, a, b, g, ty] => some (.xVxor (BitVec.ofNat 4 y) (Fin.ofNat 64 d) (Fin.ofNat 64 a) (Fin.ofNat 64 b) (Fin.ofNat 16 g) (BitVec.ofNat 6 ty)) | _ => none⟩,
  ⟨0x37, false, false, 0x0, 0x0, [⟨60, 4⟩, ⟨45, 6⟩, ⟨39, 6⟩, ⟨33, 6⟩, ⟨23, 4⟩, ⟨17, 6⟩],
    fun vs _ => match vs with | [y, d, a, b, g, ty] => some (.xVshl (BitVec.ofNat 4 y) (Fin.ofNat 64 d) (Fin.ofNat 64 a) (Fin.ofNat 64 b) (Fin.ofNat 16 g) (BitVec.ofNat 6 ty)) | _ => none⟩,
  ⟨0x38, false, false, 0x0, 0x0, [⟨60, 4⟩, ⟨45, 6⟩, ⟨39, 6⟩, ⟨33, 6⟩, ⟨23, 4⟩, ⟨17, 6⟩],
    fun vs _ => match vs with | [y, d, a, b, g, ty] => some (.xVshr (BitVec.ofNat 4 y) (Fin.ofNat 64 d) (Fin.ofNat 64 a) (Fin.ofNat 64 b) (Fin.ofNat 16 g) (BitVec.ofNat 6 ty)) | _ => none⟩,
  ⟨0x39, false, false, 0x0, 0x0, [⟨60, 4⟩, ⟨45, 6⟩, ⟨39, 6⟩, ⟨33, 6⟩, ⟨23, 4⟩, ⟨17, 6⟩],
    fun vs _ => match vs with | [y, d, a, b, g, ty] => some (.xVsra (BitVec.ofNat 4 y) (Fin.ofNat 64 d) (Fin.ofNat 64 a) (Fin.ofNat 64 b) (Fin.ofNat 16 g) (BitVec.ofNat 6 ty)) | _ => none⟩,
  ⟨0x3A, false, false, 0x0, 0x0, [⟨60, 4⟩, ⟨45, 6⟩, ⟨39, 6⟩, ⟨33, 6⟩, ⟨23, 4⟩, ⟨17, 6⟩],
    fun vs _ => match vs with | [y, d, a, b, g, ty] => some (.xVmin (BitVec.ofNat 4 y) (Fin.ofNat 64 d) (Fin.ofNat 64 a) (Fin.ofNat 64 b) (Fin.ofNat 16 g) (BitVec.ofNat 6 ty)) | _ => none⟩,
  ⟨0x3B, false, false, 0x0, 0x0, [⟨60, 4⟩, ⟨45, 6⟩, ⟨39, 6⟩, ⟨33, 6⟩, ⟨23, 4⟩, ⟨17, 6⟩],
    fun vs _ => match vs with | [y, d, a, b, g, ty] => some (.xVmax (BitVec.ofNat 4 y) (Fin.ofNat 64 d) (Fin.ofNat 64 a) (Fin.ofNat 64 b) (Fin.ofNat 16 g) (BitVec.ofNat 6 ty)) | _ => none⟩,
  ⟨0x3C, false, false, 0x0, 0x0, [⟨60, 4⟩, ⟨45, 6⟩, ⟨39, 6⟩, ⟨23, 4⟩, ⟨17, 6⟩],
    fun vs _ => match vs with | [y, d, a, g, ty] => some (.xVabs (BitVec.ofNat 4 y) (Fin.ofNat 64 d) (Fin.ofNat 64 a) (Fin.ofNat 16 g) (BitVec.ofNat 6 ty)) | _ => none⟩]

noncomputable def rowsX2 : List Row := [
  ⟨0x40, false, false, 0x0, 0x0, [⟨60, 4⟩, ⟨45, 6⟩, ⟨39, 6⟩, ⟨33, 6⟩, ⟨23, 4⟩, ⟨17, 6⟩, ⟨13, 2⟩],
    fun vs _ => match vs with | [y, d, a, b, g, ty, rnd] => some (.xVfadd (BitVec.ofNat 4 y) (Fin.ofNat 64 d) (Fin.ofNat 64 a) (Fin.ofNat 64 b) (Fin.ofNat 16 g) (BitVec.ofNat 6 ty) (BitVec.ofNat 2 rnd)) | _ => none⟩,
  ⟨0x41, false, false, 0x0, 0x0, [⟨60, 4⟩, ⟨45, 6⟩, ⟨39, 6⟩, ⟨33, 6⟩, ⟨23, 4⟩, ⟨17, 6⟩, ⟨13, 2⟩],
    fun vs _ => match vs with | [y, d, a, b, g, ty, rnd] => some (.xVfsub (BitVec.ofNat 4 y) (Fin.ofNat 64 d) (Fin.ofNat 64 a) (Fin.ofNat 64 b) (Fin.ofNat 16 g) (BitVec.ofNat 6 ty) (BitVec.ofNat 2 rnd)) | _ => none⟩,
  ⟨0x42, false, false, 0x0, 0x0, [⟨60, 4⟩, ⟨45, 6⟩, ⟨39, 6⟩, ⟨33, 6⟩, ⟨23, 4⟩, ⟨17, 6⟩, ⟨13, 2⟩],
    fun vs _ => match vs with | [y, d, a, b, g, ty, rnd] => some (.xVfmul (BitVec.ofNat 4 y) (Fin.ofNat 64 d) (Fin.ofNat 64 a) (Fin.ofNat 64 b) (Fin.ofNat 16 g) (BitVec.ofNat 6 ty) (BitVec.ofNat 2 rnd)) | _ => none⟩,
  ⟨0x43, false, false, 0x0, 0x0, [⟨60, 4⟩, ⟨45, 6⟩, ⟨39, 6⟩, ⟨33, 6⟩, ⟨27, 6⟩, ⟨23, 4⟩, ⟨17, 6⟩, ⟨13, 2⟩],
    fun vs _ => match vs with | [y, d, a, b, vc, g, ty, rnd] => some (.xVfma (BitVec.ofNat 4 y) (Fin.ofNat 64 d) (Fin.ofNat 64 a) (Fin.ofNat 64 b) (Fin.ofNat 64 vc) (Fin.ofNat 16 g) (BitVec.ofNat 6 ty) (BitVec.ofNat 2 rnd)) | _ => none⟩,
  ⟨0x44, false, false, 0x0, 0x0, [⟨60, 4⟩, ⟨45, 6⟩, ⟨39, 6⟩, ⟨33, 6⟩, ⟨27, 6⟩, ⟨23, 4⟩, ⟨17, 6⟩, ⟨13, 2⟩],
    fun vs _ => match vs with | [y, d, a, b, vc, g, ty, rnd] => some (.xVfms (BitVec.ofNat 4 y) (Fin.ofNat 64 d) (Fin.ofNat 64 a) (Fin.ofNat 64 b) (Fin.ofNat 64 vc) (Fin.ofNat 16 g) (BitVec.ofNat 6 ty) (BitVec.ofNat 2 rnd)) | _ => none⟩,
  ⟨0x45, false, false, 0x0, 0x0, [⟨60, 4⟩, ⟨45, 6⟩, ⟨39, 6⟩, ⟨33, 6⟩, ⟨27, 6⟩, ⟨23, 4⟩, ⟨17, 6⟩, ⟨13, 2⟩],
    fun vs _ => match vs with | [y, d, a, b, vc, g, ty, rnd] => some (.xVfnma (BitVec.ofNat 4 y) (Fin.ofNat 64 d) (Fin.ofNat 64 a) (Fin.ofNat 64 b) (Fin.ofNat 64 vc) (Fin.ofNat 16 g) (BitVec.ofNat 6 ty) (BitVec.ofNat 2 rnd)) | _ => none⟩,
  ⟨0x46, false, false, 0x0, 0x0, [⟨60, 4⟩, ⟨45, 6⟩, ⟨39, 6⟩, ⟨33, 6⟩, ⟨27, 6⟩, ⟨23, 4⟩, ⟨17, 6⟩, ⟨13, 2⟩],
    fun vs _ => match vs with | [y, d, a, b, vc, g, ty, rnd] => some (.xVfnms (BitVec.ofNat 4 y) (Fin.ofNat 64 d) (Fin.ofNat 64 a) (Fin.ofNat 64 b) (Fin.ofNat 64 vc) (Fin.ofNat 16 g) (BitVec.ofNat 6 ty) (BitVec.ofNat 2 rnd)) | _ => none⟩,
  ⟨0x47, false, false, 0x0, 0x0, [⟨60, 4⟩, ⟨45, 6⟩, ⟨39, 6⟩, ⟨33, 6⟩, ⟨23, 4⟩, ⟨17, 6⟩, ⟨13, 2⟩],
    fun vs _ => match vs with | [y, d, a, b, g, ty, rnd] => some (.xVfmin (BitVec.ofNat 4 y) (Fin.ofNat 64 d) (Fin.ofNat 64 a) (Fin.ofNat 64 b) (Fin.ofNat 16 g) (BitVec.ofNat 6 ty) (BitVec.ofNat 2 rnd)) | _ => none⟩,
  ⟨0x48, false, false, 0x0, 0x0, [⟨60, 4⟩, ⟨45, 6⟩, ⟨39, 6⟩, ⟨33, 6⟩, ⟨23, 4⟩, ⟨17, 6⟩, ⟨13, 2⟩],
    fun vs _ => match vs with | [y, d, a, b, g, ty, rnd] => some (.xVfmax (BitVec.ofNat 4 y) (Fin.ofNat 64 d) (Fin.ofNat 64 a) (Fin.ofNat 64 b) (Fin.ofNat 16 g) (BitVec.ofNat 6 ty) (BitVec.ofNat 2 rnd)) | _ => none⟩,
  ⟨0x49, false, false, 0x0, 0x0, [⟨60, 4⟩, ⟨45, 6⟩, ⟨39, 6⟩, ⟨23, 4⟩, ⟨17, 6⟩, ⟨13, 2⟩],
    fun vs _ => match vs with | [y, d, a, g, ty, rnd] => some (.xVfabs (BitVec.ofNat 4 y) (Fin.ofNat 64 d) (Fin.ofNat 64 a) (Fin.ofNat 16 g) (BitVec.ofNat 6 ty) (BitVec.ofNat 2 rnd)) | _ => none⟩,
  ⟨0x4A, false, false, 0x0, 0x0, [⟨60, 4⟩, ⟨45, 6⟩, ⟨39, 6⟩, ⟨23, 4⟩, ⟨17, 6⟩, ⟨13, 2⟩],
    fun vs _ => match vs with | [y, d, a, g, ty, rnd] => some (.xVfneg (BitVec.ofNat 4 y) (Fin.ofNat 64 d) (Fin.ofNat 64 a) (Fin.ofNat 16 g) (BitVec.ofNat 6 ty) (BitVec.ofNat 2 rnd)) | _ => none⟩,
  ⟨0x4B, false, false, 0x0, 0x0, [⟨60, 4⟩, ⟨45, 6⟩, ⟨39, 6⟩, ⟨33, 6⟩, ⟨23, 4⟩, ⟨17, 6⟩, ⟨13, 2⟩],
    fun vs _ => match vs with | [y, d, a, b, g, ty, rnd] => some (.xVfdiv (BitVec.ofNat 4 y) (Fin.ofNat 64 d) (Fin.ofNat 64 a) (Fin.ofNat 64 b) (Fin.ofNat 16 g) (BitVec.ofNat 6 ty) (BitVec.ofNat 2 rnd)) | _ => none⟩,
  ⟨0x4C, false, false, 0x0, 0x0, [⟨60, 4⟩, ⟨45, 6⟩, ⟨39, 6⟩, ⟨23, 4⟩, ⟨17, 6⟩, ⟨13, 2⟩],
    fun vs _ => match vs with | [y, d, a, g, ty, rnd] => some (.xVfsqrt (BitVec.ofNat 4 y) (Fin.ofNat 64 d) (Fin.ofNat 64 a) (Fin.ofNat 16 g) (BitVec.ofNat 6 ty) (BitVec.ofNat 2 rnd)) | _ => none⟩,
  ⟨0x4D, false, false, 0x0, 0x0, [⟨60, 4⟩, ⟨45, 6⟩, ⟨39, 6⟩, ⟨23, 4⟩, ⟨17, 6⟩, ⟨13, 2⟩],
    fun vs _ => match vs with | [y, d, a, g, ty, rnd] => some (.xVfrcp (BitVec.ofNat 4 y) (Fin.ofNat 64 d) (Fin.ofNat 64 a) (Fin.ofNat 16 g) (BitVec.ofNat 6 ty) (BitVec.ofNat 2 rnd)) | _ => none⟩,
  ⟨0x4E, false, false, 0x0, 0x0, [⟨60, 4⟩, ⟨45, 6⟩, ⟨39, 6⟩, ⟨23, 4⟩, ⟨17, 6⟩, ⟨13, 2⟩],
    fun vs _ => match vs with | [y, d, a, g, ty, rnd] => some (.xVfexp2 (BitVec.ofNat 4 y) (Fin.ofNat 64 d) (Fin.ofNat 64 a) (Fin.ofNat 16 g) (BitVec.ofNat 6 ty) (BitVec.ofNat 2 rnd)) | _ => none⟩,
  ⟨0x4F, false, false, 0x0, 0x0, [⟨60, 4⟩, ⟨45, 6⟩, ⟨39, 6⟩, ⟨23, 4⟩, ⟨17, 6⟩, ⟨13, 2⟩],
    fun vs _ => match vs with | [y, d, a, g, ty, rnd] => some (.xVflog2 (BitVec.ofNat 4 y) (Fin.ofNat 64 d) (Fin.ofNat 64 a) (Fin.ofNat 16 g) (BitVec.ofNat 6 ty) (BitVec.ofNat 2 rnd)) | _ => none⟩,
  ⟨0x50, false, false, 0x0, 0x0, [⟨60, 4⟩, ⟨45, 6⟩, ⟨39, 6⟩, ⟨23, 4⟩, ⟨17, 6⟩, ⟨13, 2⟩],
    fun vs _ => match vs with | [y, d, a, g, ty, rnd] => some (.xVftanh (BitVec.ofNat 4 y) (Fin.ofNat 64 d) (Fin.ofNat 64 a) (Fin.ofNat 16 g) (BitVec.ofNat 6 ty) (BitVec.ofNat 2 rnd)) | _ => none⟩,
  ⟨0x51, false, false, 0x0, 0x0, [⟨60, 4⟩, ⟨45, 6⟩, ⟨39, 6⟩, ⟨23, 4⟩, ⟨17, 6⟩, ⟨13, 2⟩],
    fun vs _ => match vs with | [y, d, a, g, ty, rnd] => some (.xVfsigm (BitVec.ofNat 4 y) (Fin.ofNat 64 d) (Fin.ofNat 64 a) (Fin.ofNat 16 g) (BitVec.ofNat 6 ty) (BitVec.ofNat 2 rnd)) | _ => none⟩,
  ⟨0x52, false, false, 0x0, 0x0, [⟨60, 4⟩, ⟨9, 4⟩, ⟨45, 4⟩, ⟨39, 6⟩, ⟨33, 6⟩, ⟨23, 4⟩, ⟨17, 6⟩],
    fun vs _ => match vs with | [y, qual, d, a, b, g, ty] => some (.xVcmp (BitVec.ofNat 4 y) (BitVec.ofNat 4 qual) (Fin.ofNat 16 d) (Fin.ofNat 64 a) (Fin.ofNat 64 b) (Fin.ofNat 16 g) (BitVec.ofNat 6 ty)) | _ => none⟩,
  ⟨0x53, false, false, 0x0, 0x0, [⟨60, 4⟩, ⟨9, 4⟩, ⟨45, 4⟩, ⟨39, 6⟩, ⟨33, 6⟩, ⟨23, 4⟩, ⟨17, 6⟩],
    fun vs _ => match vs with | [y, qual, d, a, b, g, ty] => some (.xVfcmp (BitVec.ofNat 4 y) (BitVec.ofNat 4 qual) (Fin.ofNat 16 d) (Fin.ofNat 64 a) (Fin.ofNat 64 b) (Fin.ofNat 16 g) (BitVec.ofNat 6 ty)) | _ => none⟩,
  ⟨0x54, false, false, 0x0, 0x0, [⟨60, 4⟩, ⟨45, 4⟩, ⟨39, 4⟩, ⟨33, 4⟩],
    fun vs _ => match vs with | [y, d, a, b] => some (.xPand (BitVec.ofNat 4 y) (Fin.ofNat 16 d) (Fin.ofNat 16 a) (Fin.ofNat 16 b)) | _ => none⟩,
  ⟨0x55, false, false, 0x0, 0x0, [⟨60, 4⟩, ⟨45, 4⟩, ⟨39, 4⟩, ⟨33, 4⟩],
    fun vs _ => match vs with | [y, d, a, b] => some (.xPor (BitVec.ofNat 4 y) (Fin.ofNat 16 d) (Fin.ofNat 16 a) (Fin.ofNat 16 b)) | _ => none⟩,
  ⟨0x56, false, false, 0x0, 0x0, [⟨60, 4⟩, ⟨45, 4⟩, ⟨39, 4⟩, ⟨33, 4⟩],
    fun vs _ => match vs with | [y, d, a, b] => some (.xPxor (BitVec.ofNat 4 y) (Fin.ofNat 16 d) (Fin.ofNat 16 a) (Fin.ofNat 16 b)) | _ => none⟩,
  ⟨0x57, false, false, 0x0, 0x0, [⟨60, 4⟩, ⟨45, 4⟩, ⟨39, 4⟩],
    fun vs _ => match vs with | [y, d, a] => some (.xPnot (BitVec.ofNat 4 y) (Fin.ofNat 16 d) (Fin.ofNat 16 a)) | _ => none⟩]

/-- The X-stream rows 0x58–0x72; VRFSUM's RND bits are read so that `wellFormed` can ask for 0 (R82). -/
noncomputable def rowsX3 : List Row := [
  ⟨0x58, false, false, 0x0, 0x0, [⟨60, 4⟩, ⟨45, 6⟩, ⟨39, 6⟩, ⟨33, 6⟩, ⟨23, 4⟩],
    fun vs _ => match vs with | [y, d, a, b, g] => some (.xVsel (BitVec.ofNat 4 y) (Fin.ofNat 64 d) (Fin.ofNat 64 a) (Fin.ofNat 64 b) (Fin.ofNat 16 g)) | _ => none⟩,
  ⟨0x59, false, false, 0x0, 0x0, [⟨60, 4⟩, ⟨45, 6⟩, ⟨39, 6⟩, ⟨27, 6⟩, ⟨23, 4⟩, ⟨17, 6⟩, ⟨15, 2⟩, ⟨13, 2⟩],
    fun vs _ => match vs with | [y, d, a, src, g, ty, pol, rnd] => some (.xVcvtf (BitVec.ofNat 4 y) (Fin.ofNat 64 d) (Fin.ofNat 64 a) (BitVec.ofNat 6 src) (Fin.ofNat 16 g) (BitVec.ofNat 6 ty) (BitVec.ofNat 2 pol) (BitVec.ofNat 2 rnd)) | _ => none⟩,
  ⟨0x5A, false, false, 0x0, 0x0, [⟨60, 4⟩, ⟨45, 6⟩, ⟨39, 6⟩, ⟨27, 6⟩, ⟨23, 4⟩, ⟨17, 6⟩, ⟨15, 2⟩, ⟨13, 2⟩],
    fun vs _ => match vs with | [y, d, a, src, g, ty, pol, rnd] => some (.xVcvti (BitVec.ofNat 4 y) (Fin.ofNat 64 d) (Fin.ofNat 64 a) (BitVec.ofNat 6 src) (Fin.ofNat 16 g) (BitVec.ofNat 6 ty) (BitVec.ofNat 2 pol) (BitVec.ofNat 2 rnd)) | _ => none⟩,
  ⟨0x5B, false, false, 0x0, 0x0, [⟨60, 4⟩, ⟨45, 6⟩, ⟨39, 6⟩, ⟨33, 6⟩, ⟨23, 4⟩, ⟨17, 6⟩, ⟨15, 2⟩, ⟨13, 2⟩],
    fun vs _ => match vs with | [y, d, a, b, g, ty, pol, rnd] => some (.xVqnt (BitVec.ofNat 4 y) (Fin.ofNat 64 d) (Fin.ofNat 64 a) (Fin.ofNat 64 b) (Fin.ofNat 16 g) (BitVec.ofNat 6 ty) (BitVec.ofNat 2 pol) (BitVec.ofNat 2 rnd)) | _ => none⟩,
  ⟨0x5C, false, false, 0x0, 0x0, [⟨60, 4⟩, ⟨45, 6⟩, ⟨39, 6⟩, ⟨33, 6⟩, ⟨23, 4⟩, ⟨17, 6⟩],
    fun vs _ => match vs with | [y, d, a, b, g, ty] => some (.xVdqnt (BitVec.ofNat 4 y) (Fin.ofNat 64 d) (Fin.ofNat 64 a) (Fin.ofNat 64 b) (Fin.ofNat 16 g) (BitVec.ofNat 6 ty)) | _ => none⟩,
  ⟨0x60, false, false, 0x0, 0x0, [⟨60, 4⟩, ⟨45, 6⟩, ⟨39, 5⟩, ⟨23, 4⟩, ⟨17, 6⟩],
    fun vs _ => match vs with | [y, d, a, g, ty] => some (.xVbcast (BitVec.ofNat 4 y) (Fin.ofNat 64 d) (Fin.ofNat 32 a) (Fin.ofNat 16 g) (BitVec.ofNat 6 ty)) | _ => none⟩,
  ⟨0x61, false, false, 0x0, 0x0, [⟨60, 4⟩, ⟨45, 6⟩, ⟨39, 6⟩, ⟨33, 6⟩, ⟨23, 4⟩],
    fun vs _ => match vs with | [y, d, a, b, g] => some (.xVshuf (BitVec.ofNat 4 y) (Fin.ofNat 64 d) (Fin.ofNat 64 a) (Fin.ofNat 64 b) (Fin.ofNat 16 g)) | _ => none⟩,
  ⟨0x62, false, false, 0x0, 0x0, [⟨60, 4⟩, ⟨45, 6⟩, ⟨39, 6⟩, ⟨23, 4⟩, ⟨0, 6⟩],
    fun vs _ => match vs with | [y, d, a, g, n] => some (.xVrot (BitVec.ofNat 4 y) (Fin.ofNat 64 d) (Fin.ofNat 64 a) (Fin.ofNat 16 g) (BitVec.ofNat 6 n)) | _ => none⟩,
  ⟨0x63, false, false, 0x0, 0x0, [⟨60, 4⟩, ⟨45, 5⟩, ⟨39, 6⟩, ⟨17, 6⟩, ⟨0, 6⟩],
    fun vs _ => match vs with | [y, d, a, ty, n] => some (.xVextr (BitVec.ofNat 4 y) (Fin.ofNat 32 d) (Fin.ofNat 64 a) (BitVec.ofNat 6 ty) (BitVec.ofNat 6 n)) | _ => none⟩,
  ⟨0x64, false, false, 0x0, 0x0, [⟨60, 4⟩, ⟨45, 6⟩, ⟨39, 5⟩, ⟨17, 6⟩, ⟨0, 6⟩],
    fun vs _ => match vs with | [y, d, a, ty, n] => some (.xVins (BitVec.ofNat 4 y) (Fin.ofNat 64 d) (Fin.ofNat 32 a) (BitVec.ofNat 6 ty) (BitVec.ofNat 6 n)) | _ => none⟩,
  ⟨0x65, false, false, 0x0, 0x0, [⟨60, 4⟩, ⟨45, 6⟩, ⟨39, 6⟩, ⟨23, 4⟩],
    fun vs _ => match vs with | [y, d, a, g] => some (.xVcomp (BitVec.ofNat 4 y) (Fin.ofNat 64 d) (Fin.ofNat 64 a) (Fin.ofNat 16 g)) | _ => none⟩,
  ⟨0x66, false, false, 0x0, 0x0, [⟨60, 4⟩, ⟨45, 6⟩, ⟨39, 6⟩, ⟨23, 4⟩],
    fun vs _ => match vs with | [y, d, a, g] => some (.xVexp (BitVec.ofNat 4 y) (Fin.ofNat 64 d) (Fin.ofNat 64 a) (Fin.ofNat 16 g)) | _ => none⟩,
  ⟨0x67, false, false, 0x0, 0x0, [⟨60, 4⟩, ⟨45, 5⟩, ⟨39, 6⟩, ⟨23, 4⟩, ⟨17, 6⟩],
    fun vs _ => match vs with | [y, d, a, g, ty] => some (.xVrsum (BitVec.ofNat 4 y) (Fin.ofNat 32 d) (Fin.ofNat 64 a) (Fin.ofNat 16 g) (BitVec.ofNat 6 ty)) | _ => none⟩,
  ⟨0x68, false, false, 0x0, 0x0, [⟨60, 4⟩, ⟨45, 5⟩, ⟨39, 6⟩, ⟨23, 4⟩, ⟨17, 6⟩, ⟨13, 2⟩],
    fun vs _ => match vs with | [y, d, a, g, ty, rnd] => some (.xVrfsum (BitVec.ofNat 4 y) (Fin.ofNat 32 d) (Fin.ofNat 64 a) (Fin.ofNat 16 g) (BitVec.ofNat 6 ty) (BitVec.ofNat 2 rnd)) | _ => none⟩,
  ⟨0x69, false, false, 0x0, 0x0, [⟨60, 4⟩, ⟨45, 5⟩, ⟨39, 6⟩, ⟨23, 4⟩, ⟨17, 6⟩],
    fun vs _ => match vs with | [y, d, a, g, ty] => some (.xVrmax (BitVec.ofNat 4 y) (Fin.ofNat 32 d) (Fin.ofNat 64 a) (Fin.ofNat 16 g) (BitVec.ofNat 6 ty)) | _ => none⟩,
  ⟨0x6A, false, false, 0x0, 0x0, [⟨60, 4⟩, ⟨45, 5⟩, ⟨39, 6⟩, ⟨23, 4⟩, ⟨17, 6⟩],
    fun vs _ => match vs with | [y, d, a, g, ty] => some (.xVrmin (BitVec.ofNat 4 y) (Fin.ofNat 32 d) (Fin.ofNat 64 a) (Fin.ofNat 16 g) (BitVec.ofNat 6 ty)) | _ => none⟩,
  ⟨0x6B, false, false, 0x0, 0x0, [⟨60, 4⟩, ⟨45, 6⟩, ⟨39, 6⟩, ⟨33, 6⟩, ⟨23, 4⟩, ⟨17, 6⟩],
    fun vs _ => match vs with | [y, d, a, b, g, ty] => some (.xVsortk (BitVec.ofNat 4 y) (Fin.ofNat 64 d) (Fin.ofNat 64 a) (Fin.ofNat 64 b) (Fin.ofNat 16 g) (BitVec.ofNat 6 ty)) | _ => none⟩,
  ⟨0x6C, false, false, 0x0, 0x0, [⟨60, 4⟩, ⟨45, 6⟩, ⟨39, 6⟩, ⟨33, 6⟩, ⟨23, 4⟩, ⟨17, 6⟩],
    fun vs _ => match vs with | [y, d, a, b, g, ty] => some (.xVsegsum (BitVec.ofNat 4 y) (Fin.ofNat 64 d) (Fin.ofNat 64 a) (Fin.ofNat 64 b) (Fin.ofNat 16 g) (BitVec.ofNat 6 ty)) | _ => none⟩,
  ⟨0x6D, false, false, 0x0, 0x0, [⟨60, 4⟩, ⟨45, 6⟩, ⟨39, 6⟩, ⟨23, 4⟩, ⟨17, 6⟩, ⟨0, 6⟩],
    fun vs _ => match vs with | [y, d, a, g, ty, k] => some (.xVtopk (BitVec.ofNat 4 y) (Fin.ofNat 64 d) (Fin.ofNat 64 a) (Fin.ofNat 16 g) (BitVec.ofNat 6 ty) (BitVec.ofNat 6 k)) | _ => none⟩,
  ⟨0x70, false, false, 0x0, 0x0, [⟨60, 4⟩],
    fun vs _ => match vs with | [y] => some (.xTapeon (BitVec.ofNat 4 y)) | _ => none⟩,
  ⟨0x71, false, false, 0x0, 0x0, [⟨60, 4⟩],
    fun vs _ => match vs with | [y] => some (.xTapeoff (BitVec.ofNat 4 y)) | _ => none⟩,
  ⟨0x72, false, false, 0x0, 0x0, [⟨60, 4⟩, ⟨39, 6⟩, ⟨23, 4⟩],
    fun vs _ => match vs with | [y, a, g] => some (.xVtape (BitVec.ofNat 4 y) (Fin.ofNat 64 a) (Fin.ofNat 16 g)) | _ => none⟩,
  ⟨0x73, false, false, 0x0, 0x0, [⟨60, 4⟩, ⟨39, 5⟩],
    fun vs _ => match vs with | [y, a] => some (.xXtape (BitVec.ofNat 4 y) (Fin.ofNat 32 a)) | _ => none⟩,
  ⟨0x74, false, false, 0x0, 0x0, [⟨60, 4⟩, ⟨39, 4⟩],
    fun vs _ => match vs with | [y, a] => some (.xPtape (BitVec.ofNat 4 y) (Fin.ofNat 16 a)) | _ => none⟩]

noncomputable def rowsX4 : List Row := [
  ⟨0x75, false, false, 0x0, 0x0, [⟨60, 4⟩, ⟨45, 6⟩],
    fun vs _ => match vs with | [y, d] => some (.xVuntape (BitVec.ofNat 4 y) (Fin.ofNat 64 d)) | _ => none⟩,
  ⟨0x76, false, false, 0x0, 0x0, [⟨60, 4⟩, ⟨45, 5⟩],
    fun vs _ => match vs with | [y, d] => some (.xXuntape (BitVec.ofNat 4 y) (Fin.ofNat 32 d)) | _ => none⟩,
  ⟨0x77, false, false, 0x0, 0x0, [⟨60, 4⟩, ⟨45, 4⟩],
    fun vs _ => match vs with | [y, d] => some (.xPuntape (BitVec.ofNat 4 y) (Fin.ofNat 16 d)) | _ => none⟩,
  ⟨0x78, false, false, 0x0, 0x0, [⟨60, 4⟩],
    fun vs _ => match vs with | [y] => some (.xTrev (BitVec.ofNat 4 y)) | _ => none⟩,
  ⟨0x79, false, false, 0x0, 0x0, [⟨60, 4⟩, ⟨39, 5⟩],
    fun vs _ => match vs with | [y, a] => some (.xTmark (BitVec.ofNat 4 y) (Fin.ofNat 32 a)) | _ => none⟩,
  ⟨0x80, false, false, 0x0, 0x0, [⟨60, 4⟩, ⟨45, 3⟩, ⟨6, 2⟩, ⟨39, 5⟩],
    fun vs _ => match vs with | [y, d, q, a] => some (.xTld (BitVec.ofNat 4 y) (Fin.ofNat 8 d) (Fin.ofNat 4 q) (Fin.ofNat 32 a)) | _ => none⟩,
  ⟨0x81, false, false, 0x100, 0x0, [⟨60, 4⟩, ⟨39, 3⟩, ⟨33, 5⟩],
    fun vs _ => match vs with | [y, ta, b] => some (.xTst (BitVec.ofNat 4 y) (Fin.ofNat 8 ta) (Fin.ofNat 32 b)) | _ => none⟩,
  ⟨0x82, false, false, 0x0, 0x0, [⟨60, 4⟩, ⟨45, 3⟩],
    fun vs _ => match vs with | [y, d] => some (.xTzero (BitVec.ofNat 4 y) (Fin.ofNat 8 d)) | _ => none⟩,
  ⟨0x83, false, false, 0x0, 0x0, [⟨60, 4⟩, ⟨45, 6⟩, ⟨39, 3⟩, ⟨33, 5⟩],
    fun vs _ => match vs with | [y, d, ta, b] => some (.xTmovv (BitVec.ofNat 4 y) (Fin.ofNat 64 d) (Fin.ofNat 8 ta) (Fin.ofNat 32 b)) | _ => none⟩,
  ⟨0x84, false, false, 0x0, 0x0, [⟨60, 4⟩, ⟨45, 2⟩, ⟨6, 2⟩, ⟨39, 5⟩],
    fun vs _ => match vs with | [y, d, q, a] => some (.xZld (BitVec.ofNat 4 y) (Fin.ofNat 4 d) (Fin.ofNat 4 q) (Fin.ofNat 32 a)) | _ => none⟩,
  ⟨0x85, false, false, 0x100, 0x0, [⟨60, 4⟩, ⟨39, 2⟩, ⟨33, 5⟩],
    fun vs _ => match vs with | [y, za, b] => some (.xZst (BitVec.ofNat 4 y) (Fin.ofNat 4 za) (Fin.ofNat 32 b)) | _ => none⟩,
  ⟨0x86, false, false, 0x0, 0x0, [⟨60, 4⟩, ⟨45, 2⟩],
    fun vs _ => match vs with | [y, d] => some (.xZzero (BitVec.ofNat 4 y) (Fin.ofNat 4 d)) | _ => none⟩,
  ⟨0x87, false, false, 0x0, 0x0, [⟨60, 4⟩, ⟨45, 6⟩, ⟨39, 2⟩, ⟨33, 5⟩],
    fun vs _ => match vs with | [y, d, za, b] => some (.xZmovv (BitVec.ofNat 4 y) (Fin.ofNat 64 d) (Fin.ofNat 4 za) (Fin.ofNat 32 b)) | _ => none⟩,
  ⟨0x90, false, true, 0x0, 0x0, [⟨60, 4⟩, ⟨45, 2⟩, ⟨39, 3⟩, ⟨33, 3⟩],
    fun vs wd => match vs with | [y, d, ta, tb] => some (.xMma (BitVec.ofNat 4 y) (Fin.ofNat 4 d) (Fin.ofNat 8 ta) (Fin.ofNat 8 tb) wd) | _ => none⟩,
  ⟨0x91, false, true, 0x0, 0x0, [⟨60, 4⟩, ⟨45, 2⟩, ⟨39, 3⟩, ⟨33, 3⟩],
    fun vs wd => match vs with | [y, d, ta, tb] => some (.xMmai (BitVec.ofNat 4 y) (Fin.ofNat 4 d) (Fin.ofNat 8 ta) (Fin.ofNat 8 tb) wd) | _ => none⟩,
  ⟨0x92, false, true, 0x0, 0x0, [⟨60, 4⟩, ⟨45, 2⟩, ⟨39, 3⟩, ⟨33, 3⟩],
    fun vs wd => match vs with | [y, d, ta, tb] => some (.xMmah (BitVec.ofNat 4 y) (Fin.ofNat 4 d) (Fin.ofNat 8 ta) (Fin.ofNat 8 tb) wd) | _ => none⟩,
  ⟨0x93, false, true, 0x0, 0x0, [⟨60, 4⟩, ⟨45, 2⟩, ⟨39, 3⟩, ⟨33, 3⟩],
    fun vs wd => match vs with | [y, d, ta, tb] => some (.xMmab1 (BitVec.ofNat 4 y) (Fin.ofNat 4 d) (Fin.ofNat 8 ta) (Fin.ofNat 8 tb) wd) | _ => none⟩,
  ⟨0x94, false, true, 0x0, 0x0, [⟨60, 4⟩, ⟨45, 2⟩, ⟨39, 3⟩, ⟨33, 3⟩, ⟨27, 6⟩],
    fun vs wd => match vs with | [y, d, ta, tb, vc] => some (.xMmab2 (BitVec.ofNat 4 y) (Fin.ofNat 4 d) (Fin.ofNat 8 ta) (Fin.ofNat 8 tb) (Fin.ofNat 64 vc) wd) | _ => none⟩,
  ⟨0x95, false, true, 0x0, 0x0, [⟨60, 4⟩, ⟨45, 2⟩, ⟨39, 3⟩, ⟨33, 3⟩],
    fun vs wd => match vs with | [y, d, ta, tb] => some (.xMmas (BitVec.ofNat 4 y) (Fin.ofNat 4 d) (Fin.ofNat 8 ta) (Fin.ofNat 8 tb) wd) | _ => none⟩,
  ⟨0x96, false, true, 0x0, 0x0, [⟨60, 4⟩, ⟨45, 2⟩, ⟨39, 3⟩, ⟨33, 3⟩],
    fun vs wd => match vs with | [y, d, ta, tb] => some (.xMmax (BitVec.ofNat 4 y) (Fin.ofNat 4 d) (Fin.ofNat 8 ta) (Fin.ofNat 8 tb) wd) | _ => none⟩,
  ⟨0x97, false, true, 0x0, 0x0, [⟨60, 4⟩, ⟨45, 2⟩, ⟨39, 3⟩, ⟨33, 3⟩],
    fun vs wd => match vs with | [y, d, ta, tb] => some (.xMman (BitVec.ofNat 4 y) (Fin.ofNat 4 d) (Fin.ofNat 8 ta) (Fin.ofNat 8 tb) wd) | _ => none⟩,
  ⟨0x98, false, true, 0x0, 0x0, [⟨60, 4⟩, ⟨45, 2⟩, ⟨39, 3⟩, ⟨33, 6⟩],
    fun vs wd => match vs with | [y, d, ta, b] => some (.xMmv (BitVec.ofNat 4 y) (Fin.ofNat 4 d) (Fin.ofNat 8 ta) (Fin.ofNat 64 b) wd) | _ => none⟩]

/-- The X-stream opcode map (R83). -/
noncomputable def rowsX : List Row := rowsX0 ++ rowsX1 ++ rowsX2 ++ rowsX3 ++ rowsX4

/-- The stream, opcode, field values and command bound of an instruction; an event has none. -/
def operandsOf : Instr → Option (StreamId × Nat × List Nat × Option (BitVec 16))
  | .cAdd y d a b => some (.C, 0x01, [y.toNat, d.val, a.val, b.val], none)
  | .cSub y d a b => some (.C, 0x02, [y.toNat, d.val, a.val, b.val], none)
  | .cAnd y d a b => some (.C, 0x03, [y.toNat, d.val, a.val, b.val], none)
  | .cOr y d a b => some (.C, 0x04, [y.toNat, d.val, a.val, b.val], none)
  | .cXor y d a b => some (.C, 0x05, [y.toNat, d.val, a.val, b.val], none)
  | .cShl y d a b => some (.C, 0x06, [y.toNat, d.val, a.val, b.val], none)
  | .cShr y d a b => some (.C, 0x07, [y.toNat, d.val, a.val, b.val], none)
  | .cSra y d a b => some (.C, 0x08, [y.toNat, d.val, a.val, b.val], none)
  | .cMul y d a b => some (.C, 0x09, [y.toNat, d.val, a.val, b.val], none)
  | .cMulh y d a b => some (.C, 0x0A, [y.toNat, d.val, a.val, b.val], none)
  | .cMulhu y d a b => some (.C, 0x0B, [y.toNat, d.val, a.val, b.val], none)
  | .cDiv y d a b => some (.C, 0x0C, [y.toNat, d.val, a.val, b.val], none)
  | .cRem y d a b => some (.C, 0x0D, [y.toNat, d.val, a.val, b.val], none)
  | .cMin y d a b => some (.C, 0x0E, [y.toNat, d.val, a.val, b.val], none)
  | .cMax y d a b => some (.C, 0x0F, [y.toNat, d.val, a.val, b.val], none)
  | .cAddi y d a imm => some (.C, 0x10, [y.toNat, d.val, a.val, imm.toNat], none)
  | .cAndi y d a imm => some (.C, 0x11, [y.toNat, d.val, a.val, imm.toNat], none)
  | .cOri y d a imm => some (.C, 0x12, [y.toNat, d.val, a.val, imm.toNat], none)
  | .cXori y d a imm => some (.C, 0x13, [y.toNat, d.val, a.val, imm.toNat], none)
  | .cShli y d a n => some (.C, 0x14, [y.toNat, d.val, a.val, n.toNat], none)
  | .cShri y d a n => some (.C, 0x15, [y.toNat, d.val, a.val, n.toNat], none)
  | .cSrai y d a n => some (.C, 0x16, [y.toNat, d.val, a.val, n.toNat], none)
  | .cLi y d imm => some (.C, 0x17, [y.toNat, d.val, imm.toNat], none)
  | .cLui y d imm => some (.C, 0x18, [y.toNat, d.val, imm.toNat], none)
  | .cSeq y d a b => some (.C, 0x20, [y.toNat, d.val, a.val, b.val], none)
  | .cSne y d a b => some (.C, 0x21, [y.toNat, d.val, a.val, b.val], none)
  | .cSlt y d a b => some (.C, 0x22, [y.toNat, d.val, a.val, b.val], none)
  | .cSltu y d a b => some (.C, 0x23, [y.toNat, d.val, a.val, b.val], none)
  | .cSle y d a b => some (.C, 0x24, [y.toNat, d.val, a.val, b.val], none)
  | .cSleu y d a b => some (.C, 0x25, [y.toNat, d.val, a.val, b.val], none)
  | .cClz y d a => some (.C, 0x26, [y.toNat, d.val, a.val], none)
  | .cPopc y d a => some (.C, 0x27, [y.toNat, d.val, a.val], none)
  | .cB y o => some (.C, 0x30, [y.toNat, o.toNat], none)
  | .cBeq y a b o => some (.C, 0x31, [y.toNat, a.val, b.val, o.toNat], none)
  | .cBne y a b o => some (.C, 0x32, [y.toNat, a.val, b.val, o.toNat], none)
  | .cBlt y a b o => some (.C, 0x33, [y.toNat, a.val, b.val, o.toNat], none)
  | .cBge y a b o => some (.C, 0x34, [y.toNat, a.val, b.val, o.toNat], none)
  | .cBltu y a b o => some (.C, 0x35, [y.toNat, a.val, b.val, o.toNat], none)
  | .cBgeu y a b o => some (.C, 0x36, [y.toNat, a.val, b.val, o.toNat], none)
  | .cCall y d o => some (.C, 0x37, [y.toNat, d.val, o.toNat], none)
  | .cRet y a => some (.C, 0x38, [y.toNat, a.val], none)
  | .cLoop y a e => some (.C, 0x39, [y.toNat, a.val, e.toNat], none)
  | .cCsrr y d csr => some (.C, 0x40, [y.toNat, d.val, csr.toNat], none)
  | .cCsrw y a csr => some (.C, 0x41, [y.toNat, a.val, csr.toNat], none)
  | .cCsrs y a csr => some (.C, 0x42, [y.toNat, a.val, csr.toNat], none)
  | .cCsrc y a csr => some (.C, 0x43, [y.toNat, a.val, csr.toNat], none)
  | .cLdw y d a o => some (.C, 0x44, [y.toNat, d.val, a.val, o.toNat], none)
  | .cStw y d a o => some (.C, 0x45, [y.toNat, d.val, a.val, o.toNat], none)
  | .cFpush y a => some (.C, 0x46, [y.toNat, a.val], none)
  | .cFpushi y imm => some (.C, 0x47, [y.toNat, imm.toNat], none)
  | .cTshape y t a => some (.C, 0x48, [y.toNat, t.toNat, a.val], none)
  | .cSeal y h a => some (.C, 0x49, [y.toNat, h.val, a.val], none)
  | .cUnseal y h => some (.C, 0x4A, [y.toNat, h.val], none)
  | .cDbar y l => some (.C, 0x50, [y.toNat, l.toNat], none)
  | .cGenf y => some (.C, 0x51, [y.toNat], none)
  | .cBound y a => some (.C, 0x52, [y.toNat, a.val], none)
  | .cMigrate y h a b t => some (.C, 0x53, [y.toNat, h.val, a.val, b.val, t.toNat], none)
  | .cFence y o sc => some (.C, 0x54, [y.toNat, o.toNat, sc.toNat], none)
  | .cFlush y h a b => some (.C, 0x55, [y.toNat, h.val, a.val, b.val], none)
  | .cTsig y side n => some (.C, 0x56, [y.toNat, side.toNat, n.toNat], none)
  | .cTwait y side n => some (.C, 0x57, [y.toNat, side.toNat, n.toNat], none)
  | .cTapec y h a => some (.C, 0x58, [y.toNat, h.val, a.val], none)
  | .cTrap y code => some (.C, 0x59, [y.toNat, code.toNat], none)
  | .cRtt y => some (.C, 0x5A, [y.toNat], none)
  | .cHalt y => some (.C, 0x5B, [y.toNat], none)
  | .cWfe y => some (.C, 0x5C, [y.toNat], none)
  | .cLttw y a b => some (.C, 0x70, [y.toNat, a.val, b.val], none)
  | .cLttinv y a => some (.C, 0x71, [y.toNat, a.val], none)
  | .cDreg y a b => some (.C, 0x72, [y.toNat, a.val, b.val], none)
  | .cDfree y a => some (.C, 0x73, [y.toNat, a.val], none)
  | .cSavec y a b => some (.C, 0x74, [y.toNat, a.val, b.val], none)
  | .cRestc y a b => some (.C, 0x75, [y.toNat, a.val, b.val], none)
  | .aAdd y d a b => some (.A, 0x01, [y.toNat, d.val, a.val, b.val], none)
  | .aSub y d a b => some (.A, 0x02, [y.toNat, d.val, a.val, b.val], none)
  | .aAnd y d a b => some (.A, 0x03, [y.toNat, d.val, a.val, b.val], none)
  | .aOr y d a b => some (.A, 0x04, [y.toNat, d.val, a.val, b.val], none)
  | .aXor y d a b => some (.A, 0x05, [y.toNat, d.val, a.val, b.val], none)
  | .aShl y d a b => some (.A, 0x06, [y.toNat, d.val, a.val, b.val], none)
  | .aShr y d a b => some (.A, 0x07, [y.toNat, d.val, a.val, b.val], none)
  | .aSra y d a b => some (.A, 0x08, [y.toNat, d.val, a.val, b.val], none)
  | .aMul y d a b => some (.A, 0x09, [y.toNat, d.val, a.val, b.val], none)
  | .aMin y d a b => some (.A, 0x0A, [y.toNat, d.val, a.val, b.val], none)
  | .aMax y d a b => some (.A, 0x0B, [y.toNat, d.val, a.val, b.val], none)
  | .aSeq y d a b => some (.A, 0x0C, [y.toNat, d.val, a.val, b.val], none)
  | .aSne y d a b => some (.A, 0x0D, [y.toNat, d.val, a.val, b.val], none)
  | .aSlt y d a b => some (.A, 0x0E, [y.toNat, d.val, a.val, b.val], none)
  | .aSltu y d a b => some (.A, 0x0F, [y.toNat, d.val, a.val, b.val], none)
  | .aAddi y d a imm => some (.A, 0x10, [y.toNat, d.val, a.val, imm.toNat], none)
  | .aAndi y d a imm => some (.A, 0x11, [y.toNat, d.val, a.val, imm.toNat], none)
  | .aShli y d a n => some (.A, 0x12, [y.toNat, d.val, a.val, n.toNat], none)
  | .aShri y d a n => some (.A, 0x13, [y.toNat, d.val, a.val, n.toNat], none)
  | .aLi y d imm => some (.A, 0x14, [y.toNat, d.val, imm.toNat], none)
  | .aLui y d imm => some (.A, 0x15, [y.toNat, d.val, imm.toNat], none)
  | .aB y o => some (.A, 0x20, [y.toNat, o.toNat], none)
  | .aBeq y a b o => some (.A, 0x21, [y.toNat, a.val, b.val, o.toNat], none)
  | .aBne y a b o => some (.A, 0x22, [y.toNat, a.val, b.val, o.toNat], none)
  | .aBlt y a b o => some (.A, 0x23, [y.toNat, a.val, b.val, o.toNat], none)
  | .aBge y a b o => some (.A, 0x24, [y.toNat, a.val, b.val, o.toNat], none)
  | .aBltu y a b o => some (.A, 0x25, [y.toNat, a.val, b.val, o.toNat], none)
  | .aBgeu y a b o => some (.A, 0x26, [y.toNat, a.val, b.val, o.toNat], none)
  | .aLoop y a e => some (.A, 0x27, [y.toNat, a.val, e.toNat], none)
  | .aBrq y qual o => some (.A, 0x28, [y.toNat, qual.toNat, o.toNat], none)
  | .aOpush y a => some (.A, 0x29, [y.toNat, a.val], none)
  | .aVqpop y d => some (.A, 0x2A, [y.toNat, d.val], none)
  | .aBound y a => some (.A, 0x2B, [y.toNat, a.val], none)
  | .aEnd y => some (.A, 0x2C, [y.toNat], none)
  | .aNop y => some (.A, 0x2D, [y.toNat], none)
  | .aLd8 y q h cf b ty o sc => some (.A, 0x30, [y.toNat, q.val, h.val, cf.val, b.val, ty.toNat, o.toNat, sc.toNat], none)
  | .aLd16 y q h cf b ty o sc => some (.A, 0x31, [y.toNat, q.val, h.val, cf.val, b.val, ty.toNat, o.toNat, sc.toNat], none)
  | .aLd32 y q h cf b ty o sc => some (.A, 0x32, [y.toNat, q.val, h.val, cf.val, b.val, ty.toNat, o.toNat, sc.toNat], none)
  | .aLd64 y q h cf b ty o sc => some (.A, 0x33, [y.toNat, q.val, h.val, cf.val, b.val, ty.toNat, o.toNat, sc.toNat], none)
  | .aSt8 y h cf b ty o sc => some (.A, 0x34, [y.toNat, h.val, cf.val, b.val, ty.toNat, o.toNat, sc.toNat], none)
  | .aSt16 y h cf b ty o sc => some (.A, 0x35, [y.toNat, h.val, cf.val, b.val, ty.toNat, o.toNat, sc.toNat], none)
  | .aSt32 y h cf b ty o sc => some (.A, 0x36, [y.toNat, h.val, cf.val, b.val, ty.toNat, o.toNat, sc.toNat], none)
  | .aSt64 y h cf b ty o sc => some (.A, 0x37, [y.toNat, h.val, cf.val, b.val, ty.toNat, o.toNat, sc.toNat], none)
  | .aLdt y q h cf => some (.A, 0x38, [y.toNat, q.val, h.val, cf.val], none)
  | .aStt y h cf => some (.A, 0x39, [y.toNat, h.val, cf.val], none)
  | .aLdi y q a => some (.A, 0x3A, [y.toNat, q.val, a.val], none)
  | .aLdv y q d h cf b o sc => some (.A, 0x3B, [y.toNat, q.val, d.val, h.val, cf.val, b.val, o.toNat, sc.toNat], none)
  | .aLdvBqa y q d h cf b o sc => some (.A, 0x3C, [y.toNat, q.val, d.val, h.val, cf.val, b.val, o.toNat, sc.toNat], none)
  | .aLda8 y d h cf ty o sc => some (.A, 0x40, [y.toNat, d.val, h.val, cf.val, ty.toNat, o.toNat, sc.toNat], none)
  | .aLda16 y d h cf ty o sc => some (.A, 0x41, [y.toNat, d.val, h.val, cf.val, ty.toNat, o.toNat, sc.toNat], none)
  | .aLda32 y d h cf ty o sc => some (.A, 0x42, [y.toNat, d.val, h.val, cf.val, ty.toNat, o.toNat, sc.toNat], none)
  | .aLda64 y d h cf ty o sc => some (.A, 0x43, [y.toNat, d.val, h.val, cf.val, ty.toNat, o.toNat, sc.toNat], none)
  | .aSta8 y h cf b ty o sc => some (.A, 0x44, [y.toNat, h.val, cf.val, b.val, ty.toNat, o.toNat, sc.toNat], none)
  | .aSta16 y h cf b ty o sc => some (.A, 0x45, [y.toNat, h.val, cf.val, b.val, ty.toNat, o.toNat, sc.toNat], none)
  | .aSta32 y h cf b ty o sc => some (.A, 0x46, [y.toNat, h.val, cf.val, b.val, ty.toNat, o.toNat, sc.toNat], none)
  | .aSta64 y h cf b ty o sc => some (.A, 0x47, [y.toNat, h.val, cf.val, b.val, ty.toNat, o.toNat, sc.toNat], none)
  | .aCpy y tok hd dcf hs scf len wd => some (.A, 0x48, [y.toNat, tok.val, hd.val, dcf.val, hs.val, scf.val, len.val, wd.toNat], none)
  | .aCpy2d y tok hd dcf hs scf len wd => some (.A, 0x49, [y.toNat, tok.val, hd.val, dcf.val, hs.val, scf.val, len.val, wd.toNat], none)
  | .aCpyx y tok hd dcf hs scf len wd => some (.A, 0x4A, [y.toNat, tok.val, hd.val, dcf.val, hs.val, scf.val, len.val, wd.toNat], none)
  | .aDqry y qual d h cf => some (.A, 0x50, [y.toNat, qual.toNat, d.val, h.val, cf.val], none)
  | .aDqryv y qual q h cf b => some (.A, 0x51, [y.toNat, qual.toNat, q.val, h.val, cf.val, b.val], none)
  | .aDqpf y h cf b => some (.A, 0x52, [y.toNat, h.val, cf.val, b.val], none)
  | .aDscan y h cf b => some (.A, 0x53, [y.toNat, h.val, cf.val, b.val], none)
  | .aFence y o sc => some (.A, 0x54, [y.toNat, o.toNat, sc.toNat], none)
  | .aWaita y h cf => some (.A, 0x55, [y.toNat, h.val, cf.val], none)
  | .aAaddI32 y h cf b o sc => some (.A, 0x60, [y.toNat, h.val, cf.val, b.val, o.toNat, sc.toNat], none)
  | .aAaddI64 y h cf b o sc => some (.A, 0x61, [y.toNat, h.val, cf.val, b.val, o.toNat, sc.toNat], none)
  | .aAaddF32 y h cf b o sc => some (.A, 0x62, [y.toNat, h.val, cf.val, b.val, o.toNat, sc.toNat], none)
  | .aAmin y h cf b ty o sc => some (.A, 0x63, [y.toNat, h.val, cf.val, b.val, ty.toNat, o.toNat, sc.toNat], none)
  | .aAmax y h cf b ty o sc => some (.A, 0x64, [y.toNat, h.val, cf.val, b.val, ty.toNat, o.toNat, sc.toNat], none)
  | .aAand y h cf b ty o sc => some (.A, 0x65, [y.toNat, h.val, cf.val, b.val, ty.toNat, o.toNat, sc.toNat], none)
  | .aAor y h cf b ty o sc => some (.A, 0x66, [y.toNat, h.val, cf.val, b.val, ty.toNat, o.toNat, sc.toNat], none)
  | .aAxor y h cf b ty o sc => some (.A, 0x67, [y.toNat, h.val, cf.val, b.val, ty.toNat, o.toNat, sc.toNat], none)
  | .aAfaddI32 y d h cf b o sc => some (.A, 0x68, [y.toNat, d.val, h.val, cf.val, b.val, o.toNat, sc.toNat], none)
  | .aAfaddI64 y d h cf b o sc => some (.A, 0x69, [y.toNat, d.val, h.val, cf.val, b.val, o.toNat, sc.toNat], none)
  | .aAfaddF32 y d h cf b o sc => some (.A, 0x6A, [y.toNat, d.val, h.val, cf.val, b.val, o.toNat, sc.toNat], none)
  | .aAxchg y d h cf b ty o sc => some (.A, 0x6B, [y.toNat, d.val, h.val, cf.val, b.val, ty.toNat, o.toNat, sc.toNat], none)
  | .aAcas y d h cf b x ty o sc => some (.A, 0x6C, [y.toNat, d.val, h.val, cf.val, b.val, x.val, ty.toNat, o.toNat, sc.toNat], none)
  | .aAscat y h cf b ty => some (.A, 0x6D, [y.toNat, h.val, cf.val, b.val, ty.toNat], none)
  | .aNmaddI32 y h cf b => some (.A, 0x70, [y.toNat, h.val, cf.val, b.val], none)
  | .aNmaddF32 y h cf b => some (.A, 0x71, [y.toNat, h.val, cf.val, b.val], none)
  | .aNmmin y h cf b ty => some (.A, 0x72, [y.toNat, h.val, cf.val, b.val, ty.toNat], none)
  | .aNmmax y h cf b ty => some (.A, 0x73, [y.toNat, h.val, cf.val, b.val, ty.toNat], none)
  | .aNmfence y => some (.A, 0x74, [y.toNat], none)
  | .aEmbag y q ha acf hb bcf n => some (.A, 0x75, [y.toNat, q.val, ha.val, acf.val, hb.val, bcf.val, n.val], none)
  | .aKvatt y q ha acf hb bcf n => some (.A, 0x76, [y.toNat, q.val, ha.val, acf.val, hb.val, bcf.val, n.val], none)
  | .aPut y tok hd dcf hs scf len wd => some (.A, 0x80, [y.toNat, tok.val, hd.val, dcf.val, hs.val, scf.val, len.val, wd.toNat], none)
  | .aPut2d y tok hd dcf hs scf len wd => some (.A, 0x81, [y.toNat, tok.val, hd.val, dcf.val, hs.val, scf.val, len.val, wd.toNat], none)
  | .aGet y tok hd dcf hs scf len wd => some (.A, 0x82, [y.toNat, tok.val, hd.val, dcf.val, hs.val, scf.val, len.val, wd.toNat], none)
  | .aGet2d y tok hd dcf hs scf len wd => some (.A, 0x83, [y.toNat, tok.val, hd.val, dcf.val, hs.val, scf.val, len.val, wd.toNat], none)
  | .aRadd y h cf b ty => some (.A, 0x84, [y.toNat, h.val, cf.val, b.val, ty.toNat], none)
  | .aRfadd y d h cf b ty => some (.A, 0x85, [y.toNat, d.val, h.val, cf.val, b.val, ty.toNat], none)
  | .aRcas y d h cf b x ty o sc => some (.A, 0x86, [y.toNat, d.val, h.val, cf.val, b.val, x.val, ty.toNat, o.toNat, sc.toNat], none)
  | .aFfence y => some (.A, 0x87, [y.toNat], none)
  | .aAllred y qual d h cf b x ty => some (.A, 0x88, [y.toNat, qual.toNat, d.val, h.val, cf.val, b.val, x.val, ty.toNat], none)
  | .aRedscat y qual d h cf b x ty => some (.A, 0x89, [y.toNat, qual.toNat, d.val, h.val, cf.val, b.val, x.val, ty.toNat], none)
  | .aAllgath y qual d h cf b x ty => some (.A, 0x8A, [y.toNat, qual.toNat, d.val, h.val, cf.val, b.val, x.val, ty.toNat], none)
  | .aBcast y qual d h cf b x ty => some (.A, 0x8B, [y.toNat, qual.toNat, d.val, h.val, cf.val, b.val, x.val, ty.toNat], none)
  | .xAdd y d a b => some (.X, 0x01, [y.toNat, d.val, a.val, b.val], none)
  | .xSub y d a b => some (.X, 0x02, [y.toNat, d.val, a.val, b.val], none)
  | .xAnd y d a b => some (.X, 0x03, [y.toNat, d.val, a.val, b.val], none)
  | .xOr y d a b => some (.X, 0x04, [y.toNat, d.val, a.val, b.val], none)
  | .xXor y d a b => some (.X, 0x05, [y.toNat, d.val, a.val, b.val], none)
  | .xShl y d a b => some (.X, 0x06, [y.toNat, d.val, a.val, b.val], none)
  | .xShr y d a b => some (.X, 0x07, [y.toNat, d.val, a.val, b.val], none)
  | .xSra y d a b => some (.X, 0x08, [y.toNat, d.val, a.val, b.val], none)
  | .xMul y d a b => some (.X, 0x09, [y.toNat, d.val, a.val, b.val], none)
  | .xMin y d a b => some (.X, 0x0A, [y.toNat, d.val, a.val, b.val], none)
  | .xMax y d a b => some (.X, 0x0B, [y.toNat, d.val, a.val, b.val], none)
  | .xAddi y d a imm => some (.X, 0x0C, [y.toNat, d.val, a.val, imm.toNat], none)
  | .xLi y d imm => some (.X, 0x0D, [y.toNat, d.val, imm.toNat], none)
  | .xLui y d imm => some (.X, 0x0E, [y.toNat, d.val, imm.toNat], none)
  | .xCmpeq y d a b => some (.X, 0x10, [y.toNat, d.val, a.val, b.val], none)
  | .xCmplt y d a b => some (.X, 0x11, [y.toNat, d.val, a.val, b.val], none)
  | .xCmple y d a b => some (.X, 0x12, [y.toNat, d.val, a.val, b.val], none)
  | .xBtgt y d o => some (.X, 0x13, [y.toNat, d.val, o.toNat], none)
  | .xBtgtReg y d a => some (.X, 0x14, [y.toNat, d.val, a.val], none)
  | .xBx y qual ca tb => some (.X, 0x15, [y.toNat, qual.toNat, ca.val, tb.val], none)
  | .xLoop y a e => some (.X, 0x16, [y.toNat, a.val, e.toNat], none)
  | .xVany y qual d a => some (.X, 0x17, [y.toNat, qual.toNat, d.val, a.val], none)
  | .xVall y qual d a => some (.X, 0x18, [y.toNat, qual.toNat, d.val, a.val], none)
  | .xPcnt y d a => some (.X, 0x19, [y.toNat, d.val, a.val], none)
  | .xNop y => some (.X, 0x1A, [y.toNat], none)
  | .xBound y a => some (.X, 0x1B, [y.toNat, a.val], none)
  | .xEnd y => some (.X, 0x1C, [y.toNat], none)
  | .xCsrr y d csr => some (.X, 0x1D, [y.toNat, d.val, csr.toNat], none)
  | .xCsrw y a csr => some (.X, 0x1E, [y.toNat, a.val, csr.toNat], none)
  | .xVpop y d q => some (.X, 0x20, [y.toNat, d.val, q.val], none)
  | .xVpops y d q => some (.X, 0x21, [y.toNat, d.val, q.val], none)
  | .xVpush y a => some (.X, 0x22, [y.toNat, a.val], none)
  | .xXpush y a => some (.X, 0x23, [y.toNat, a.val], none)
  | .xOpop y d => some (.X, 0x24, [y.toNat, d.val], none)
  | .xOpush y a => some (.X, 0x25, [y.toNat, a.val], none)
  | .xVadd y d a b g ty => some (.X, 0x30, [y.toNat, d.val, a.val, b.val, g.val, ty.toNat], none)
  | .xVsub y d a b g ty => some (.X, 0x31, [y.toNat, d.val, a.val, b.val, g.val, ty.toNat], none)
  | .xVmul y d a b g ty => some (.X, 0x32, [y.toNat, d.val, a.val, b.val, g.val, ty.toNat], none)
  | .xVmulh y d a b g ty => some (.X, 0x33, [y.toNat, d.val, a.val, b.val, g.val, ty.toNat], none)
  | .xVand y d a b g ty => some (.X, 0x34, [y.toNat, d.val, a.val, b.val, g.val, ty.toNat], none)
  | .xVor y d a b g ty => some (.X, 0x35, [y.toNat, d.val, a.val, b.val, g.val, ty.toNat], none)
  | .xVxor y d a b g ty => some (.X, 0x36, [y.toNat, d.val, a.val, b.val, g.val, ty.toNat], none)
  | .xVshl y d a b g ty => some (.X, 0x37, [y.toNat, d.val, a.val, b.val, g.val, ty.toNat], none)
  | .xVshr y d a b g ty => some (.X, 0x38, [y.toNat, d.val, a.val, b.val, g.val, ty.toNat], none)
  | .xVsra y d a b g ty => some (.X, 0x39, [y.toNat, d.val, a.val, b.val, g.val, ty.toNat], none)
  | .xVmin y d a b g ty => some (.X, 0x3A, [y.toNat, d.val, a.val, b.val, g.val, ty.toNat], none)
  | .xVmax y d a b g ty => some (.X, 0x3B, [y.toNat, d.val, a.val, b.val, g.val, ty.toNat], none)
  | .xVabs y d a g ty => some (.X, 0x3C, [y.toNat, d.val, a.val, g.val, ty.toNat], none)
  | .xVfadd y d a b g ty rnd => some (.X, 0x40, [y.toNat, d.val, a.val, b.val, g.val, ty.toNat, rnd.toNat], none)
  | .xVfsub y d a b g ty rnd => some (.X, 0x41, [y.toNat, d.val, a.val, b.val, g.val, ty.toNat, rnd.toNat], none)
  | .xVfmul y d a b g ty rnd => some (.X, 0x42, [y.toNat, d.val, a.val, b.val, g.val, ty.toNat, rnd.toNat], none)
  | .xVfma y d a b vc g ty rnd => some (.X, 0x43, [y.toNat, d.val, a.val, b.val, vc.val, g.val, ty.toNat, rnd.toNat], none)
  | .xVfms y d a b vc g ty rnd => some (.X, 0x44, [y.toNat, d.val, a.val, b.val, vc.val, g.val, ty.toNat, rnd.toNat], none)
  | .xVfnma y d a b vc g ty rnd => some (.X, 0x45, [y.toNat, d.val, a.val, b.val, vc.val, g.val, ty.toNat, rnd.toNat], none)
  | .xVfnms y d a b vc g ty rnd => some (.X, 0x46, [y.toNat, d.val, a.val, b.val, vc.val, g.val, ty.toNat, rnd.toNat], none)
  | .xVfmin y d a b g ty rnd => some (.X, 0x47, [y.toNat, d.val, a.val, b.val, g.val, ty.toNat, rnd.toNat], none)
  | .xVfmax y d a b g ty rnd => some (.X, 0x48, [y.toNat, d.val, a.val, b.val, g.val, ty.toNat, rnd.toNat], none)
  | .xVfabs y d a g ty rnd => some (.X, 0x49, [y.toNat, d.val, a.val, g.val, ty.toNat, rnd.toNat], none)
  | .xVfneg y d a g ty rnd => some (.X, 0x4A, [y.toNat, d.val, a.val, g.val, ty.toNat, rnd.toNat], none)
  | .xVfdiv y d a b g ty rnd => some (.X, 0x4B, [y.toNat, d.val, a.val, b.val, g.val, ty.toNat, rnd.toNat], none)
  | .xVfsqrt y d a g ty rnd => some (.X, 0x4C, [y.toNat, d.val, a.val, g.val, ty.toNat, rnd.toNat], none)
  | .xVfrcp y d a g ty rnd => some (.X, 0x4D, [y.toNat, d.val, a.val, g.val, ty.toNat, rnd.toNat], none)
  | .xVfexp2 y d a g ty rnd => some (.X, 0x4E, [y.toNat, d.val, a.val, g.val, ty.toNat, rnd.toNat], none)
  | .xVflog2 y d a g ty rnd => some (.X, 0x4F, [y.toNat, d.val, a.val, g.val, ty.toNat, rnd.toNat], none)
  | .xVftanh y d a g ty rnd => some (.X, 0x50, [y.toNat, d.val, a.val, g.val, ty.toNat, rnd.toNat], none)
  | .xVfsigm y d a g ty rnd => some (.X, 0x51, [y.toNat, d.val, a.val, g.val, ty.toNat, rnd.toNat], none)
  | .xVcmp y qual d a b g ty => some (.X, 0x52, [y.toNat, qual.toNat, d.val, a.val, b.val, g.val, ty.toNat], none)
  | .xVfcmp y qual d a b g ty => some (.X, 0x53, [y.toNat, qual.toNat, d.val, a.val, b.val, g.val, ty.toNat], none)
  | .xPand y d a b => some (.X, 0x54, [y.toNat, d.val, a.val, b.val], none)
  | .xPor y d a b => some (.X, 0x55, [y.toNat, d.val, a.val, b.val], none)
  | .xPxor y d a b => some (.X, 0x56, [y.toNat, d.val, a.val, b.val], none)
  | .xPnot y d a => some (.X, 0x57, [y.toNat, d.val, a.val], none)
  | .xVsel y d a b g => some (.X, 0x58, [y.toNat, d.val, a.val, b.val, g.val], none)
  | .xVcvtf y d a src g ty pol rnd => some (.X, 0x59, [y.toNat, d.val, a.val, src.toNat, g.val, ty.toNat, pol.toNat, rnd.toNat], none)
  | .xVcvti y d a src g ty pol rnd => some (.X, 0x5A, [y.toNat, d.val, a.val, src.toNat, g.val, ty.toNat, pol.toNat, rnd.toNat], none)
  | .xVqnt y d a b g ty pol rnd => some (.X, 0x5B, [y.toNat, d.val, a.val, b.val, g.val, ty.toNat, pol.toNat, rnd.toNat], none)
  | .xVdqnt y d a b g ty => some (.X, 0x5C, [y.toNat, d.val, a.val, b.val, g.val, ty.toNat], none)
  | .xVbcast y d a g ty => some (.X, 0x60, [y.toNat, d.val, a.val, g.val, ty.toNat], none)
  | .xVshuf y d a b g => some (.X, 0x61, [y.toNat, d.val, a.val, b.val, g.val], none)
  | .xVrot y d a g n => some (.X, 0x62, [y.toNat, d.val, a.val, g.val, n.toNat], none)
  | .xVextr y d a ty n => some (.X, 0x63, [y.toNat, d.val, a.val, ty.toNat, n.toNat], none)
  | .xVins y d a ty n => some (.X, 0x64, [y.toNat, d.val, a.val, ty.toNat, n.toNat], none)
  | .xVcomp y d a g => some (.X, 0x65, [y.toNat, d.val, a.val, g.val], none)
  | .xVexp y d a g => some (.X, 0x66, [y.toNat, d.val, a.val, g.val], none)
  | .xVrsum y d a g ty => some (.X, 0x67, [y.toNat, d.val, a.val, g.val, ty.toNat], none)
  | .xVrfsum y d a g ty rnd => some (.X, 0x68, [y.toNat, d.val, a.val, g.val, ty.toNat, rnd.toNat], none)
  | .xVrmax y d a g ty => some (.X, 0x69, [y.toNat, d.val, a.val, g.val, ty.toNat], none)
  | .xVrmin y d a g ty => some (.X, 0x6A, [y.toNat, d.val, a.val, g.val, ty.toNat], none)
  | .xVsortk y d a b g ty => some (.X, 0x6B, [y.toNat, d.val, a.val, b.val, g.val, ty.toNat], none)
  | .xVsegsum y d a b g ty => some (.X, 0x6C, [y.toNat, d.val, a.val, b.val, g.val, ty.toNat], none)
  | .xVtopk y d a g ty k => some (.X, 0x6D, [y.toNat, d.val, a.val, g.val, ty.toNat, k.toNat], none)
  | .xTapeon y => some (.X, 0x70, [y.toNat], none)
  | .xTapeoff y => some (.X, 0x71, [y.toNat], none)
  | .xVtape y a g => some (.X, 0x72, [y.toNat, a.val, g.val], none)
  | .xXtape y a => some (.X, 0x73, [y.toNat, a.val], none)
  | .xPtape y a => some (.X, 0x74, [y.toNat, a.val], none)
  | .xVuntape y d => some (.X, 0x75, [y.toNat, d.val], none)
  | .xXuntape y d => some (.X, 0x76, [y.toNat, d.val], none)
  | .xPuntape y d => some (.X, 0x77, [y.toNat, d.val], none)
  | .xTrev y => some (.X, 0x78, [y.toNat], none)
  | .xTmark y a => some (.X, 0x79, [y.toNat, a.val], none)
  | .xTld y d q a => some (.X, 0x80, [y.toNat, d.val, q.val, a.val], none)
  | .xTst y ta b => some (.X, 0x81, [y.toNat, ta.val, b.val], none)
  | .xTzero y d => some (.X, 0x82, [y.toNat, d.val], none)
  | .xTmovv y d ta b => some (.X, 0x83, [y.toNat, d.val, ta.val, b.val], none)
  | .xZld y d q a => some (.X, 0x84, [y.toNat, d.val, q.val, a.val], none)
  | .xZst y za b => some (.X, 0x85, [y.toNat, za.val, b.val], none)
  | .xZzero y d => some (.X, 0x86, [y.toNat, d.val], none)
  | .xZmovv y d za b => some (.X, 0x87, [y.toNat, d.val, za.val, b.val], none)
  | .xMma y d ta tb wd => some (.X, 0x90, [y.toNat, d.val, ta.val, tb.val], wd)
  | .xMmai y d ta tb wd => some (.X, 0x91, [y.toNat, d.val, ta.val, tb.val], wd)
  | .xMmah y d ta tb wd => some (.X, 0x92, [y.toNat, d.val, ta.val, tb.val], wd)
  | .xMmab1 y d ta tb wd => some (.X, 0x93, [y.toNat, d.val, ta.val, tb.val], wd)
  | .xMmab2 y d ta tb vc wd => some (.X, 0x94, [y.toNat, d.val, ta.val, tb.val, vc.val], wd)
  | .xMmas y d ta tb wd => some (.X, 0x95, [y.toNat, d.val, ta.val, tb.val], wd)
  | .xMmax y d ta tb wd => some (.X, 0x96, [y.toNat, d.val, ta.val, tb.val], wd)
  | .xMman y d ta tb wd => some (.X, 0x97, [y.toNat, d.val, ta.val, tb.val], wd)
  | .xMmv y d ta b wd => some (.X, 0x98, [y.toNat, d.val, ta.val, b.val], wd)
  | .tokenWaitResume _ => none
  | .queueWaitResume _ => none
  | .slipStallResume => none
  | .scoreboardWaitResume _ => none
  | .copySlotFree => none
  | .matrixAcceptResume => none
  | .commitWaitResume _ => none
  | .loadDataArrival _ => none
  | .watchdogExpiry _ => none
  | .commandBoundExpiry _ => none
  | .sectorCommit _ => none
  | .writeTransactionCommit _ => none
  | .copyCompletion _ => none
  | .atomicCommit _ => none
  | .nmUnitUpdate _ => none
  | .echoApply _ => none
  | .poolPartialReturn _ => none
  | .attentionPartialReturn _ => none
  | .claimEnd _ => none
  | .claimTimeout _ _ => none
  | .dscanBlockRebuild _ => none
  | .digestFillComplete _ => none
  | .digestWritebackEnd _ => none
  | .waitaWake _ => none
  | .barrierComplete _ => none
  | .matrixOpStart => none
  | .matrixOpComplete => none
  | .drainLimit => none
  | .trapDelivery => none
  | .doorbell _ => none
  | .millisecondTick => none
  | .softPreemptTimeout _ => none
  | .overlayLoad _ => none
  | .preemptSaveBegin _ => none
  | .saveEnd _ => none
  | .saveBroken _ => none
  | .teamRestore _ => none
  | .budgetExpiry _ => none
  | .launchDone _ => none
  | .migrationDrainEnd _ => none
  | .migrationArrival _ => none
  | .rdupInvalidateAck _ => none
  | .backInvalidateResponse _ => none
  | .remoteAccessArrival => none
  | .fabricAck => none
  | .contributionPacket => none
  | .collectiveComplete _ => none
  | .collectiveDeadline _ => none
  | .groupOpen _ => none
  | .groupClose _ => none
  | .groupOpenConfirmed _ => none
  | .groupOpenTimeout _ => none
  | .groupCloseComplete _ => none
  | .sessionReopen _ => none
  | .linkBringup _ => none
  | .linkRekey _ => none
  | .frameReceive _ => none
  | .tunnelRetransmit _ => none
  | .flitCrcRetry _ => none
  | .hostMemoryRequest => none
  | .hostAtomicop => none
  | .hostRequestCompletion _ => none
  | .attestationRequest => none
  | .hwinRegisterWrite => none
  | .deviceReset => none
  | .bootStep _ => none
  | .securityAlarm => none
  | .alarmQuietTimeout => none
  | .junctionOvertemp => none
  | .controlParityError => none
  | .patrolScrub => none
  | .stampPatrolVisit _ => none
  | .channelFailure _ => none
  | .channelRetirementEnd _ => none
  | .stampCheckAnswer _ => none
  | .registerValueArrival _ => none
  | .saveImageTransferEnd => none

/-- The opcode rows of a stream. -/
noncomputable def rowsOf : StreamId → List Row
  | .C => rowsC
  | .A => rowsA
  | .X => rowsX

/-- Where the opcode of a stream's word stands (R69, R74, R80). -/
def opField : StreamId → Field
  | .C => ⟨21, 7⟩
  | .A => ⟨52, 8⟩
  | .X => ⟨52, 8⟩

/-- The row of a stream's opcode, if the map assigns it. -/
noncomputable def rowOf (st : StreamId) (op : Nat) : Option Row := (rowsOf st).find? (fun r => r.op == op)

/-- EXT, bit 51 of an X-stream word (R80). -/
def extBit (st : StreamId) (w : Nat) : Bool := st == .X && w.testBit 51

/-- The words of a row with these field values: every reserved bit is 0 (R62). -/
def packRow (st : StreamId) (r : Row) (vs : List Nat) (wd : Option (BitVec 16)) : Nat :=
  r.op <<< (opField st).lo ||| r.fixed ||| packFields r.fields vs |||
    (if wd.isSome then 1 <<< 51 else 0)

/-- The bits of a word that R78 ignores, cleared. -/
def clearIgnored (r : Row) (w : Nat) : Nat := w ^^^ (w &&& r.ignored)

/-- The command bound of the extension word, when EXT is set (R81). -/
def boundOf (st : StreamId) (w ext : Nat) : Option (BitVec 16) :=
  if extBit st w then some (BitVec.ofNat 16 ext) else none

/-- R63, steps 1 and 3, on a word and (X-stream, EXT set) its extension word, with the rows of a stream. -/
def decodeIn (rows : List Row) (st : StreamId) (w ext : Nat) : Except DecodeError Instr :=
  match rows.find? (fun r => r.op == (opField st).get w) with
  | none => .error .unassigned
  | some r =>
    if extBit st w && (!r.ext || decide (ext ≥ 65536)) then .error .reserved
    else if packRow st r (r.fields.map (·.get w)) (boundOf st w ext) ≠ clearIgnored r w then .error .reserved
    else match r.build (r.fields.map (·.get w)) (boundOf st w ext) with
      | none => .error .reserved
      | some i => if wellFormed i then .ok i else .error .reserved

/-- R63, steps 1 and 3, on a word of a stream. Step 2, PRIV, is decided by the row's `sup` before step 3's result is
looked at. -/
noncomputable def decodeWord (st : StreamId) (w ext : Nat) : Except DecodeError Instr := decodeIn (rowsOf st) st w ext

/-- Whether the opcode of a word is supervisor-only (R63 step 2, R73). -/
noncomputable def supervisorOnly (st : StreamId) (w : Nat) : Bool :=
  match rowOf st ((opField st).get w) with
  | none => false
  | some r => r.sup

/-- The stream, the word and the extension word (0 when there is none) of an instruction; none for an event. -/
noncomputable def encode (i : Instr) : Option (StreamId × Nat × Nat) :=
  match operandsOf i with
  | none => none
  | some (st, op, vs, wd) =>
    match rowOf st op with
    | none => none
    | some r => some (st, packRow st r vs wd, (wd.getD 0).toNat)

/-- Bytes in a word: 4 in the C-stream, 8 in the others, 16 with an extension word (R15, R18, R81). -/
def wordBytes (st : StreamId) (w : Nat) : Nat :=
  match st with
  | .C => 4
  | .A => 8
  | .X => if w.testBit 51 then 16 else 8

/-- The instruction of a table word: up to 32 bits a C-stream word; 64 bits an A-stream word, else an X-stream word;
above that an X-stream word with its extension word. The spec gives the stream with the fetch, not with the word, so which
stream is tried first is the model's DESIGN CHOICE (log 8). -/
noncomputable def decodeTableWord (nbits w : Nat) : Option Instr :=
  if nbits ≤ 32 then (decodeWord .C (w % 2 ^ 32) 0).toOption
  else if nbits ≤ 64 then
    match decodeWord .A (w % 2 ^ 64) 0 with
    | .ok i => some i
    | .error _ => (decodeWord .X (w % 2 ^ 64) 0).toOption
  else (decodeWord .X (w % 2 ^ 64) (w >>> 64)).toOption

end Sys2Proof
end

