-- ==== Sys2Proof/Machine/State.lean ====
section
/-! DEFINITION. The state of one Gwynmen M7 module, as plain data, and its value at reset. -/
namespace Sys2Proof.Machine

/-! ### Traps -/

/-- The nineteen causes of R284. -/
inductive Cause where
  | illegal | illegalSequence | priv | programAddress | pageAbsent | permission | race | watchdog | fqUnderflow
  | shapeMismatch | fpOverflow | padOverflow | sealFail | tapeFull | tapeKind | tapeEmpty | eccUncorrectable
  | layoutStale | trap
  deriving DecidableEq, Repr, Inhabited

/-- What a trap record says beyond where the streams stopped (R286, R287): the registers tcause [63:40], taddr, thnd,
tissue and taux0–taux2. -/
structure TrapInfo where
  cause : Cause := .illegal
  code : BitVec 16 := 0
  detail : BitVec 8 := 0
  addr : Word := 0
  hnd : Word := 0
  issue : Word := 0
  aux0 : Word := 0
  aux1 : Word := 0
  aux2 : Word := 0
  /-- what delivery clears (R275, R322): 0 nothing, 1 + z the latch of accumulator z, 5 + q the error of the head of load queue q -/
  clears : Nat := 0
  deriving DecidableEq, Repr, Inhabited

/-- One active hardware loop (R55). -/
structure LoopEntry where
  start : Word
  stop : Word
  remaining : Word
  deriving DecidableEq, Repr, Inhabited

/-- A BX transfer whose slots have not all run (R58, R59). -/
structure BxPending where
  target : Word
  taken : Bool
  slots : Nat
  deriving DecidableEq, Repr, Inhabited

/-- A trap bank in use: its registers (R286) and the loop stacks and BX transfer of the cut (R291). -/
structure TrapBank where
  tcause : Word := 0
  tpcc : Word := 0
  tpca : Word := 0
  tpcx : Word := 0
  taddr : Word := 0
  thnd : Word := 0
  tissue : Word := 0
  taux0 : Word := 0
  taux1 : Word := 0
  taux2 : Word := 0
  loopsC : List LoopEntry := []
  loopsA : List LoopEntry := []
  loopsX : List LoopEntry := []
  bx : Option BxPending := none
  /-- the C-stream stood in WFE, whose wait the delivery ended (R114) -/
  woken : Bool := false
  deriving DecidableEq, Repr, Inhabited

/-! ### Streams -/

/-- The blocking waits of R36, and the holds of the stamp check (R126), each with what decides its end. -/
inductive Wait where
  /-- WL, WR: one token from the left, from the right neighbour (R27). -/
  | tokens (left right : Bool)
  /-- room for the owed signals SL, SR (R27), and for the tokens of TSIG (R111): counter and how many. -/
  | room (want : List (Nat × Nat))
  /-- TWAIT: counter and how many (R111). -/
  | take (counter n : Nat)
  /-- a pop of queue code `q` that needs `n` entries (R21). -/
  | pop (q n : Nat)
  /-- a push to queue code `q` that needs room for `n` entries (R21). -/
  | push (q n : Nat)
  /-- a load-queue push held by slipmax (R30). -/
  | slip (q n : Nat)
  /-- the data of a reserved entry, or of a reserved bqa bit (R22, R138): a blocking wait of R36 that is no stop of R289. -/
  | entry (q : Nat)
  /-- an address register with outstanding writers (R129). -/
  | scoreboard (reg : Nat)
  /-- an accumulator with outstanding writers (R274). -/
  | accumulator (z : Nat)
  /-- TLD or TZERO of a tile that accepted operations read (R274). -/
  | tileReaders (t : Nat)
  /-- a parked WAITA and its sector (R155, R156). -/
  | waita (va sector : Nat)
  /-- a DBAR that has arrived (R42). -/
  | dbar (level phase : Nat)
  /-- FENCE, NMFENCE, FFENCE, END, TAPEOFF, FLUSH, DFREE: operations that must commit first (R109, R12). -/
  | commits (opcode : Nat) (ops : List Nat)
  /-- a free copy or collective slot (R143, R164). -/
  | copySlot (opcode : Nat)
  /-- matrix acceptance (R271 step 4). -/
  | matrixAccept (opcode : Nat)
  | genf
  | wfe
  /-- a page that is migrating in (R309). -/
  | migratingIn (index : Nat)
  /-- the answer of a stamp check (R126): no blocking wait of R36. -/
  | stampCheck (op : Nat)
  /-- the transfer of a save image by SAVEC or RESTC (R124). -/
  | saveTransfer
  deriving DecidableEq, Repr, Inhabited

/-- Where a stream stands. `stopped` carries the STOP code of R290; `ended` is R12's end of A and X, and HALT of C. -/
inductive Status where
  | notStarted
  | running
  | waiting (w : Wait) (since : Nat)
  | stopped (stop : Nat)
  | ended
  deriving DecidableEq, Repr, Inhabited

/-- One stream of a core (R15, R17, R27, R55, R59). -/
structure StreamState where
  pc : Word := 0
  status : Status := .notStarted
  /-- the instruction at pc has taken its sync-field tokens -/
  waited : Bool := false
  /-- signals still owed by the instruction before pc: [1] SL, [0] SR -/
  psig : BitVec 2 := 0
  /-- the loop stack, innermost first; empty at reset (DESIGN CHOICE, log 3) -/
  loops : List LoopEntry := []
  bx : Option BxPending := none
  /-- the operations that the waiting instruction at pc awaits -/
  awaited : Option (List Nat) := none
  /-- the wait of the instruction at pc was ended by a wake-up, a barrier or an answer -/
  woken : Bool := false
  /-- the instruction at pc has counted its loss of decoupling (R33); an instruction whose wait is abandoned and that executes
  again counts anew (DESIGN CHOICE, log 214) -/
  counted : Bool := false
  /-- the translation entries for whose pages the instruction at pc has waited, and which have arrived (R309) -/
  pages : List Nat := []
  /-- the access to CORE of the instruction at pc is under way: what it follows performs first (R229) -/
  held : Bool := false
  /-- the cycle from which the stream may execute its next instruction; it does so within 16 cycles (DESIGN CHOICE, log 232) -/
  ready : Nat := 0
  deriving DecidableEq, Repr, Inhabited

/-! ### Shape objects, translation, queues -/

/-- A sealed shape object (R104) with its seal check and the channel map it was sealed against (R285). -/
structure Shape where
  base : Nat := 0
  space : Nat := 0
  rank : Nat := 1
  ty : ElemCode := 0
  exact : Bool := false
  hasReg : Bool := false
  dev : Nat := 0
  region : Nat := 0
  dims : List Nat := []
  strides : List Nat := []
  xforms : List Nat := []
  perm : Nat := 0
  padsz : Nat := 0
  sealchk : BitVec 32 := 0
  chanMap : Nat := 0
  deriving DecidableEq, Repr, Inhabited

/-- STATE of a translation entry (R309). -/
inductive PageState where
  | present | absent | migratingOut | migratingIn
  deriving DecidableEq, Repr, Inhabited

/-- A valid locked translation entry (R304). `space` is the SPACE code of R104, `size` the size in bytes. -/
structure Xlat where
  vbase : Nat := 0
  phys : Nat := 0
  alt : Nat := 0
  size : Nat := 65536
  space : Nat := 0
  r : Bool := false
  w : Bool := false
  pin : Bool := false
  rdup : Bool := false
  altv : Bool := false
  state : PageState := .present
  /-- an uncorrectable parity error has struck the entry (R298, R377) -/
  broken : Bool := false
  deriving DecidableEq, Repr, Inhabited

/-- A deferred error: its cause, the issuing instruction and the rest of its record (R128, R302). -/
structure Deferred where
  info : TrapInfo
  pc : Word
  /-- only an instruction that reads the register reports it: RFADD and RCAS (R128) -/
  readOnly : Bool := false
  deriving DecidableEq, Repr, Inhabited

/-- A queue of R19, with its sequence numbers (R20). -/
structure Queue (α : Type) where
  head : BitVec 32 := 0
  items : List α := []
  deriving DecidableEq, Repr, Inhabited

/-- A load-queue entry: reserved (`data` none) or filled, with the error its data carries (R22, R322). -/
structure LqEntry where
  data : Option Vec := none
  error : Option Deferred := none
  deriving DecidableEq, Repr, Inhabited

/-- An outcome bit and the cycle it was pushed or filled in (R32, R138). -/
structure OutBit where
  bit : Option Bool := none
  since : Nat := 0
  error : Option Deferred := none
  deriving DecidableEq, Repr, Inhabited

/-! ### Matrix engine, tape -/

/-- The error latch of an accumulator (R275). -/
structure Latch where
  info : TrapInfo
  pc : Word
  count : Word
  /-- accepted operations on the accumulator that are earlier than the failing one and have still to complete -/
  earlier : Nat := 0
  deriving DecidableEq, Repr, Inhabited

/-- A matrix operation accepted by the engine (R271, R302): its opcode and registers, its words, what it read at acceptance,
and its times. -/
structure MatOp where
  op : Nat
  z : ZReg
  ta : TReg
  /-- none for MMV -/
  tb : Option TReg
  word : Word
  ext : Word
  pc : Word
  fmt : Word
  gen : Word
  shapeZ : Word
  shapeA : Word
  shapeB : Word
  vecs : List Vec
  accepted : Nat
  /-- its command bound in cycles (R39) -/
  bound : Nat
  /-- its completion cycle, once started -/
  started : Option Nat := none
  /-- an uncorrectable read (4) or a residue mismatch (5) has struck it: taux0 of R287 -/
  struck : Option Nat := none
  deriving DecidableEq, Repr, Inhabited

/-- The tape unit (R331–R333). -/
structure Tape where
  /-- 0 off, 1 recording, 2 replay -/
  mode : Nat := 0
  incomplete : Bool := false
  drop : Bool := false
  handle : Nat := 0
  limit : Nat := 0
  pos : Nat := 0
  dropped : Nat := 0
  obj : Option Shape := none
  /-- the translations the binding was checked against (R332) -/
  xlats : List Xlat := []
  deriving DecidableEq, Repr, Inhabited

/-! ### Cores -/

/-- A raised trap that has not been delivered: origin, cycle, record (R289). -/
structure Pending where
  origin : StreamId
  since : Nat
  info : TrapInfo
  deriving DecidableEq, Repr, Inhabited

/-- What the A-stream's last LD, LDA or LDV read: its sectors, the operation while it is in flight, the sectors written
since it read them, and whether a save or a restore has lost the read (R155); lost with no sectors: which ones is not known. -/
structure LastRead where
  sectors : List Nat := []
  op : Option Nat := none
  written : List Nat := []
  lost : Bool := false
  deriving DecidableEq, Repr, Inhabited

/-- One core (R14–R16, R99). -/
structure Core where
  num : Nat
  c : StreamState := {}
  a : StreamState := {}
  x : StreamState := {}
  /-- s0–s31, a0–a31, x0–x31; element 0 is never read or written (R16) -/
  sregs : Vector Word 32 := Vector.replicate 32 0
  aregs : Vector Word 32 := Vector.replicate 32 0
  xregs : Vector Word 32 := Vector.replicate 32 0
  v : Vector Vec 64 := Vector.replicate 64 Vec.zero
  /-- p0–p15; element 0 is never read or written (R16) -/
  p : Vector Word 16 := Vector.replicate 16 0
  flags : Vector Bool 8 := Vector.replicate 8 false
  bt : Vector Word 4 := Vector.replicate 4 0
  /-- t0–t7: row r, half h at 2r + h (R264) -/
  tiles : Vector (Vector Vec 128) 8 := Vector.replicate 8 (Vector.replicate 128 Vec.zero)
  accs : Vector (Vector Vec 64) 4 := Vector.replicate 4 (Vector.replicate 64 Vec.zero)
  /-- shape records of t0–t7, then z0–z3 (R103) -/
  shapes : Vector Word 12 := Vector.replicate 12 0
  /-- instruction memories: bytes that differ from 0, addresses rising -/
  imemC : List Host.Cell := []
  imemA : List Host.Cell := []
  imemX : List Host.Cell := []
  lq : Vector (Queue LqEntry) 4 := Vector.replicate 4 {}
  sq : Queue Vec := {}
  vq : Queue Word := {}
  bqa : Queue OutBit := {}
  bqx : Queue OutBit := {}
  fq : Queue Word := {}
  /-- kca, kcx, kac, kax, kxc, kxa (R25, R288) -/
  tokens : Vector Nat 6 := Vector.replicate 6 0
  /-- trap banks in use, the first taken first: cstat.DEPTH is their number (R100) -/
  banks : List TrapBank := []
  halted : Bool := false
  pending : Option Pending := none
  /-- cycles counted before the present start, and the device cycle of that start while the streams run (R99) -/
  cyclesBase : Nat := 0
  cyclesSince : Option Nat := none
  tbudget : Word := 0
  dmem : Word := 0
  tphase : BitVec 32 := 0
  gphase : BitVec 32 := 0
  gen : Word := 0
  lastrel : Word := 0
  lastacq : Word := 0
  unpublished : Bool := false
  mvthr : Word := 32
  mlate : Word := 0
  isat : Bool := false
  slipmax : Word := 256
  ldcnt : BitVec 32 := 0
  wdc : Word := 0x01000000
  wda : Word := 0x01000000
  wdx : Word := 0x01000000
  sh : Vector Word 8 := Vector.replicate 8 0
  tvec : Word := 0xC000
  tscr0 : Word := 0
  tscr1 : Word := 0
  /-- the handle table: entries in use, handles rising -/
  handles : List (Nat × Shape) := []
  /-- the locked translation table: valid entries, indexes rising -/
  ltt : List (Nat × Xlat) := []
  /-- the deferred reports that wait for their instruction, by the index of R302 -/
  reports : List (Nat × Deferred) := []
  latches : Vector (Option Latch) 4 := Vector.replicate 4 none
  /-- accepted matrix operations that have not completed, in acceptance order -/
  matrix : List MatOp := []
  /-- the cycle from which the matrix engine is free -/
  engineFree : Nat := 0
  tape : Tape := {}
  lastRead : Option LastRead := none
  /-- the launch of which the core is a member, and the member's index -/
  member : Option (Nat × Nat) := none
  /-- a soft pre-emption of the team is pending (R295) -/
  softPending : Bool := false
  /-- a hard pre-emption has stopped, or is stopping, this member (R296) -/
  hardStop : Bool := false
  /-- SAVEC or RESTC holds the matrix engine (R300) -/
  engineHeld : Bool := false
  deriving DecidableEq, Repr

/-! ### Operations in flight -/

/-- A contiguous piece of an access: the physical key of its first byte (see `State.mem`), its length, and, for a write,
the key it is copied from or the bytes it writes. `bad`: its source was read with the rest of its sector, and is uncorrectable. -/
structure Seg where
  key : Nat
  len : Nat
  src : Option Nat := none
  data : List Byte := []
  bad : Bool := false
  deriving DecidableEq, Repr, Inhabited

/-- The combining operations of R152. -/
inductive AtomOp where
  | add | min | max | and | or | xor | xchg | cas
  deriving DecidableEq, Repr, Inhabited

/-- One element that an atomic or archive-tier operation combines: key, operand v, and the new value x of ACAS. -/
structure Elem where
  key : Nat
  v : Word
  x : Word := 0
  deriving DecidableEq, Repr, Inhabited

/-- The digest fields of R147, by QUAL. -/
inductive DigestField where
  | min | max | sum | zmap | sig | norm | ver | state
  deriving DecidableEq, Repr, Inhabited

/-- An item of a bag whose row is to be read: bag, virtual address and key of its row segment, weight, and the chip that the die has
sent it to (R159, R317). -/
structure PoolItem where
  bag : Nat
  va : Nat
  key : Nat
  w : Lane
  chip : Nat
  deriving DecidableEq, Repr, Inhabited

/-- An EMBAG under way: its items still to fold, in ascending position, the partials so far by chip and bag, and the errors that
mark bags (R321, R322). -/
structure Pool where
  items : List PoolItem
  parts : List (Nat × Nat × List Lane) := []
  marks : List (Nat × TrapInfo) := []
  /-- chips whose partials are still to come -/
  left : List Nat
  /-- chips whose unit holds a claim on the granule of its next item (R328) -/
  claimed : List Nat := []
  deriving DecidableEq, Repr, Inhabited

/-- A token of a pass: virtual address and key of its row, and the chip that the die has sent it to (R326). -/
structure PassToken where
  va : Nat
  key : Nat
  chip : Nat
  deriving DecidableEq, Repr, Inhabited

/-- A KVATT under way: its tokens still to take, in ascending order, the partials (acc, m, l) so far of the chips whose passes have
begun, and its error (R326). -/
structure Pass where
  tokens : List PassToken
  parts : List (Nat × List Lane × Lane × Lane) := []
  error : Option TrapInfo := none
  /-- chips whose partials are still to come -/
  left : List Nat
  deriving DecidableEq, Repr, Inhabited

/-- One member's contribution to a collective as it arrives: the decoded elements of the runs received, by the number of the run in
the contribution (R346, R367). -/
structure Contribution where
  sender : Nat
  runs : List (Nat × List Lane)
  deriving DecidableEq, Repr, Inhabited

/-- A collective (R164, R344–R346): its group, operation (0 ALLRED, 1 REDSCAT, 2 ALLGATH, 3 BCAST), operation number and
session; what it took of the group at issue; wire type, deadline cycle, the pieces of its elements, their number, the devices
that have still to acknowledge a packet with the link that each packet left on, the mask once complete, and the contributions.
`pieces` is empty once aD is written. -/
structure Coll where
  group : Nat
  kind : Nat
  num : Nat
  session : Nat
  m : Nat
  self : Nat
  spn : Nat
  wire : ElemCode
  strict : Bool
  deadline : Option Nat
  pieces : List Seg
  count : Nat
  unacked : List (Nat × Nat) := []
  mask : Option Word := none
  parts : List Contribution := []
  deriving DecidableEq, Repr, Inhabited

/-- What a fabric access asks its destination for (R162, R163, R363). A PUT comes in packets: `last` ends it. -/
inductive RemoteAsk where
  | put (segs : List (Nat × List Byte)) (last : Bool)
  | get (segs : List (Nat × Nat))
  | atomic (op : AtomOp) (ty : ElemCode) (addr : Nat) (v x : Word) (returns : Bool)
  deriving DecidableEq, Repr, Inhabited

/-- What an operation in flight is and what its completion does. -/
inductive Job where
  /-- LD: reads `n` elements of type `ty` into entry `seq` of load queue `q` (R135). -/
  | ld (q : Nat) (seq : BitVec 32) (ty : ElemCode)
  /-- LDT: raw bytes into entry `seq` of load queue `q` (R137). -/
  | ldt (q : Nat) (seq : BitVec 32)
  /-- LDV: `n` entries from `seq`, the version acted on, the versions v1 and v2 once read, the reserved bqa bit (R138). -/
  | ldv (q : Nat) (seq : BitVec 32) (n : Nat) (region block : Nat) (old : BitVec 32) (v1 v2 : Option (BitVec 32))
      (bit : Option (BitVec 32))
  /-- LDA: one element of type `ty` into the register (R139). -/
  | lda (ty : ElemCode)
  /-- DQRY of one field (R147); `elem` is the element's number in the block. -/
  | dqry (field : DigestField) (region block elem : Nat)
  /-- DQRYV: the blocks still to read and the fields read so far (R148). -/
  | dqryv (q : Nat) (seq : BitVec 32) (field : DigestField) (region : Nat) (blocks : List Nat) (got : List Lane)
  /-- DSCAN: the blocks still to rebuild (R150). -/
  | dscan (region : Nat) (blocks : List Nat)
  /-- a store, a tape write, a collective's result (R136, R137, R139, R192). -/
  | store
  /-- a tape write (R192). -/
  | tapeWrite
  /-- a copy: bytes written so far; `cpyx` names the source object's chain and source bytes to be transformed (R141). -/
  | copy (written : Nat) (cpyx : Option (Shape × List Seg))
  /-- atomics and ASCAT lanes still to perform (R151–R153); the value read, once read. -/
  | atomic (op : AtomOp) (ty : ElemCode) (elems : List Elem) (value : Option Word)
  /-- near-memory atomics: elements the chip has still to update (R157, R323) and the value read. -/
  | nm (op : AtomOp) (ty : ElemCode) (elems : List Elem) (value : Option Word)
  /-- EMBAG: load queue, entry, table, its origin row and column, bag list, first item, bag count (R159); what the die has
  read of the list, once it has; claim-broken status (R328). -/
  | embag (q : Nat) (seq : BitVec 32) (table : Shape) (row col : Nat) (list : Shape) (first bags : Nat) (work : Option Pool)
      (broken : Bool) (listHnd : Word)
  /-- KVATT: load queue, entry, cache, block table, first entry of it, tokens, scale, query elements (R160); what the die has
  read of the block table, once it has; claim-broken status (R328). -/
  | kvatt (q : Nat) (seq : BitVec 32) (cache table : Shape) (first tokens : Nat) (scale : Lane) (query : List (BitVec 16))
      (work : Option Pass) (broken : Bool) (listHnd : Word)
  /-- PUT: the bytes sent and not yet acknowledged, if there are any, and the bytes written (R162). -/
  | put (answers : List Nat) (written : Nat)
  /-- GET: bytes of each request not yet answered, in order, and the bytes written (R162). -/
  | get (answers : List Nat) (written : Nat)
  /-- RADD, RFADD and RCAS (R163). -/
  | remoteAtomic (ty : ElemCode)
  /-- a collective (R164). -/
  | collective (c : Coll)
  /-- FLUSH: snoops not yet answered, by line (R110). -/
  | flush (lines : Nat)
  deriving DecidableEq, Repr

/-- An operation in flight (R28, R39, R128, R226). -/
structure Flight where
  id : Nat
  core : Nat
  stream : StreamId := .A
  pc : Word := 0
  /-- the generation tag (R113) -/
  gen : Word := 0
  issued : Nat := 0
  /-- the earliest cycle in which it completes (R50) -/
  ready : Nat := 0
  /-- the cycle after which a command bound expires (R39) -/
  expires : Option Nat := none
  ord : BitVec 2 := 0
  sco : BitVec 2 := 0
  /-- operations that must commit before this one performs (release, location order, fences) -/
  after : List Nat := []
  /-- the release effect of R232 has been performed -/
  released : Bool := false
  /-- a plain access to a watched space, whose commit records the stamp (R236) -/
  watched : Bool := false
  write : Bool := false
  /-- the codes of the spaces it accesses, for scopes (R229) -/
  spaces : List Nat := []
  /-- read-duplicated pages whose other copy it must see invalidated: space, place, size (R313) -/
  dups : List (Nat × Nat × Nat) := []
  /-- the key ranges in whose pages' in-flight counts it counts (R311) -/
  held : List (Nat × Nat) := []
  /-- the digest fill that it has started, until when (R218) -/
  fill : Option Nat := none
  /-- token or destination register -/
  reg : Option Nat := none
  hnd : Word := 0
  va : Nat := 0
  job : Job
  todo : List Seg := []
  /-- what a fabric operation to this device's own number has still to write: key, length (R216, R363) -/
  far : List (Nat × Nat) := []
  /-- bytes read so far -/
  got : List Byte := []
  error : Option TrapInfo := none
  /-- for an LDV, the entries of those it fills whose data met an error, and it (R22, R128) -/
  bad : List (Nat × TrapInfo) := []
  /-- the links on which what is outstanding of a fabric operation went out (R363) -/
  links : List Nat := []
  /-- what a fabric operation has still to ask of its destination, while it is held back (R130, R162) -/
  unsent : Option RemoteAsk := none
  /-- for an access that has arrived from a device: its number there, its core and its operation (R363) -/
  origin : Option (Nat × Nat × Nat) := none
  /-- its core has been reset or has left the launch since: it commits, and reports and writes nothing of the core -/
  orphan : Bool := false
  deriving DecidableEq, Repr

/-! ### Digests and race stamps -/

/-- A declared digest region (R89, R121, R199). `pages` gives the physical key of each part of its range: offset, key, length. -/
structure Region where
  num : Nat
  kind : Nat
  ty : ElemCode
  watch : Bool
  blockLog : Nat
  base : Nat
  size : Nat
  seed : Word
  space : Nat
  pages : List (Nat × Nat × Nat)
  die : Nat
  /-- the index of its first entry in its die's half of the table (R200) -/
  start : Nat
  deriving DecidableEq, Repr, Inhabited

/-- The four states of R202. -/
inductive EntryState where
  | exact | wide | stale | empty
  deriving DecidableEq, Repr, Inhabited

/-- A digest entry (R201); VERX is the complement of VERSION and is not stored twice. `lost` counts the copies of the
version that an uncorrectable error has taken: 2 when neither survives (R215). -/
structure Entry where
  version : BitVec 32 := 0
  state : EntryState := .empty
  payload : BitVec 160 := 0
  lost : Nat := 0
  deriving DecidableEq, Repr, Inhabited

/-- A race stamp (R234). -/
structure Stamp where
  rclk : BitVec 44 := 0
  wclk : BitVec 44 := 0
  wcore : Nat := 255
  rmap : BitVec 160 := 0
  deriving DecidableEq, Repr, Inhabited

/-- A digest-cache slot in use (R218, R219): die, entry index, last use, changed, fill outstanding until. -/
structure CacheSlot where
  id : Nat
  die : Nat
  index : Nat
  lastUse : Nat
  changed : Bool := false
  filling : Option Nat := none
  deriving DecidableEq, Repr, Inhabited

/-! ### Archive tier -/

/-- An echo on its way from a chip to a die-side port (R213, R323): its element, key and length, and the value there before and
after; both are empty for a failing ACAS, which is a read. -/
structure Echo where
  id : Nat
  chip : Nat
  op : Nat
  key : Nat
  len : Nat
  old : List Byte
  new : List Byte
  /-- the cycle in which its unit sent it -/
  since : Nat := 0
  deriving DecidableEq, Repr, Inhabited

/-- A PUT whose packets are still arriving: its device, core and operation there, and its bytes so far (R162). Its sectors and
transactions are those of the whole operation (R145, R208). -/
structure Gather where
  src : Nat
  core : Nat
  op : Nat
  segs : List (Nat × List Byte) := []
  deriving DecidableEq, Repr, Inhabited

/-- A fabric reduction that waits behind a claim: since when, its device, core and operation there, and what it asks (R328). -/
structure Waiting where
  since : Nat
  src : Nat
  core : Nat
  op : Nat
  ask : RemoteAsk
  deriving DecidableEq, Repr

/-- A claim of a chip's unit on granules, and the fabric reductions that wait on it, in arrival order (R328). A claim of the pool unit
is for one row segment: `due` items of its operation were still to fold there when it was made. -/
structure Claim where
  id : Nat
  chip : Nat
  op : Nat
  granules : List Nat
  due : Nat := 0
  waiting : List Waiting := []
  deriving DecidableEq, Repr

/-- The three kinds of unit of a chip (R320). -/
inductive UnitKind where
  | pool | atomic | attention
  deriving DecidableEq, Repr, Inhabited

/-- An operation in the queue of a unit: the units take them in arrival order (R320). -/
structure UnitEntry where
  chip : Nat
  kind : UnitKind
  op : Nat
  deriving DecidableEq, Repr, Inhabited

/-! ### Watch tables, barriers, migration -/

/-- A watch-table entry of a grove (R156). -/
structure WatchEntry where
  grove : Nat
  core : Nat
  sector : Nat
  woken : Bool := false
  deriving DecidableEq, Repr, Inhabited

/-- A member's arrival at a barrier (R42). -/
structure Arrival where
  core : Nat
  level : Nat
  since : Nat
  deriving DecidableEq, Repr, Inhabited

/-- A migration under way (R310–R312): the tier, place and size of the page's data, the place in the other tier that it moves
to, whether the entry was present (PHYS and ALT are then exchanged at its arrival), and the deadlines asked for: core, tick;
and those of members of suspended teams: launch, TINDEX, tick. -/
structure Migration where
  id : Nat
  space : Nat
  phys : Nat
  alt : Nat
  size : Nat
  exchange : Bool
  draining : Bool
  requests : List (Nat × Word)
  suspended : List (Nat × Nat × Word) := []
  deriving DecidableEq, Repr, Inhabited

/-! ### Registers and queues in their protected units (R381) -/

/-- A 64-bit unit of a core's registers, queues and instruction memories. Vectors, half-rows and rows hold 32 pairs of lanes; `code` is
that of a queue in R65 (4 sq, 5 vq), 8 for fq. The load queues and the outcome queues carry their errors in their entries. -/
inductive RegUnit where
  | scalar (st : StreamId) (r : Nat)
  | vec (r pair : Nat)
  | pred (r : Nat)
  | target (r : Nat)
  /-- c0–c7, which hold one bit each: a unit for each is the model's choice (DESIGN CHOICE, log 225) -/
  | cflag (r : Nat)
  /-- tile, half-row (2 × row + half), pair -/
  | tile (t half pair : Nat)
  | acc (z row pair : Nat)
  /-- queue, sequence number of the entry, pair -/
  | entry (code : Nat) (seq : BitVec 32) (pair : Nat)
  /-- stream, number of the 8-byte word -/
  | code (st : StreamId) (word : Nat)
  deriving DecidableEq, Repr, Inhabited

/-- A unit of a core that is marked uncorrectable. -/
structure RegMark where
  core : Nat
  unit : RegUnit
  deriving DecidableEq, Repr, Inhabited

/-! ### Launches and the dispatcher -/

/-- A launch record as the dispatcher copies it (R351). -/
structure LaunchRecord where
  code : Nat := 0
  args : Nat := 0
  lttimg : Nat := 0
  save : Nat := 0
  sh : List Word := []
  budget : Nat := 0
  lttn : Nat := 0
  team : Nat := 0
  prio : Nat := 0
  /-- a reserved bit is set (R352) -/
  reserved : Bool := false
  deriving DecidableEq, Repr, Inhabited

/-- STATE of a launch that is not FREE, DONE or FAILED (R353). -/
inductive LaunchState where
  | waiting | loading | running | suspended
  deriving DecidableEq, Repr, Inhabited

/-- What the device keeps of a suspended member beside its save image: its cycles, its late migrations since (R312), the channel
map against which each handle was sealed (R360), DROPPED of its tape (R331), the errors that queue entries carry (load queues
0–3, 6 bqa, 7 bqx; place; error), the records of its latches and reports, of which the image holds only the cause (R302), the
offsets of its uncorrectable CORE units, and its uncorrectable registers and queue entries (R381). -/
structure KeptMember where
  cycles : Nat := 0
  late : Nat := 0
  maps : List (Nat × Nat) := []
  dropped : Nat := 0
  errors : List (Nat × Nat × Deferred) := []
  latches : Vector (Option Latch) 4 := Vector.replicate 4 none
  reports : List (Nat × Deferred) := []
  poison : List Nat := []
  marks : List RegUnit := []
  deriving DecidableEq, Repr, Inhabited

/-- A launch the dispatcher holds (R351–R359). -/
structure Launch where
  id : Nat
  mailbox : Nat
  tag : BitVec 32
  record : LaunchRecord
  state : LaunchState := .waiting
  /-- the cycle it became WAITING or SUSPENDED -/
  since : Nat := 0
  /-- the cycle of its latest start -/
  started : Nat := 0
  refused : Bool := false
  /-- CAUSE and DETAIL of its STATUS (R353) -/
  cause : Nat := 0
  detail : Nat := 0
  /-- SUPIMG as it was when the launch was placed (R358) -/
  supimg : Nat := 0
  /-- cores by TINDEX, while placed -/
  members : List Nat := []
  /-- the grove of each member when last placed, by TINDEX -/
  groves : List Nat := []
  bucket : Option Nat := none
  /-- it has run before and is restored from its save areas -/
  saved : Bool := false
  /-- what the device keeps of each member beside its image, by TINDEX, while the team is suspended -/
  kept : List KeptMember := []
  /-- cores held for it, which a pre-emption has freed (R357) -/
  held : List Nat := []
  deriving DecidableEq, Repr, Inhabited

/-- A pre-emption under way (R295–R297, R357): the victim, the launch it makes room for, whether it has become hard,
and whether the transfer has begun. -/
structure Preemption where
  victim : Nat
  winner : Nat
  since : Nat
  hard : Bool
  saving : Bool := false
  deriving DecidableEq, Repr, Inhabited

/-- A transfer of a save image by SAVEC or RESTC (R124): the core, and the area. -/
structure SaveTransfer where
  core : Nat
  restore : Bool
  area : Nat
  deriving DecidableEq, Repr, Inhabited

/-! ### Fabric -/

/-- A Utdel packet (R363, R367). -/
inductive Packet where
  /-- an access from device `src`, operation `op` of its core `core` -/
  | access (src core op : Nat) (ask : RemoteAsk)
  /-- the answer to operation `op` of a core of this device: whether it was performed, the bytes or old value read, and what the
  destination reports (R363) -/
  | answer (op : Nat) (done : Bool) (data : List Byte) (error : Option TrapInfo)
  /-- the acknowledgement of a contribution packet: the device that gives it, its session, group and operation number -/
  | accepted (src session group num : Nat)
  /-- a contribution packet: its device, header fields of R367, the bytes of its runs; `whole` is false for a malformed header -/
  | contribution (src session group num sender : Nat) (wire : ElemCode) (spn first runs counter : Nat) (data : List Byte) (whole : Bool)
  deriving DecidableEq, Repr, Inhabited

/-- Where a frame goes (R361, R362): the port, and, for one in a datagram of a tunnel, the addresses and UDP ports on it. -/
structure Path where
  port : Nat
  tunnel : Bool := false
  localAddr : Nat := 0
  peerAddr : Nat := 0
  localUdp : Nat := 0
  peerUdp : Nat := 0
  deriving DecidableEq, Repr, Inhabited

/-- A frame that arrives on a link: its sequence number, whether it comes as a fragment of a datagram, whether it passes
authentication, whether its header is well formed, and what it carries (R361, R370). -/
structure Frame where
  link : Nat
  seq : Nat
  fragment : Bool := false
  authentic : Bool
  wellFormed : Bool
  packet : Packet
  deriving DecidableEq, Repr, Inhabited

/-- A port in native mode (0–15), a tunnel (64 + t), the link of an archive chip (128 + its number) or the bridge (140) (R330, R361,
R362, R369, R377). -/
structure Link where
  num : Nat
  up : Bool := false
  /-- the port that it came up on: while a tunnel is up on a port, the port is in tunnel mode (R361) -/
  port : Nat := 0
  /-- frames sent under the present session key, and its number of rekeyings -/
  frames : Nat := 0
  rekeys : Nat := 0
  /-- frames that have reached it and wait to be received (R361) -/
  arrived : List Frame := []
  /-- flits that failed their CRC in a row (R377) -/
  crcFails : Nat := 0
  /-- next sequence number to deliver, frames that came ahead of it -/
  expect : Nat := 0
  ahead : List Frame := []
  /-- next sequence number to send; frames not yet acknowledged and when each was last sent -/
  nextSeq : Nat := 0
  unacked : List (Nat × Nat × Packet) := []
  retries : Nat := 0
  deriving DecidableEq, Repr, Inhabited

/-- GSTATE of a group (R364). -/
inductive GroupState where
  | closed | opening | open | failed
  deriving DecidableEq, Repr, Inhabited

/-- A group the device has opened at least once (R344, R364–R366). -/
structure Group where
  num : Nat
  m : Nat := 0
  spn : Nat := 0
  members : List Nat := []
  self : Nat := 0
  session : Nat := 0
  state : GroupState := .closed
  cause : Nat := 0
  next : Nat := 0
  /-- operation numbers issued here that have completed above L -/
  retired : List Nat := []
  low : Nat := 0
  closing : Bool := false
  openedAt : Nat := 0
  /-- packets held until the operation issues, or until the open ends (R347) -/
  held : List Packet := []
  /-- packets sent in this session: the counter of the next (R367 bytes 24–31) -/
  sent : Nat := 0
  /-- the opening under way follows the session's last number, and collectives wait for it (R366) -/
  reopens : Bool := false
  deriving DecidableEq, Repr, Inhabited

/-- The fabric drop counters (R348, R370). -/
structure Drops where
  late : Nat := 0
  ahead : Nat := 0
  dup : Nat := 0
  sess : Nat := 0
  auth : Nat := 0
  deriving DecidableEq, Repr, Inhabited

/-! ### Host -/

/-- A window of the host port (R371). -/
inductive HostWindow where
  | bar0 | hdm
  deriving DecidableEq, Repr, Inhabited

/-- What the host asks of the device (R371): bytes by their offset in a window, and, once the request is in, by their keys in
`State.mem`. -/
inductive HostAsk where
  | read (key len : Nat)
  | write (key : Nat) (data : List Byte)
  | atomicOp (key size : Nat) (op : AtomOp) (v x : Word)
  deriving DecidableEq, Repr, Inhabited

/-- What reaches the device from outside. -/
inductive Input where
  | host (window : HostWindow) (ask : HostAsk)
  /-- the processors of the host store to the host's own memory (R372) -/
  | hostStore (addr : Nat) (data : List Byte)
  /-- the host completes the request of operation `op` with an error (R372) -/
  | hostError (op : Nat)
  | frame (f : Frame)
  /-- a tunnel's peer acknowledges a frame (R361) -/
  | frameAck (link seq : Nat)
  /-- a flit passes its CRC on a link (R377) -/
  | flit (link : Nat)
  /-- the steps of 256 MiB that firmware is to set aside for the digest table of each die (R200) -/
  | tableSteps (n : Nat)
  /-- a signature of the agreement that opens a group fails (R365, R369) -/
  | signatureFails (group : Nat)
  /-- an uncorrectable error strikes the protected unit that holds this key (R381) -/
  | strike (key : Nat)
  /-- an uncorrectable error strikes a register, a queue entry or an instruction word of a core (R377, R381) -/
  | strikeUnit (core : Nat) (unit : RegUnit)
  /-- an uncorrectable error strikes a digest entry: one copy of its version, or both (R215) -/
  | strikeEntry (region block : Nat) (both : Bool)
  /-- an uncorrectable error strikes an entry, counted from the head, of a load queue (0–3) or of an outcome queue (6 bqa, 7 bqx)
  of a core (R22, R377) -/
  | strikeQueue (core q place : Nat)
  /-- an uncorrectable error strikes a tile or an accumulator that the core's oldest started operation uses, or its residue
  check fails (R275, R377) -/
  | strikeMatrix (core : Nat) (residue : Bool)
  /-- the parity of a stream's control state, or of a translation entry that it uses, fails (R298, R377) -/
  | parity (core : Nat) (st : StreamId) (entry : Option Nat)
  /-- an uncorrectable error strikes the partial of a chip for a bag of an EMBAG, or for a KVATT (R322, R326) -/
  | strikePartial (op chip bag : Nat)
  /-- a sealed object's entry in a core's handle table is struck (R107) -/
  | strikeHandle (core h : Nat)
  /-- a tamper sensor raised the next alarm (R376) -/
  | tamper
  deriving DecidableEq, Repr

/-- What the device sends outside. -/
inductive Output where
  | msix (vector : Nat)
  | data (bytes : List Byte)
  /-- the answer to a host read that meets an uncorrectable unit (R381) -/
  | poisoned
  | unsupported
  /-- CXL.mem back-invalidate snoops: the first 64-byte line, how many (R110) -/
  | backInvalidate (line count : Nat)
  | frame (link seq : Nat) (path : Path) (p : Packet)
  /-- the acknowledgement of a tunnel's frame (R361) -/
  | frameAck (link seq : Nat)
  deriving DecidableEq, Repr

/-! ### The choices the spec leaves open -/

/-- Whose turn it is: a stream of a core, an event (seen from a core), the passing of cycles, or an arrival from outside. -/
inductive Turn where
  | stream (core : Nat) (st : StreamId)
  | event (core : Nat) (i : Instr)
  | time (cycles : Nat)
  | input (x : Input)
  deriving DecidableEq, Repr

/-! ### The device -/

/-- One module: the core in focus, the other cores, and everything the cores share. -/
structure State where
  core : Core
  others : List Core
  /-- the choices to come; empty: the default schedule (DESIGN CHOICE, log 1, 7) -/
  agenda : List Turn := []
  rotor : Nat := 0
  /-- device cycles since reset (R2) -/
  now : Nat := 0
  /-- the counter of free values (DESIGN CHOICE, log 4) -/
  fresh : Nat := 0
  /-- the next number of an operation, launch, slot or claim -/
  nextId : Nat := 1
  /-- all physical memory: CORE, GROVE, HWIN, NEAR, ARCH and HOST, by key (see Machine/Ops.lean) -/
  mem : List Host.Cell := []
  /-- first keys of the protected units marked uncorrectable (R381) -/
  poison : List Nat := []
  /-- the units of registers, queues and instruction memories marked uncorrectable (R381) -/
  marks : List RegMark := []
  syncclk : Word := 0
  flights : List Flight := []
  regions : List Region := []
  /-- digest entries that are not EMPTY at version 0: region, block -/
  entries : List ((Nat × Nat) × Entry) := []
  /-- race stamps that differ from reset, by granule (see Machine/Race.lean) -/
  stamps : List (Nat × Stamp) := []
  cache : List CacheSlot := []
  writeback : List CacheSlot := []
  watch : List WatchEntry := []
  arrivals : List Arrival := []
  migrations : List Migration := []
  echoes : List Echo := []
  claims : List Claim := []
  gathering : List Gather := []
  /-- the queues of the chips' units, in arrival order (R320) -/
  units : List UnitEntry := []
  launches : List Launch := []
  preemption : Option Preemption := none
  transfers : List SaveTransfer := []
  /-- crash records written to each core's slot since device reset (R294) -/
  crashes : List (Nat × Nat) := []
  /-- the last millisecond boundary that MILLISECOND_TICK has acted on (R356) -/
  lastTick : Nat := 0
  /-- something in this cycle calls for a decision pass, which ends the cycle (R356) -/
  passDue : Bool := false
  links : List Link := []
  /-- archive chips whose link to their die has failed (R330) -/
  deadChips : List Nat := []
  groups : List Group := []
  /-- what die 0's HWIN shows at 0xF_FC00 to 0xF_FC27 as each last changed (R348, R370) -/
  drops : Drops := {}
  /-- the steps of 256 MiB that firmware sets aside on each die for the digest table (R200) -/
  tableSteps : Nat := 16
  /-- packets delivered by the links and not yet acted on -/
  inbox : List Packet := []
  hostIn : List HostAsk := []
  /-- operations whose host request was completed with an error (R372) -/
  hostErrors : List Nat := []
  outputs : List Output := []
  /-- devid (R99): this device's number -/
  devid : Nat := 0
  /-- PHASE, BOOTERR, IDGONE, ALARMS, CMAP, RET0, RET1 (R374) -/
  phase : Nat := 0
  bootErr : Nat := 0
  idGone : Bool := false
  alarms : Nat := 0
  lastAlarm : Nat := 0
  tamperNext : Bool := false
  cmap : Nat := 0
  ret0 : Nat := 0
  ret1 : Nat := 0
  /-- ECNT.CORR (R374) -/
  corr : Word := 0
  /-- device cycles before the last device reset -/
  epoch : Nat := 0
  /-- channels that have failed: channel, and when, counted over resets; channels whose retirement is under way or pending (R378) -/
  failures : List (Nat × Nat) := []
  retiring : List Nat := []
  /-- channels that have been retired (R378) -/
  retired : List Nat := []
  /-- the buffer of the attestation report that is being written: its NEAR address (R375) -/
  attesting : Option Nat := none
  /-- control-state parity errors not yet reported: core, stream, the cycle each struck in (R377) -/
  parity : List (Nat × StreamId × Nat) := []
  deriving DecidableEq, Repr

/-- A core after device reset (R373): every register at the value the spec gives, the others at the values that log 3 names. -/
def Core.reset (n : Nat) : Core := { num := n }

/-- The machine right after device reset (R373): no core in a launch, PHASE 0, nothing in memory. -/
def State.reset : State :=
  { core := Core.reset 0
    others := (List.range 159).map (fun n => Core.reset (n + 1)) }

/-! ### Faults and refusals -/

/-- Where the machine stops with no next state. -/
inductive Fault where
  /-- Raised by HOST_MEMORY_REQUEST for bytes outside BAR0 and the HDM range (R371): the spec gives the
  device no such bytes. Safe: no claim about a next state can follow. -/
  | noSuchByte (key : Nat)
  deriving DecidableEq, Repr

/-- Where the model has no meaning to give. -/
inductive Refusal where
  /-- Raised by an arm of Machine/Dispatch.lean whose instruction has no meaning yet. Safe. -/
  | notModelled (mnemonic : String)
  deriving DecidableEq, Repr

end Sys2Proof.Machine
end

