-- ==== Sys2Proof/Machine/Ops.lean ====
section
/-! DEFINITION. The named operations over memory, registers and streams: bytes, sync fields, retirement, loops, branches,
taking a trap and returning from one. -/
namespace Sys2Proof.Machine

/-! ### Bits and bytes -/

/-- Bits [lo + w − 1 : lo] of a word. -/
def bits (x : Word) (lo w : Nat) : Nat := (x.toNat >>> lo) % 2 ^ w

/-- SEXT of R7 to 64 bits. -/
def sext {n : Nat} (x : BitVec n) : Word := x.signExtend 64

/-- ZEXT of R7 to 64 bits. -/
def zext {n : Nat} (x : BitVec n) : Word := x.setWidth 64

/-- 1 or 0. -/
def ofBool (b : Bool) : Word := if b then 1 else 0

/-- The little-endian value of a byte list (R5). -/
def leNat : List Byte → Nat
  | [] => 0
  | b :: r => b.toNat + 256 * leNat r

/-- The `n` low bytes of a value, little-endian (R5). -/
def leBytes : Nat → Nat → List Byte
  | 0, _ => []
  | n + 1, x => BitVec.ofNat 8 x :: leBytes n (x / 256)

/-- The bytes of a vector or queue entry, lane 0 first (R175). -/
def vecBytes (v : Vec) : List Byte := v.toList.flatMap (fun l => leBytes 4 l.toNat)

/-- Groups of `n` bytes. -/
def chunks : Nat → Nat → List Byte → List (List Byte)
  | 0, _, _ => []
  | fuel + 1, n, l => if l.isEmpty then [] else l.take n :: chunks fuel n (l.drop n)

/-- 64 lanes from a list; missing lanes are zero. -/
def vecOfLanes (l : List Lane) : Vec := Vector.ofFn (fun i => l.getD i.val 0)

/-- 64 lanes from up to 256 bytes in memory order; missing bytes are zero. -/
def vecOfBytes (l : List Byte) : Vec := vecOfLanes ((chunks 64 4 l).map (fun c => BitVec.ofNat 32 (leNat c)))

/-- The bound of a command in cycles (R39). -/
def boundCycles (wd : BitVec 16) : Nat := if wd = 0 then 256 * 65536 else 256 * wd.toNat

/-! ### Memory

One list holds every byte that differs from 0 (DESIGN CHOICE, log 5), at these keys:
core store of core c at c × 2^21; grove SRAM of module-wide grove g at 2^40 + g × 2^24; host window of die d at
2^41 + d × 2^20; NEAR at 2^42; ARCH at 2^43; host memory at 2^64. Keys from 2^80 stand for virtual addresses at other
devices. -/

def coreKey (c off : Nat) : Nat := c * 2 ^ 21 + off
def groveKey (g off : Nat) : Nat := 2 ^ 40 + g * 2 ^ 24 + off
def hwinKey (d off : Nat) : Nat := 2 ^ 41 + d * 2 ^ 20 + off
def nearKey (a : Nat) : Nat := 2 ^ 42 + a
def archKey (a : Nat) : Nat := 2 ^ 43 + a
def hostKey (a : Nat) : Nat := 2 ^ 64 + a
/-- A place at another device: no byte of this one. -/
def remoteKey (a : Nat) : Nat := 2 ^ 80 + a

/-- The SPACE code (R104) of the byte at a key. -/
def spaceOfKey (k : Nat) : Nat :=
  if k < 2 ^ 40 then 0 else if k < 2 ^ 41 then 1 else if k < 2 ^ 42 then 6 else if k < 2 ^ 43 then 2
  else if k < 2 ^ 64 then 3 else if k < 2 ^ 80 then 5 else 4

/-- Bytes of NEAR under one die (R3, R4, R49). -/
def nearPerDie : Nat := 96 * 10 ^ 9
/-- Bytes of ARCH under one die (R4, R49). -/
def archPerDie : Nat := 768 * 10 ^ 9
/-- Bytes of a core store (R49). -/
def coreBytes : Nat := 1572864
/-- Bytes of a grove SRAM (R49). -/
def groveBytes : Nat := 12582912

/-- The die that owns the byte at a key of NEAR, ARCH, GROVE, HWIN or CORE (R13, R305). -/
def dieOfKey (k : Nat) : Nat :=
  match spaceOfKey k with
  | 0 => k / 2 ^ 21 / 80
  | 1 => (k - 2 ^ 40) / 2 ^ 24 / 10
  | 6 => (k - 2 ^ 41) / 2 ^ 20
  | 2 => (k - 2 ^ 42) / nearPerDie
  | 3 => (k - 2 ^ 43) / archPerDie
  | _ => 0

/-- One byte of a memory; an unlisted address reads 0 (DESIGN CHOICE, log 5). -/
def Memory.get : List Host.Cell → Nat → Byte
  | [], _ => 0
  | (a, b) :: r, k => if a = k then b else Memory.get r k

/-- Write one byte, keeping addresses strictly rising and listing no zero. -/
def Memory.set : List Host.Cell → Nat → Byte → List Host.Cell
  | [], k, v => if v = 0 then [] else [(k, v)]
  | (a, b) :: r, k, v =>
    if k < a then (if v = 0 then (a, b) :: r else (k, v) :: (a, b) :: r)
    else if k = a then (if v = 0 then r else (k, v) :: r)
    else (a, b) :: Memory.set r k v

/-- Every address above `lo`, strictly rising, and no zero listed. -/
def Memory.wfFrom : Option Nat → List Host.Cell → Bool
  | _, [] => true
  | lo, (a, b) :: r => (match lo with | none => true | some l => decide (l < a)) && b != 0 && Memory.wfFrom (some a) r

/-- The canonical form of a memory: addresses strictly rising, no entry equal to what an unlisted address reads as. -/
def Memory.wf (m : List Host.Cell) : Bool := Memory.wfFrom none m

/-- Write consecutive bytes. -/
def Memory.setAll (m : List Host.Cell) (k : Nat) : List Byte → List Host.Cell
  | [] => m
  | b :: r => Memory.setAll (Memory.set m k b) (k + 1) r

/-- Give consecutive bytes new values at once: what the list holds below and above them stays. -/
def Memory.replace (m : List Host.Cell) (k : Nat) (l : List Byte) : List Host.Cell :=
  m.filter (fun c => decide (c.1 < k)) ++ ((l.zipIdx.map (fun p => (k + p.2, p.1))).filter (fun c => c.2 != 0)) ++
    m.filter (fun c => decide (k + l.length ≤ c.1))

/-- `n` consecutive bytes. -/
def Memory.getAll (m : List Host.Cell) (k n : Nat) : List Byte := (List.range n).map (fun i => Memory.get m (k + i))

/-- Read bytes of the module at a key. -/
def State.bytes (s : State) (key n : Nat) : List Byte := Memory.getAll s.mem key n

/-- A little-endian value of the module's memory. -/
def State.word (s : State) (key n : Nat) : Nat := leNat (s.bytes key n)

/-- The first key of the protected unit that holds a byte: 64 bits for SRAM, 32 bytes for NEAR and ARCH (R381). -/
def unitOf (k : Nat) : Nat :=
  match spaceOfKey k with
  | 2 | 3 => k - (k - 2 ^ 42) % 32
  | _ => k - k % 8

/-- Bytes in the protected unit of a key (R381). -/
def unitBytes (k : Nat) : Nat :=
  match spaceOfKey k with
  | 2 | 3 => 32
  | _ => 8

/-- The chip that holds an ARCH byte (R317). -/
def chipOf (key : Nat) : Nat :=
  let o := key - archKey 0
  6 * (o / archPerDie) + o % archPerDie / 1024 % 6

/-- Some of these bytes are behind an archive link that has failed (R330): a chip holds a run of 1,024 bytes in every six (R317). -/
def State.cutOff (s : State) (key n : Nat) : Bool :=
  spaceOfKey key == 3 && !s.deadChips.isEmpty &&
    ((key + n - 1) :: (List.range (n / 1024 + 1)).map (fun i => key + 1024 * i)).any (fun k => s.deadChips.contains (chipOf k))

/-- Whether a read of these bytes meets an uncorrectable unit (R381). -/
def State.poisoned (s : State) (key n : Nat) : Bool :=
  s.poison.any (fun u => decide (u < key + n) && decide (key < u + unitBytes u)) || s.cutOff key n

/-- taux0 of ECC_UNCORRECTABLE for the memory that holds a key (R287). -/
def eccUnit (key : Nat) : Word :=
  match spaceOfKey key with
  | 0 => 0
  | 1 => 1
  | 2 => 2
  | 3 => 3
  | 5 => 8
  | _ => 4

/-- Commit bytes at a key: a unit that the write covers whole reads correctly from then on (R381). -/
def State.store (s : State) (key : Nat) (data : List Byte) : State :=
  { s with
    mem := Memory.setAll s.mem key data
    poison := s.poison.filter (fun u => !(decide (key ≤ u) && decide (u + unitBytes u ≤ key + data.length))) }

/-- A unit is covered whole by some writes. -/
def coversUnit (w : List (Nat × List Byte)) (u : Nat) : Bool :=
  (List.range (unitBytes u)).all (fun i => w.any (fun p => decide (p.1 ≤ u + i) && decide (u + i < p.1 + p.2.length)))

/-- Commit the bytes of one commit step: a unit that they cover whole together reads correctly from then on (R381). -/
def State.storeAll (s : State) (w : List (Nat × List Byte)) : State :=
  { s with mem := w.foldl (fun m p => Memory.setAll m p.1 p.2) s.mem, poison := s.poison.filter (fun u => !coversUnit w u) }

/-! ### Registers (R16) -/

/-- A register of a file whose register 0 reads zero. -/
def readReg (f : Vector Word 32) (r : Reg) : Word := if r = 0 then 0 else f[r]

/-- A write to a register file whose register 0 discards writes. -/
def writeReg (f : Vector Word 32) (r : Reg) (x : Word) : Vector Word 32 := if r = 0 then f else f.set r x

def State.rs (s : State) (r : Reg) : Word := readReg s.core.sregs r
def State.ra (s : State) (r : Reg) : Word := readReg s.core.aregs r
def State.rx (s : State) (r : Reg) : Word := readReg s.core.xregs r
/-- Replace the core in focus. -/
def State.setCore (s : State) (k : Core) : State := { s with core := k }
def State.ws (s : State) (r : Reg) (x : Word) : State := s.setCore { s.core with sregs := writeReg s.core.sregs r x }
def State.wa (s : State) (r : Reg) (x : Word) : State := s.setCore { s.core with aregs := writeReg s.core.aregs r x }
def State.wx (s : State) (r : Reg) (x : Word) : State := s.setCore { s.core with xregs := writeReg s.core.xregs r x }
/-- p0 reads all-true (R16). -/
def State.rp (s : State) (r : PReg) : Word := if r = 0 then BitVec.allOnes 64 else s.core.p[r]
/-- Writes to p0 are discarded (R16). -/
def State.wp (s : State) (r : PReg) (x : Word) : State :=
  if r = 0 then s else s.setCore { s.core with p := s.core.p.set r x }
def State.rv (s : State) (r : VReg) : Vec := s.core.v[r]
def State.wv (s : State) (r : VReg) (x : Vec) : State := s.setCore { s.core with v := s.core.v.set r x }
def State.wflag (s : State) (r : CFlag) (x : Bool) : State := s.setCore { s.core with flags := s.core.flags.set r x }

/-! ### The cores -/

/-- The core with a module-wide number, if it is not in focus. -/
def State.other? (s : State) (n : Nat) : Option Core := s.others.find? (fun k => k.num == n)

/-- A core of the module by its number; the core in focus if the number names none. -/
def State.coreAt (s : State) (n : Nat) : Core := if s.core.num = n then s.core else (s.other? n).getD s.core

/-- Replace the core that has this number. -/
def State.putCore (s : State) (k : Core) : State :=
  if s.core.num = k.num then { s with core := k }
  else { s with others := s.others.map (fun q => if q.num = k.num then k else q) }

/-- Change the core with a number. -/
def State.onCore (s : State) (n : Nat) (f : Core → Core) : State :=
  if s.core.num = n then { s with core := f s.core }
  else { s with others := s.others.map (fun q => if q.num = n then f q else q) }

/-- Change every core. -/
def State.onCores (s : State) (f : Core → Core) : State := { s with core := f s.core, others := s.others.map f }

/-- All cores in ascending module-wide number (R13). -/
def State.cores (s : State) : List Core :=
  (s.others.filter (fun k => k.num < s.core.num)) ++ s.core :: (s.others.filter (fun k => s.core.num < k.num))

/-- Put the core with this number in focus. -/
def State.focus (s : State) (n : Nat) : State :=
  if s.core.num = n then s
  else match s.other? n with
    | none => s
    | some k => { s with core := k, others := s.others.map (fun q => if q.num = n then s.core else q) }

/-- The module-wide grove number of a core (R13, R305). -/
def groveOf (n : Nat) : Nat := n / 8
/-- The die of a core (R13). -/
def dieOf (n : Nat) : Nat := n / 80

/-! ### The sync clock (R232) -/

/-- The release effect on a core: the clock advances and lastrel takes the new value; the unpublished flag is cleared. -/
def State.release (s : State) (n : Nat) : State :=
  let clk := s.syncclk + 1
  { s with syncclk := clk }.onCore n (fun k => { k with lastrel := clk, unpublished := false })

/-- The release effect for a core that no longer takes part: the clock alone advances (DEDUCED, log 217). -/
def State.releaseClock (s : State) : State := { s with syncclk := s.syncclk + 1 }

/-- The acquire effect on a core. -/
def State.acquire (s : State) (n : Nat) : State := s.onCore n (fun k => { k with lastacq := s.syncclk })

/-- The registers, queues and instruction memories of a core are written whole, but for some units. -/
def State.remark (s : State) (n : Nat) (left : List RegUnit) : State :=
  { s with marks := s.marks.filter (fun m => m.core != n) ++ left.map (⟨n, ·⟩) }

/-! ### Streams -/

def State.stream (s : State) : StreamId → StreamState
  | .C => s.core.c
  | .A => s.core.a
  | .X => s.core.x

def Core.withStream (k : Core) (st : StreamId) (v : StreamState) : Core :=
  match st with
  | .C => { k with c := v }
  | .A => { k with a := v }
  | .X => { k with x := v }

def Core.stream (k : Core) : StreamId → StreamState
  | .C => k.c
  | .A => k.a
  | .X => k.x

def State.setStream (s : State) (st : StreamId) (v : StreamState) : State := s.setCore (s.core.withStream st v)

/-- The watchdog bound of a stream (R37). -/
def Core.wd (k : Core) : StreamId → Word
  | .C => k.wdc
  | .A => k.wda
  | .X => k.wdx

/-- cstat.DEPTH (R100). -/
def Core.depth (k : Core) : Nat := k.banks.length

/-- Supervisor mode: DEPTH is 0 exactly in user mode (R90, R118). -/
def Core.sup (k : Core) : Bool := k.banks.length != 0

/-- Bytes of a stream's instruction memory (R15). -/
def imemBytes : StreamId → Nat
  | .C => 65536
  | .A => 65536
  | .X => 131072

def Core.imem (k : Core) : StreamId → List Host.Cell
  | .C => k.imemC
  | .A => k.imemA
  | .X => k.imemX

/-- Bytes of a stream's word (R15). -/
def wordSize : StreamId → Nat
  | .C => 4
  | _ => 8

/-- The word at a byte offset of a stream's instruction memory. -/
def Core.wordAt (k : Core) (st : StreamId) (pc : Nat) : Nat := leNat (Memory.getAll (k.imem st) pc (wordSize st))

/-- The extension word of an X-stream word with EXT set (R18, R81), else 0. -/
def Core.extAt (k : Core) (st : StreamId) (pc : Nat) : Nat :=
  if extBit st (k.wordAt st pc) then leNat (Memory.getAll (k.imem st) (pc + 8) 8) else 0

/-- Bytes of the instruction at a byte offset (R18, R81). -/
def Core.lengthAt (k : Core) (st : StreamId) (pc : Nat) : Nat := wordBytes st (k.wordAt st pc)

/-! ### Tokens (R24–R27) -/

/-- The left and the right neighbour of a stream (R24). -/
def leftOf : StreamId → StreamId
  | .C => .A
  | .A => .C
  | .X => .C
def rightOf : StreamId → StreamId
  | .C => .X
  | .A => .X
  | .X => .A

/-- The number of the counter from one stream to another: 0 kca, 1 kcx, 2 kac, 3 kax, 4 kxc, 5 kxa (R25, R288). -/
def counter : StreamId → StreamId → Fin 6
  | .C, .A => 0
  | .C, .X => 1
  | .A, .C => 2
  | .A, .X => 3
  | .X, .C => 4
  | .X, .A => 5
  | _, _ => 0

def Core.tokensOf (k : Core) (src dst : StreamId) : Nat := k.tokens[counter src dst]

def Core.addTokens (k : Core) (src dst : StreamId) (n : Nat) : Core :=
  { k with tokens := k.tokens.set (counter src dst) (k.tokens[counter src dst] + n) }

def Core.takeTokens (k : Core) (src dst : StreamId) (n : Nat) : Core :=
  { k with tokens := k.tokens.set (counter src dst) (k.tokens[counter src dst] - n) }

/-- WL and WR can be satisfied together (R27). -/
def Core.tokensReady (k : Core) (st : StreamId) (y : BitVec 4) : Bool :=
  (!y.getLsbD 3 || decide (0 < k.tokensOf (leftOf st) st)) && (!y.getLsbD 2 || decide (0 < k.tokensOf (rightOf st) st))

/-- Take the tokens of WL and WR (R27). -/
def Core.takeSync (k : Core) (st : StreamId) (y : BitVec 4) : Core :=
  let k := if y.getLsbD 3 then k.takeTokens (leftOf st) st 1 else k
  if y.getLsbD 2 then k.takeTokens (rightOf st) st 1 else k

/-- Room for the signals SL ([1]) and SR ([0]) (R27). -/
def Core.signalRoom (k : Core) (st : StreamId) (sig : BitVec 2) : Bool :=
  (!sig.getLsbD 1 || decide (k.tokensOf st (leftOf st) < 255)) && (!sig.getLsbD 0 || decide (k.tokensOf st (rightOf st) < 255))

/-- Give the signals SL and SR (R27). -/
def Core.giveSync (k : Core) (st : StreamId) (sig : BitVec 2) : Core :=
  let k := if sig.getLsbD 1 then k.addTokens st (leftOf st) 1 else k
  if sig.getLsbD 0 then k.addTokens st (rightOf st) 1 else k

/-- The counters that signals wait for room in (R27, R111): counter number and how many. -/
def signalWant (st : StreamId) (sig : BitVec 2) : List (Nat × Nat) :=
  (if sig.getLsbD 1 then [((counter st (leftOf st)).val, 1)] else []) ++
    (if sig.getLsbD 0 then [((counter st (rightOf st)).val, 1)] else [])

/-! ### Loops and branches (R55–R57) -/

/-- R56: what follows when the instruction at `pc` retires without a taken branch; `next` is the following instruction. -/
def loopStep (pc next : Word) : List LoopEntry → Word × List LoopEntry
  | [] => (next, [])
  | e :: rest =>
    if e.stop = pc then
      if e.remaining - 1 ≠ 0 then (e.start, { e with remaining := e.remaining - 1 } :: rest)
      else loopStep pc next rest
    else (next, e :: rest)

/-- The body of a loop holds this address: from its start to the first word of its last instruction. A target on the extension
word of that instruction counts as outside (DESIGN CHOICE, log 211). -/
def LoopEntry.holds (e : LoopEntry) (a : Word) : Bool := decide (e.start ≤ a) && decide (a ≤ e.stop)

/-- R57: the loop stack after a branch at `pc` to `target` is taken. -/
def branchLoops (pc target : Word) (l : List LoopEntry) : List LoopEntry :=
  (match l with
   | [] => []
   | e :: rest => if e.stop = pc then rest else e :: rest).dropWhile (fun e => !e.holds target)

/-- R17: a target is a multiple of the word size inside the instruction memory. -/
def targetOk (st : StreamId) (t : Word) : Bool :=
  decide (t.toNat % wordSize st = 0) && decide (t.toNat < imemBytes st)

/-! ### What an instruction does -/

/-- The result of an instruction's body: it retires; it retires by a taken branch; it retires and continues at a place with
a loop stack (LOOP); it blocks; it raises a trap, having done nothing; it raises
a deferred report, which is then no longer owed (R128); it retires and raises a trap (TRAP, R117); it ends its
stream; or it has set the streams itself (RTT). -/
inductive Act where
  | retire (s : State)
  | jump (s : State) (target : Word)
  | goTo (s : State) (pc : Word) (loops : List LoopEntry)
  | block (s : State) (w : Wait)
  | raise (t : TrapInfo)
  | report (s : State) (t : TrapInfo)
  | retireRaise (s : State) (t : TrapInfo)
  | finish (s : State)
  | leave (s : State)

/-- Raise a trap at a stream (R289): the first is recorded and its stream is the origin, stopped with STOP 1, or with STOP 2 in
the wait for room to give the signals it owes (R27, R290); a stream that would trap while another trap awaits delivery stops
before its instruction, with STOP 4. -/
def raiseTrap (st : StreamId) (s : State) (t : TrapInfo) : State :=
  match s.core.pending with
  | none =>
    let stop := if (s.stream st).psig = 0 then 1 else 2
    let s := s.setStream st { s.stream st with status := .stopped stop, awaited := none, woken := false, counted := false, pages := [], held := false }
    s.setCore { s.core with pending := some ⟨st, s.now, t⟩ }
  | some _ => s.setStream st { s.stream st with
      status := .stopped 4, awaited := none, woken := false, counted := false, pages := [], held := false }

/-- A stream whose wait or stop has ended runs: it may execute its next instruction from now on (log 232). -/
def StreamState.run (v : StreamState) (now : Nat) : StreamState := { v with status := .running, ready := max v.ready now }

/-- Begin, or go on with, a blocking wait: a wait that goes on keeps the cycle it began in (R38). -/
def blockOn (st : StreamId) (s : State) (w : Wait) : State :=
  let v := s.stream st
  let since := match v.status with
    | .waiting w' t => if w' = w then t else s.now
    | _ => s.now
  s.setStream st { v with status := .waiting w since }

/-- Leave the instruction at pc for `next` with a loop stack: its waits are over, and its signals are given or, without
room, owed (R27). -/
def moveTo (st : StreamId) (y : BitVec 4) (s : State) (next : Word) (loops : List LoopEntry) : State :=
  let sig := y.setWidth 2
  let v := { s.stream st with
    pc := next, loops := loops, waited := false, awaited := none, woken := false, counted := false, pages := [], held := false
    status := .running }
  if s.core.signalRoom st sig then (s.setStream st v).setCore ((s.setStream st v).core.giveSync st sig)
  else s.setStream st { v with psig := sig, status := .waiting (.room (signalWant st sig)) s.now }

/-- Where a stream goes on when the instruction at pc retires without a taken branch: the following instruction under R56,
or the end of a BX transfer after its second slot (R58). -/
def afterRetire (st : StreamId) (s : State) : Word × List LoopEntry × Option BxPending :=
  let v := s.stream st
  let next := v.pc + BitVec.ofNat 64 (s.core.lengthAt st v.pc.toNat)
  match v.bx with
  | none => let r := loopStep v.pc next v.loops; (r.1, r.2, none)
  | some b =>
    if b.slots ≤ 1 then
      if b.taken then (b.target, branchLoops v.pc b.target v.loops, none)
      else let r := loopStep v.pc next v.loops; (r.1, r.2, none)
    else let r := loopStep v.pc next v.loops; (r.1, r.2, some { b with slots := b.slots - 1 })

/-- The instruction at pc retires without a taken branch (R28, R56). -/
def retireAt (st : StreamId) (y : BitVec 4) (s : State) : State :=
  let r := afterRetire st s
  moveTo st y (s.setStream st { s.stream st with bx := r.2.2 }) r.1 r.2.1

/-- The instruction word at pc, zero-extended, and its extension word: taux0 and taux1 of ILLEGAL, ILLEGAL_SEQUENCE and
PRIV (R287). -/
def wordTrap (st : StreamId) (s : State) (c : Cause) : TrapInfo :=
  { cause := c, aux0 := BitVec.ofNat 64 (s.core.wordAt st (s.stream st).pc.toNat),
    aux1 := BitVec.ofNat 64 (s.core.extAt st (s.stream st).pc.toNat) }

def illegal (st : StreamId) (s : State) : TrapInfo := wordTrap st s .illegal
def illegalSequence (st : StreamId) (s : State) : TrapInfo := wordTrap st s .illegalSequence
def privTrap (st : StreamId) (s : State) : TrapInfo := wordTrap st s .priv

/-- A core's three streams have ended: the member's part of its launch is over (R12). -/
def Core.over (k : Core) : Bool := k.c.status == .ended && k.a.status == .ended && k.x.status == .ended

/-- The end of a stream (R12, R119). A member that ends with writes or reads unpublished makes a release (R232). -/
def endStream (st : StreamId) (s : State) : State :=
  let t := s.setStream st { s.stream st with status := .ended, waited := false, awaited := none, woken := false, counted := false, pages := [], held := false }
  if t.core.over && t.core.unpublished then t.release t.core.num else t

/-- Carry out what the body of an instruction of stream `st` with sync field `y` answered. A TRAP that is the last instruction of
an active loop performs that loop's step of R56 as it raises (DEDUCED, log 212). -/
def settle (st : StreamId) (y : BitVec 4) (s : State) : Act → State
  | .retire t => retireAt st y t
  | .jump t target =>
    if targetOk st target then moveTo st y t target (branchLoops (t.stream st).pc target (t.stream st).loops)
    else raiseTrap st s (illegal st s)
  | .goTo t pc loops => moveTo st y t pc loops
  | .block t w => blockOn st t w
  | .raise i => raiseTrap st s i
  | .report t i => raiseTrap st (if s.core.pending.isNone then t else s) i
  | .retireRaise t i => raiseTrap st (if s.core.pending.isNone then retireAt st y t else s) i
  | .finish t => endStream st (t.setCore (t.core.giveSync st (y.setWidth 2)))
  | .leave t => t

/-- The tokens that the sync field `y` of the instruction at pc asks for are there, or have been taken (R27). -/
def syncReady (st : StreamId) (y : BitVec 4) (s : State) : Bool := (s.stream st).waited || s.core.tokensReady st y

/-- The state in which the body of an instruction with sync field `y` acts: its tokens are taken, unless it has them (R27). -/
def synced (st : StreamId) (y : BitVec 4) (s : State) : State :=
  if (s.stream st).waited then s
  else
    let t := s.setCore (s.core.takeSync st y)
    t.setStream st { t.stream st with waited := y.getLsbD 3 || y.getLsbD 2 }

/-- The instruction with sync field `y` starts in stream `st`: it takes its tokens, or waits for them, and its body acts
(R27). The checks of the body, step 4 of R63 and the unlisted numbers of R98 among them, come after the tokens, which a trap
leaves taken (DEDUCED, log 213). -/
def issue (st : StreamId) (y : BitVec 4) (s : State) (body : State → Act) : Host.Outcome State Fault Refusal :=
  if syncReady st y s then .next (settle st y (synced st y s) (body (synced st y s)))
  else .next (blockOn st s (.tokens (y.getLsbD 3) (y.getLsbD 2)))

/-- An instruction that gives its signals as it takes effect, so that room for them is waited for first: TRAP (R117), and
END and HALT, after which no instruction of the stream follows (DEDUCED, log 12). -/
def whenRoom (st : StreamId) (y : BitVec 4) (s : State) (act : Act) : Act :=
  if s.core.signalRoom st (y.setWidth 2) then act else .block s (.room (signalWant st (y.setWidth 2)))

/-! ### Taking a trap and returning from one (R284–R293) -/

/-- The cause codes of R284. -/
def Cause.code : Cause → Nat
  | .illegal => 1 | .illegalSequence => 2 | .priv => 3 | .programAddress => 4 | .pageAbsent => 5 | .permission => 6
  | .race => 7 | .watchdog => 8 | .fqUnderflow => 9 | .shapeMismatch => 10 | .fpOverflow => 11 | .padOverflow => 12
  | .sealFail => 13 | .tapeFull => 14 | .tapeKind => 15 | .tapeEmpty => 16 | .eccUncorrectable => 17
  | .layoutStale => 18 | .trap => 19

/-- The cause of a code of R284. -/
def Cause.ofCode : Nat → Option Cause
  | 1 => some .illegal | 2 => some .illegalSequence | 3 => some .priv | 4 => some .programAddress
  | 5 => some .pageAbsent | 6 => some .permission | 7 => some .race | 8 => some .watchdog | 9 => some .fqUnderflow
  | 10 => some .shapeMismatch | 11 => some .fpOverflow | 12 => some .padOverflow | 13 => some .sealFail
  | 14 => some .tapeFull | 15 => some .tapeKind | 16 => some .tapeEmpty | 17 => some .eccUncorrectable
  | 18 => some .layoutStale | 19 => some .trap
  | _ => none

/-- SRC of tcause (R286). -/
def srcOf : StreamId → Nat
  | .C => 0
  | .A => 1
  | .X => 2

/-- A cause that RTT does not resume from (R284): PROGRAM_ADDRESS, unless an X-stream pop raised it, and LAYOUT_STALE. -/
def fatal (origin : StreamId) : Cause → Bool
  | .programAddress => origin != .X
  | .layoutStale => true
  | _ => false

/-- tcause (R286). -/
def tcauseWord (p : Pending) : Word :=
  BitVec.ofNat 64 (p.info.code.toNat <<< 48 + p.info.detail.toNat <<< 40 + srcOf p.origin <<< 10 +
    (if fatal p.origin p.info.cause then 256 else 0) + p.info.cause.code)

/-- The STOP code of R290 for where a stream stands. -/
def Status.stop : Status → Nat
  | .notStarted => 3
  | .running => 0
  | .waiting _ _ => 2
  | .stopped n => n
  | .ended => 3

/-- tpcc, tpca, tpcx (R286). The field PC has 17 bits: of a pc just past the X-stream's memory (R17) it holds 0 (DESIGN CHOICE, log 244). -/
def tpcWord (v : StreamState) : Word :=
  BitVec.ofNat 64 (v.psig.toNat <<< 24 + v.status.stop <<< 21 + (if v.bx.isSome then 1 <<< 19 else 0) +
    (if v.status.stop = 3 then 1 <<< 18 else 0) + (if v.waited then 1 <<< 17 else 0) + v.pc.toNat % 2 ^ 17)

/-- The bank that delivery fills (R292). At DEPTH = 1 the A- and X-stream show the values of bank 0. -/
def bankOf (s : State) (p : Pending) : TrapBank :=
  { tcause := tcauseWord p
    tpcc := tpcWord s.core.c
    tpca := match s.core.banks with | b :: _ => b.tpca | [] => tpcWord s.core.a
    tpcx := match s.core.banks with | b :: _ => b.tpcx | [] => tpcWord s.core.x
    taddr := p.info.addr, thnd := p.info.hnd, tissue := p.info.issue
    taux0 := p.info.aux0, taux1 := p.info.aux1, taux2 := p.info.aux2
    loopsC := s.core.c.loops, loopsA := s.core.a.loops, loopsX := s.core.x.loops, bx := s.core.x.bx
    woken := match s.core.c.status with | .waiting .wfe _ => true | _ => false }

/-- A stream of the A or X kind at the cut: its wait is abandoned, its STOP code stands (R290). -/
def StreamState.cut (v : StreamState) : StreamState :=
  { v with status := (if v.status.stop = 3 then v.status else .stopped v.status.stop), awaited := none, woken := false,
           counted := false, pages := [], held := false }

/-- What the delivery of a trap clears: the latch it reports (R275), or the error that a popped entry carries (R322). -/
def Core.clearReported (k : Core) (n : Nat) : Core :=
  if n = 0 then k
  else if n ≤ 4 then { k with latches := k.latches.set (Fin.ofNat 4 (n - 1)) none }
  else
    let i : Fin 4 := Fin.ofNat 4 (n - 5)
    { k with lq := k.lq.set i { k.lq[i] with items := k.lq[i].items.modify 0 (fun e => { e with error := none }) } }

/-- The record of a raised trap as it is delivered: an accumulator's latch has counted on until then (R275). -/
def Pending.atDelivery (p : Pending) (k : Core) : Pending :=
  if p.info.clears = 0 ∨ 4 < p.info.clears then p
  else match k.latches[Fin.ofNat 4 (p.info.clears - 1)] with
    | some l => { p with info := { p.info with aux1 := l.count } }
    | none => p

/-- Deliver the pending trap (R292) in the next bank: the cut is recorded, DEPTH grows, the C-stream runs at tvec in
supervisor mode, its loop stack empty (DESIGN CHOICE, log 210). A parked WAITA loses its watch entry (R156) and a waiting DBAR
its arrival (R42). -/
def deliverTrap (s : State) : State :=
  match s.core.pending with
  | none => s
  | some p =>
    let k := s.core.clearReported p.info.clears
    { s with
      watch := s.watch.filter (fun w => w.core != k.num)
      arrivals := s.arrivals.filter (fun w => w.core != k.num)
      core := { k with
        banks := k.banks ++ [bankOf s (p.atDelivery s.core)]
        pending := none
        c := { pc := k.tvec, status := .running, ready := s.now }
        a := if k.banks.isEmpty then k.a.cut else k.a
        x := if k.banks.isEmpty then k.x.cut else k.x } }

/-- What a trap bank restores of a stream (R286, R290, R293). -/
def restored (w : Word) (loops : List LoopEntry) (bx : Option BxPending) (st : StreamId) (now : Nat) : StreamState :=
  let psig := BitVec.ofNat 2 (bits w 24 2)
  { pc := BitVec.ofNat 64 (bits w 0 17)
    status := if bits w 18 1 = 1 then .ended
      else if psig ≠ 0 then .waiting (.room (signalWant st psig)) now else .running
    waited := bits w 17 1 = 1
    psig := psig
    loops := loops
    bx := bx
    ready := now }

/-- SKIP: the instruction at PC counts as retired without effect, its loop step and its BX slot are performed (R59, R293). -/
def skipAt (st : StreamId) (s : State) : State :=
  let r := afterRetire st s
  s.setStream st { s.stream st with pc := r.1, loops := r.2.1, bx := r.2.2, waited := false }

/-- SKIP of a bank's stream word (R286). -/
def skipBit (w : Word) : Bool := w.getLsbD 20

/-- Restore one stream from its word of a bank, with SKIP (R293). -/
def restoreStream (st : StreamId) (w : Word) (loops : List LoopEntry) (bx : Option BxPending) (s : State) : State :=
  let s := s.setStream st (restored w loops bx st s.now)
  if skipBit w && bits w 18 1 = 0 then skipAt st s else s

/-- Restore the C-stream from a bank; a WFE whose wait the delivery ended retires when it starts again (R114). -/
def resumeC (b : TrapBank) (s : State) : State :=
  let s := restoreStream .C b.tpcc b.loopsC none s
  s.setStream .C { s.core.c with woken := b.woken && !skipBit b.tpcc }

/-- RTT from a bank whose FAIL is clear (R293): from bank 1 the C-stream goes on in the handler, from bank 0 all three
streams resume in user mode. -/
def returnFromTrap (s : State) : State :=
  match s.core.banks with
  | [] => s
  | [b] =>
    let s := s.setCore { s.core with banks := [] }
    restoreStream .X b.tpcx b.loopsX b.bx
      (restoreStream .A b.tpca b.loopsA none (resumeC b s))
  | b0 :: b1 :: _ => resumeC b1 (s.setCore { s.core with banks := [b0] })

end Sys2Proof.Machine
end

