-- ==== Sys2Proof/Machine/CAlu.lean ====
section
/-! DEFINITION. The C-stream's arithmetic, sets, branches and loops (R91–R96). -/
namespace Sys2Proof.Machine

/-- sD := a op b (R92). -/
def aluC (o : Alu) (y : BitVec 4) (d a b : Reg) (s : State) : Host.Outcome State Fault Refusal :=
  issue .C y s (fun s => .retire (s.ws d (aluOp o (s.rs a) (s.rs b))))

/-- sD := sA op an immediate (R94). -/
def aluImmC (o : Alu) (y : BitVec 4) (d a : Reg) (imm : Word) (s : State) : Host.Outcome State Fault Refusal :=
  issue .C y s (fun s => .retire (s.ws d (aluOp o (s.rs a) imm)))

/-- A branch target: pc + size × SEXT(offset) (R70, R75). -/
def branchTarget (st : StreamId) (s : State) (off : Word) : Word :=
  (s.stream st).pc + off * BitVec.ofNat 64 (wordSize st)

/-- A conditional branch of the C-stream (R95). -/
def branchC (c : Cond) (y : BitVec 4) (a b : Reg) (o : BitVec 11) (s : State) : Host.Outcome State Fault Refusal :=
  issue .C y s (fun s =>
    if condHolds c (s.rs a) (s.rs b) then .jump s (branchTarget .C s (sext o)) else .retire s)

/-- LOOP (R55): the end is `count` words on; the first case that applies decides. -/
def loopAct (st : StreamId) (s : State) (words : Nat) (count : Word) : Act :=
  let v := s.stream st
  let next := v.pc + BitVec.ofNat 64 (s.core.lengthAt st v.pc.toNat)
  let stop := v.pc.toNat + wordSize st * words
  if imemBytes st ≤ stop then .raise (illegal st s)
  else if (match v.loops with | [] => false | e :: _ => decide (e.stop.toNat < stop)) then .raise (illegalSequence st s)
  else if count = 0 then
    let r := loopStep (BitVec.ofNat 64 stop) (BitVec.ofNat 64 (stop + s.core.lengthAt st stop)) v.loops
    .goTo s r.1 r.2
  else if v.loops.length = 4 then .raise (illegalSequence st s)
  else .goTo s next (⟨next, BitVec.ofNat 64 stop, count⟩ :: v.loops)

/-- ADD (R92). -/
def execCAdd (y : BitVec 4) (d a b : Reg) (s : State) : Host.Outcome State Fault Refusal := aluC .add y d a b s

/-- SUB (R92). -/
def execCSub (y : BitVec 4) (d a b : Reg) (s : State) : Host.Outcome State Fault Refusal := aluC .sub y d a b s

/-- AND (R92). -/
def execCAnd (y : BitVec 4) (d a b : Reg) (s : State) : Host.Outcome State Fault Refusal := aluC .and y d a b s

/-- OR (R92). -/
def execCOr (y : BitVec 4) (d a b : Reg) (s : State) : Host.Outcome State Fault Refusal := aluC .or y d a b s

/-- XOR (R92). -/
def execCXor (y : BitVec 4) (d a b : Reg) (s : State) : Host.Outcome State Fault Refusal := aluC .xor y d a b s

/-- SHL (R92). -/
def execCShl (y : BitVec 4) (d a b : Reg) (s : State) : Host.Outcome State Fault Refusal := aluC .shl y d a b s

/-- SHR (R92). -/
def execCShr (y : BitVec 4) (d a b : Reg) (s : State) : Host.Outcome State Fault Refusal := aluC .shr y d a b s

/-- SRA (R92). -/
def execCSra (y : BitVec 4) (d a b : Reg) (s : State) : Host.Outcome State Fault Refusal := aluC .sra y d a b s

/-- MUL (R92). -/
def execCMul (y : BitVec 4) (d a b : Reg) (s : State) : Host.Outcome State Fault Refusal := aluC .mul y d a b s

/-- MULH (R92). -/
def execCMulh (y : BitVec 4) (d a b : Reg) (s : State) : Host.Outcome State Fault Refusal := aluC .mulh y d a b s

/-- MULHU (R92). -/
def execCMulhu (y : BitVec 4) (d a b : Reg) (s : State) : Host.Outcome State Fault Refusal := aluC .mulhu y d a b s

/-- DIV (R93). -/
def execCDiv (y : BitVec 4) (d a b : Reg) (s : State) : Host.Outcome State Fault Refusal := aluC .div y d a b s

/-- REM (R93). -/
def execCRem (y : BitVec 4) (d a b : Reg) (s : State) : Host.Outcome State Fault Refusal := aluC .rem y d a b s

/-- MIN (R92). -/
def execCMin (y : BitVec 4) (d a b : Reg) (s : State) : Host.Outcome State Fault Refusal := aluC .min y d a b s

/-- MAX (R92). -/
def execCMax (y : BitVec 4) (d a b : Reg) (s : State) : Host.Outcome State Fault Refusal := aluC .max y d a b s

/-- SEQ (R92). -/
def execCSeq (y : BitVec 4) (d a b : Reg) (s : State) : Host.Outcome State Fault Refusal := aluC .seq y d a b s

/-- SNE (R92). -/
def execCSne (y : BitVec 4) (d a b : Reg) (s : State) : Host.Outcome State Fault Refusal := aluC .sne y d a b s

/-- SLT (R92). -/
def execCSlt (y : BitVec 4) (d a b : Reg) (s : State) : Host.Outcome State Fault Refusal := aluC .slt y d a b s

/-- SLTU (R92). -/
def execCSltu (y : BitVec 4) (d a b : Reg) (s : State) : Host.Outcome State Fault Refusal := aluC .sltu y d a b s

/-- SLE (R92). -/
def execCSle (y : BitVec 4) (d a b : Reg) (s : State) : Host.Outcome State Fault Refusal := aluC .sle y d a b s

/-- SLEU (R92). -/
def execCSleu (y : BitVec 4) (d a b : Reg) (s : State) : Host.Outcome State Fault Refusal := aluC .sleu y d a b s

/-- ADDI: the immediate is SEXT(IMM11) (R94). -/
def execCAddi (y : BitVec 4) (d a : Reg) (i : BitVec 11) (s : State) : Host.Outcome State Fault Refusal :=
  aluImmC .add y d a (sext i) s

/-- ANDI: the immediate is SEXT(IMM11) (R94). -/
def execCAndi (y : BitVec 4) (d a : Reg) (i : BitVec 11) (s : State) : Host.Outcome State Fault Refusal :=
  aluImmC .and y d a (sext i) s

/-- ORI: the immediate is SEXT(IMM11) (R94). -/
def execCOri (y : BitVec 4) (d a : Reg) (i : BitVec 11) (s : State) : Host.Outcome State Fault Refusal :=
  aluImmC .or y d a (sext i) s

/-- XORI: the immediate is SEXT(IMM11) (R94). -/
def execCXori (y : BitVec 4) (d a : Reg) (i : BitVec 11) (s : State) : Host.Outcome State Fault Refusal :=
  aluImmC .xor y d a (sext i) s

/-- SHLI (R94). -/
def execCShli (y : BitVec 4) (d a : Reg) (n : BitVec 6) (s : State) : Host.Outcome State Fault Refusal :=
  aluImmC .shl y d a (zext n) s

/-- SHRI (R94). -/
def execCShri (y : BitVec 4) (d a : Reg) (n : BitVec 6) (s : State) : Host.Outcome State Fault Refusal :=
  aluImmC .shr y d a (zext n) s

/-- SRAI (R94). -/
def execCSrai (y : BitVec 4) (d a : Reg) (n : BitVec 6) (s : State) : Host.Outcome State Fault Refusal :=
  aluImmC .sra y d a (zext n) s

/-- LI (R71). -/
def execCLi (y : BitVec 4) (d : Reg) (i : BitVec 16) (s : State) : Host.Outcome State Fault Refusal :=
  issue .C y s (fun s => .retire (s.ws d (sext i)))

/-- LUI: sD := (sD << 16) OR ZEXT(IMM16) (R71). -/
def execCLui (y : BitVec 4) (d : Reg) (i : BitVec 16) (s : State) : Host.Outcome State Fault Refusal :=
  issue .C y s (fun s => .retire (s.ws d (s.rs d <<< 16 ||| zext i)))

/-- CLZ (R92). -/
def execCClz (y : BitVec 4) (d a : Reg) (s : State) : Host.Outcome State Fault Refusal :=
  issue .C y s (fun s => .retire (s.ws d (BitVec.ofNat 64 (leadingZeros (s.rs a)))))

/-- POPC (R92). -/
def execCPopc (y : BitVec 4) (d a : Reg) (s : State) : Host.Outcome State Fault Refusal :=
  issue .C y s (fun s => .retire (s.ws d (BitVec.ofNat 64 (popCount (s.rs a)))))

/-- B (R95). -/
def execCB (y : BitVec 4) (o : BitVec 16) (s : State) : Host.Outcome State Fault Refusal :=
  issue .C y s (fun s => .jump s (branchTarget .C s (sext o)))

/-- BEQ (R95). -/
def execCBeq (y : BitVec 4) (a b : Reg) (o : BitVec 11) (s : State) : Host.Outcome State Fault Refusal := branchC .eq y a b o s

/-- BNE (R95). -/
def execCBne (y : BitVec 4) (a b : Reg) (o : BitVec 11) (s : State) : Host.Outcome State Fault Refusal := branchC .ne y a b o s

/-- BLT (R95). -/
def execCBlt (y : BitVec 4) (a b : Reg) (o : BitVec 11) (s : State) : Host.Outcome State Fault Refusal := branchC .lt y a b o s

/-- BGE (R95). -/
def execCBge (y : BitVec 4) (a b : Reg) (o : BitVec 11) (s : State) : Host.Outcome State Fault Refusal := branchC .ge y a b o s

/-- BLTU (R95). -/
def execCBltu (y : BitVec 4) (a b : Reg) (o : BitVec 11) (s : State) : Host.Outcome State Fault Refusal := branchC .ltu y a b o s

/-- BGEU (R95). -/
def execCBgeu (y : BitVec 4) (a b : Reg) (o : BitVec 11) (s : State) : Host.Outcome State Fault Refusal := branchC .geu y a b o s

/-- CALL: sD receives the link, pc + 4 (R95). -/
def execCCall (y : BitVec 4) (d : Reg) (o : BitVec 16) (s : State) : Host.Outcome State Fault Refusal :=
  issue .C y s (fun s => .jump (s.ws d (s.core.c.pc + 4)) (branchTarget .C s (sext o)))

/-- RET (R95). -/
def execCRet (y : BitVec 4) (a : Reg) (s : State) : Host.Outcome State Fault Refusal :=
  issue .C y s (fun s => .jump s (s.rs a))

/-- LOOP (R96). -/
def execCLoop (y : BitVec 4) (a : Reg) (e : BitVec 16) (s : State) : Host.Outcome State Fault Refusal :=
  issue .C y s (fun s => loopAct .C s e.toNat (s.rs a))

end Sys2Proof.Machine
end

