-- ==== Sys2Proof/Machine/Numbers.lean ====
section
/-! DEFINITION. Numbers to the last bit: exact values, the formats of R250–R253, rounding (R254), conversion (R255) and the
correctly rounded functions of R177. -/
namespace Sys2Proof.Machine

/-- An exact value. `fin neg m e sticky` is ±m × 2^e, or, with `sticky`, a value strictly between ±m × 2^e and
±(m + 1) × 2^e that is irrational or too long to write; m then has more bits than any rounding looks at. -/
inductive Num where
  | nan
  | inf (neg : Bool)
  | fin (neg : Bool) (m : Nat) (e : Int) (sticky : Bool)
  deriving DecidableEq, Repr

/-- A floating-point format: precision, exponent of the least spacing, index of the largest finite magnitude, sign bit (if
signed), codes of +∞ and NaN, and whether it has a negative zero. The index of a magnitude is its code without the sign. -/
structure Fmt where
  prec : Nat
  qmin : Int
  maxIdx : Nat
  sign : Option Nat
  inf : Option Nat
  nan : Nat
  negZero : Bool
  deriving DecidableEq, Repr

def fp32 : Fmt := ⟨24, -149, 0x7F7FFFFF, some 31, some 0x7F800000, 0x7FC00000, true⟩
def bf16 : Fmt := ⟨8, -133, 0x7F7F, some 15, some 0x7F80, 0x7FC0, true⟩
def fp64 : Fmt := ⟨53, -1074, 0x7FEFFFFFFFFFFFFF, some 63, some 0x7FF0000000000000, 0x7FF8000000000000, true⟩

/-- The binary8 format of a code (R250–R252, R257). -/
def binary8 (ty : ElemCode) : Fmt :=
  let p := ty.toNat % 8
  let ext := ty.getLsbD 3
  if ty.getLsbD 4 then
    ⟨p, 2 - 2 ^ (8 - p) - p, (if ext then 0xFD else 0xFE), none, (if ext then some 0xFE else none), 0xFF, false⟩
  else
    ⟨p, 2 - 2 ^ (7 - p) - p, (if ext then 0x7E else 0x7F), some 7, (if ext then some 0x7F else none), 0x80, false⟩

/-- The floating-point format of a type code; FP32 for a code that names none. -/
def fmtOf (ty : ElemCode) : Fmt := if isBinary8 ty then binary8 ty else if ty = 4 then bf16 else if ty = 6 then fp64 else fp32

/-- A type code names a floating-point format. -/
def isFloat (ty : ElemCode) : Bool := isBinary8 ty || ty == 4 || ty == 5 || ty == 6

/-- Decode a code of a format (R250, R251, R253). -/
def decodeFloat (f : Fmt) (code : Nat) : Num :=
  let neg := match f.sign with | none => false | some b => code.testBit b
  let idx := match f.sign with | none => code | some b => code % 2 ^ b
  if code = f.nan then .nan
  else if f.inf = some idx then .inf neg
  else if f.maxIdx < idx then .nan
  else
    let t := 2 ^ (f.prec - 1)
    let q := idx / t
    if q ≤ 1 ∧ (f.prec ≠ 1 ∨ idx = 0) then .fin neg idx f.qmin false
    else .fin neg (t + idx % t) (f.qmin + (q - 1 : Nat)) false

/-- The exact value of an element of a type: an integer, or a float (R181). -/
def elemNum (ty : ElemCode) (code : Nat) : Num :=
  if isFloat ty then decodeFloat (fmtOf ty) code
  else
    let w := match ty.toNat with | 0 => 8 | 1 => 16 | 2 => 32 | _ => 64
    let i := (BitVec.ofNat w code).toInt
    .fin (decide (i < 0)) i.natAbs 0 false

/-- Bits of a natural number. -/
def bitLen (m : Nat) : Nat := if m = 0 then 0 else m.log2 + 1

/-- Whether rounding goes up in magnitude, from the place of the rest: below, at or above half of the spacing (R254). -/
def roundsUp (rnd : Nat) (neg odd : Bool) (rest half : Nat) (sticky : Bool) : Bool :=
  let inexact := decide (rest ≠ 0) || sticky
  match rnd with
  | 0 => decide (half < rest) || (decide (rest = half) && (sticky || odd))
  | 1 => false
  | 2 => inexact && !neg
  | _ => inexact && neg

/-- The index of ±m × 2^e (with its sticky rest) rounded in a mode to the grid of a format, extended without bound (R254). -/
def roundIdx (f : Fmt) (rnd : Nat) (neg : Bool) (m : Nat) (e : Int) (sticky : Bool) : Nat :=
  let q := if m = 0 then f.qmin else max f.qmin (e + (bitLen m : Int) - (f.prec : Int))
  let top := (q - f.qmin).toNat * 2 ^ (f.prec - 1)
  if q ≤ e then
    let idx := top + m * 2 ^ (e - q).toNat
    if roundsUp rnd neg (decide (idx % 2 = 1)) 0 1 sticky then idx + 1 else idx
  else
    let d := (q - e).toNat
    let idx := top + m / 2 ^ d
    if roundsUp rnd neg (decide (idx % 2 = 1)) (m % 2 ^ d * 2) (2 ^ d) sticky then idx + 1 else idx

/-- The code of a magnitude's index with a sign (R250). -/
def withSign (f : Fmt) (neg : Bool) (idx : Nat) : Nat :=
  match f.sign with
  | none => idx
  | some b => if neg && (decide (idx ≠ 0) || f.negZero) then idx + 2 ^ b else idx

/-- The code of an infinity, or the NaN of a format without that infinity. -/
def infCode (f : Fmt) (neg : Bool) : Nat :=
  match f.inf with
  | none => f.nan
  | some c => match f.sign with
    | none => if neg then f.nan else c
    | some b => if neg then c + 2 ^ b else c

/-- An overflow under a policy (R255): none is FP_OVERFLOW. -/
def overflow (f : Fmt) (pol : Nat) (neg : Bool) : Option Nat :=
  match pol with
  | 0 => some (if f.sign.isNone && neg then 0 else withSign f neg f.maxIdx)
  | 1 => some (infCode f neg)
  | 2 => some f.nan
  | _ => none

/-- R255: the code of an exact value in a floating-point target; none where the overflow policy traps. -/
def convert (f : Fmt) (rnd pol : Nat) : Num → Option Nat
  | .nan => some f.nan
  | .inf neg => if f.inf.isSome && !(neg && f.sign.isNone) then some (infCode f neg) else overflow f pol neg
  | .fin neg m e sticky =>
    let idx := roundIdx f rnd neg m e sticky
    if f.sign.isNone && neg && decide (idx ≠ 0) then overflow f pol true
    else if f.maxIdx < idx then overflow f pol neg
    else some (withSign f neg idx)

/-- RD32 and RDB16 of R168: round once; an overflow goes to ±∞ or, against the direction, to the largest finite value (R177). -/
def roundTo (f : Fmt) (rnd : Nat) : Num → Nat
  | .nan => f.nan
  | .inf neg => infCode f neg
  | .fin neg m e sticky =>
    let idx := roundIdx f rnd neg m e sticky
    if f.maxIdx < idx then
      if rnd = 1 ∨ (rnd = 2 ∧ neg) ∨ (rnd = 3 ∧ !neg) then withSign f neg f.maxIdx else infCode f neg
    else withSign f neg idx

/-- RN32 of R7. -/
def rn32 (x : Num) : BitVec 32 := BitVec.ofNat 32 (roundTo fp32 0 x)
/-- RN64 of R204. -/
def rn64 (x : Num) : BitVec 64 := BitVec.ofNat 64 (roundTo fp64 0 x)
/-- The exact value of FP32 bits. -/
def ofFp32 (x : BitVec 32) : Num := decodeFloat fp32 x.toNat

/-! ### Exact arithmetic -/

def Num.neg : Num → Num
  | .nan => .nan
  | .inf n => .inf (!n)
  | .fin n m e t => .fin (!n) m e t

def Num.isNan : Num → Bool
  | .nan => true
  | _ => false

def Num.isZero : Num → Bool
  | .fin _ 0 _ false => true
  | _ => false

/-- The signed integer of a finite value at an exponent not above its own. -/
def scaled (neg : Bool) (m : Nat) (e base : Int) : Int :=
  let k : Int := (m * 2 ^ (e - base).toNat : Nat)
  if neg then -k else k

/-- a + b, exact; the sign of a zero sum is IEEE 754's in the mode (R168, R177). -/
def Num.add (rnd : Nat) : Num → Num → Num
  | .nan, _ => .nan
  | _, .nan => .nan
  | .inf a, .inf b => if a = b then .inf a else .nan
  | .inf a, _ => .inf a
  | _, .inf b => .inf b
  | .fin n1 m1 e1 _, .fin n2 m2 e2 _ =>
    if m1 = 0 ∧ m2 = 0 then .fin (if n1 = n2 then n1 else decide (rnd = 3)) 0 0 false
    else if m1 = 0 then .fin n2 m2 e2 false
    else if m2 = 0 then .fin n1 m1 e1 false
    else
      let e := min e1 e2
      let k := scaled n1 m1 e1 e + scaled n2 m2 e2 e
      if k = 0 then .fin (decide (rnd = 3)) 0 0 false else .fin (decide (k < 0)) k.natAbs e false

/-- a × b, exact. -/
def Num.mul : Num → Num → Num
  | .nan, _ => .nan
  | _, .nan => .nan
  | .inf a, .inf b => .inf (a != b)
  | .inf a, .fin b m _ _ => if m = 0 then .nan else .inf (a != b)
  | .fin a m _ _, .inf b => if m = 0 then .nan else .inf (a != b)
  | .fin n1 m1 e1 _, .fin n2 m2 e2 _ => .fin (n1 != n2) (m1 * m2) (e1 + e2) false

/-- a / b of IEEE 754-2019: at least 66 bits of the quotient and a sticky rest. -/
def Num.div : Num → Num → Num
  | .nan, _ => .nan
  | _, .nan => .nan
  | .inf _, .inf _ => .nan
  | .inf a, .fin b _ _ _ => .inf (a != b)
  | .fin a _ _ _, .inf b => .fin (a != b) 0 0 false
  | .fin n1 m1 e1 _, .fin n2 m2 e2 _ =>
    if m2 = 0 then (if m1 = 0 then .nan else .inf (n1 != n2))
    else
      let k := 66 + bitLen m2
      let n := m1 * 2 ^ k
      .fin (n1 != n2) (n / m2) (e1 - e2 - k) (decide (n % m2 ≠ 0))

/-- The integer square root, bit by bit from bit `k`. -/
def isqrtFrom (n : Nat) : Nat → Nat → Nat
  | 0, r => r
  | k + 1, r => if (r + 2 ^ k) * (r + 2 ^ k) ≤ n then isqrtFrom n k (r + 2 ^ k) else isqrtFrom n k r

/-- √a of IEEE 754-2019. -/
def Num.sqrt : Num → Num
  | .nan => .nan
  | .inf n => if n then .nan else .inf false
  | .fin n m e _ =>
    if m = 0 then .fin n 0 0 false
    else if n then .nan
    else
      let odd := e % 2 ≠ 0
      let m' := (if odd then m * 2 else m) * 2 ^ 160
      let e' := (if odd then e - 1 else e) - 160
      let r := isqrtFrom m' (bitLen m' / 2 + 1) 0
      .fin false r (e' / 2) (decide (r * r ≠ m'))

/-- The order of two values that are no NaN; −0 and +0 are equal. -/
def Num.cmp : Num → Num → Option Ordering
  | .nan, _ => none
  | _, .nan => none
  | .inf a, .inf b => some (if a = b then .eq else if a then .lt else .gt)
  | .inf a, _ => some (if a then .lt else .gt)
  | _, .inf b => some (if b then .gt else .lt)
  | .fin n1 m1 e1 _, .fin n2 m2 e2 _ => let e := min e1 e2; some (compare (scaled n1 m1 e1 e) (scaled n2 m2 e2 e))

def Num.isNeg : Num → Bool
  | .nan => false
  | .inf n => n
  | .fin n _ _ _ => n

/-- a is below b, with −0 < +0; false if either is a NaN. -/
def Num.below (a b : Num) : Bool :=
  match a.cmp b with
  | some .lt => true
  | some .eq => a.isNeg && !b.isNeg
  | _ => false

/-- VFMIN's choice (R177): none is the canonical NaN, else whether the first operand is taken. -/
def pickMin (a b : Num) : Option Bool := if a.isNan || b.isNan then none else some (!(b.below a))
/-- VFMAX's choice (R177). -/
def pickMax (a b : Num) : Option Bool := if a.isNan || b.isNan then none else some (!(a.below b))

/-- A finite value rounded to an integer in a mode (R181). -/
def roundInt (rnd : Nat) (neg : Bool) (m : Nat) (e : Int) (sticky : Bool) : Int :=
  let k : Nat :=
    if 0 ≤ e then m * 2 ^ e.toNat
    else
      let d := (-e).toNat
      let n := m / 2 ^ d
      if roundsUp rnd neg (decide (n % 2 = 1)) (m % 2 ^ d * 2) (2 ^ d) sticky then n + 1 else n
  if neg then -(k : Int) else k

/-! ### The functions of R177 that have no finite expansion, in fixed point with 512 fraction bits -/

/-- Fraction bits of the fixed-point work. Every result of a function of R177 on a BF16 or FP32 operand lies farther from a
rounding boundary than the errors below, which stay under 2^−490. -/
def fixBits : Nat := 512

/-- ln 2 × 2^512, rounded down. -/
def ln2Fix : Nat := 0xb17217f7d1cf79abc9e3b39803f2f6af40f343267298b62d8a0d175b8baafa2be7b876206debac98559552fb4afa1b10ed2eae35c138214427573b291169b825

/-- The series 1 + r + r²/2 + …, of r × 2^512: term `k` on. -/
def expTerms (r : Nat) : Nat → Nat → Nat → Nat → Nat
  | 0, _, _, acc => acc
  | fuel + 1, k, term, acc =>
    let t := term * r / 2 ^ fixBits / k
    expTerms r fuel (k + 1) t (acc + t)

/-- e^r × 2^512 for r × 2^512 with 0 ≤ r < 1. -/
def expFix (r : Nat) : Nat := expTerms r 128 1 (2 ^ fixBits) (2 ^ fixBits)

/-- z + z³/3 + z⁵/5 + …, of z × 2^512. -/
def atanhTerms (z2 : Nat) : Nat → Nat → Nat → Nat → Nat
  | 0, _, _, acc => acc
  | fuel + 1, k, pow, acc =>
    let p := pow * z2 / 2 ^ fixBits
    atanhTerms z2 fuel (k + 2) p (acc + p / k)

/-- ln t × 2^512 for t = (num/den), 1 ≤ t < 2. -/
def lnFix (num den : Nat) : Nat :=
  let z := (num - den) * 2 ^ fixBits / (num + den)
  2 * atanhTerms (z * z / 2 ^ fixBits) 200 3 z z

/-- A finite value as an integer multiple of 2^−512; its exponent is at least −512. -/
def fixOf (neg : Bool) (m : Nat) (e : Int) : Int := scaled neg m e (-(fixBits : Int))

/-- A positive irrational near lo × 2^−512, as a value with a sticky rest: 24 guard bits are dropped. -/
def ofFix (neg : Bool) (lo : Nat) (shift : Int) : Num := .fin neg (lo / 2 ^ 24) (24 - (fixBits : Int) + shift) true

/-- e^a for a × 2^512 = `a`: the power of two k and e^(a − k ln 2) × 2^512. -/
def expParts (a : Int) : Int × Nat :=
  let k := a / (ln2Fix : Int)
  (k, expFix (a - k * (ln2Fix : Int)).toNat)

/-- 2^x (R177 VFEXP2). -/
def Num.exp2 : Num → Num
  | .nan => .nan
  | .inf n => if n then .fin false 0 0 false else .inf false
  | .fin n m e _ =>
    let x := fixOf n m e
    let k := x / (2 ^ fixBits : Int)
    let f := (x % (2 ^ fixBits : Int)).toNat
    if f = 0 then .fin false 1 (max (-2000) (min 2000 k)) false
    else if k < -1000 ∨ 1000 < k then .fin false 1 (max (-2000) (min 2000 k)) true
    else ofFix false (expFix (f * ln2Fix / 2 ^ fixBits)) k

/-- log2 x (R177 VFLOG2). -/
def Num.log2 : Num → Num
  | .nan => .nan
  | .inf n => if n then .nan else .inf false
  | .fin n m e _ =>
    if m = 0 then .inf true
    else if n then .nan
    else
      let k := m.log2
      let top : Int := e + (k : Int)
      if m = 2 ^ k then .fin (decide (top < 0)) top.natAbs 0 false
      else
        let frac : Int := (lnFix m (2 ^ k) * 2 ^ fixBits / ln2Fix : Nat)
        let total := top * (2 ^ fixBits : Int) + frac
        if total < 0 then ofFix true (total.natAbs - 2 ^ 12) 0 else ofFix false (total.toNat + 2 ^ 12) 0

/-- e^x (R160, R326). -/
def Num.exp : Num → Num
  | .nan => .nan
  | .inf n => if n then .fin false 0 0 false else .inf false
  | .fin n m e _ =>
    if m = 0 then .fin false 1 0 false
    else
      let x := fixOf n m e
      if x < -(1000 * 2 ^ fixBits : Int) then .fin false 1 (-1000) true
      else if (1000 * 2 ^ fixBits : Int) < x then .fin false 1 1000 true
      else let p := expParts x; ofFix false p.2 p.1

/-- tanh x (R177 VFTANH): just below |x| when x is below 2^−40, just below 1 when it is above 100. -/
def Num.tanh : Num → Num
  | .nan => .nan
  | .inf n => .fin n 1 0 false
  | .fin n m e _ =>
    if m = 0 then .fin n 0 0 false
    else if e + (bitLen m : Int) ≤ -40 then .fin n (m * 2 ^ 40 - 1) (e - 40) true
    else
      let x := fixOf false m e
      if (100 * 2 ^ fixBits : Int) < x then .fin n (2 ^ 64 - 1) (-64) true
      else
        let p := expParts (2 * x)
        let big := p.2 * 2 ^ p.1.toNat
        ofFix n ((big - 2 ^ fixBits) * 2 ^ fixBits / (big + 2 ^ fixBits)) 0

/-- 1 / (1 + e^(−x)) (R177 VFSIGM). -/
def Num.sigm : Num → Num
  | .nan => .nan
  | .inf n => if n then .fin false 0 0 false else .fin false 1 0 false
  | .fin n m e _ =>
    if m = 0 then .fin false 1 (-1) false
    else
      let x := fixOf n m e
      if x < -(200 * 2 ^ fixBits : Int) then .fin false 1 (-400) true
      else if (100 * 2 ^ fixBits : Int) < x then .fin false (2 ^ 64 - 1) (-64) true
      else
        let p := expParts x
        let big := if 0 ≤ p.1 then p.2 * 2 ^ p.1.toNat else p.2 / 2 ^ (-p.1).toNat
        ofFix false (big * 2 ^ fixBits / (2 ^ fixBits + big)) 0

end Sys2Proof.Machine
end

