-- ==== Sys2Proof/Machine/Translate.lean ====
section
/-! DEFINITION. The locked translation table: entry layout, validity, lookups and physical places (R303–R309, R332). -/
namespace Sys2Proof.Machine

/-- The page sizes of R304, by SIZE. -/
def pageBytes : Nat → Option Nat
  | 0 => some (64 * 1024)
  | 1 => some (2 * 1024 * 1024)
  | 2 => some (64 * 1024 * 1024)
  | 3 => some (2 * 1024 * 1024 * 1024)
  | 4 => some (64 * 1024 * 1024 * 1024)
  | _ => none

/-- STATE of R309 by value. -/
def pageStateOf : Nat → PageState
  | 0 => .present
  | 1 => .absent
  | 2 => .migratingOut
  | _ => .migratingIn

/-- The value of STATE (R309). -/
def PageState.code : PageState → Nat
  | .present => 0
  | .absent => 1
  | .migratingOut => 2
  | .migratingIn => 3

/-- Bytes retired of each die's half of NEAR: 1 GB a channel (R306, R378). -/
def nearTop (r0 r1 die : Nat) : Nat :=
  if die = 0 then nearPerDie - r0 * 10 ^ 9 else 2 * nearPerDie - r1 * 10 ^ 9

/-- A range of NEAR or ARCH lies in the memory of one module: each byte of NEAR below the shrunken top of its die's half (R306). -/
def tierRangeOk (r0 r1 space a size : Nat) : Bool :=
  if space = 2 then
    if a < nearPerDie ∧ (r0 ≠ 0 ∨ a + size ≤ nearPerDie) then decide (a + size ≤ nearTop r0 r1 0) else decide (a + size ≤ nearTop r0 r1 1)
  else decide (a + size ≤ 2 * archPerDie)

/-- The die that owns a physical NEAR or ARCH address (R305). -/
def tierDie (space a : Nat) : Nat := if space = 2 then a / nearPerDie else a / archPerDie

/-- PHYS names a place of its space that the whole page fits in (R305, R306). -/
def physOk (r0 r1 space p size : Nat) : Bool :=
  match space with
  | 0 => decide (p + size ≤ coreBytes)
  | 1 => decide (p < 2 ^ 29) && decide (p % 2 ^ 24 + size ≤ groveBytes) && decide (p / 2 ^ 24 < 20 ∨ p / 2 ^ 24 = 31)
  | 2 => tierRangeOk r0 r1 2 p size
  | 3 => tierRangeOk r0 r1 3 p size
  | 5 => decide (p + size ≤ 2 ^ 64)
  | 6 => decide (p < 2 ^ 22) && decide (p % 2 ^ 20 + size ≤ 2 ^ 20) && !(p.testBit 21 && p.testBit 20)
  | _ => false

/-- The 32 bytes of an entry that R306 does not reject; none for a malformed one. An entry without VALID is accepted as
well-formed only when all of R306 holds of it. -/
def parseXlat (r0 r1 : Nat) (raw : List Byte) : Option (Bool × Xlat) :=
  let f := fun (o n : Nat) => leNat ((raw.drop o).take n)
  let perm := f 26 1
  let st := f 27 1
  match pageBytes (f 24 1) with
  | none => none
  | some size =>
    let e : Xlat := { vbase := f 0 8, phys := f 8 8, alt := f 16 8, size := size, space := f 25 1, r := perm.testBit 0,
                      w := perm.testBit 1, pin := perm.testBit 2, rdup := perm.testBit 3, altv := perm.testBit 4,
                      state := pageStateOf (st % 4) }
    let tier := e.space = 2 ∨ e.space = 3
    let altSpace := if e.altv then 5 - e.space else e.space
    if e.space = 4 ∨ 7 ≤ e.space ∨ 32 ≤ perm ∨ st / 4 % 32 ≠ 0 ∨ f 28 4 ≠ 0 then none
    else if e.vbase % size ≠ 0 ∨ e.phys % size ≠ 0 ∨ e.alt % size ≠ 0 ∨ 2 ^ 64 < e.vbase + size then none
    else if !physOk r0 r1 e.space e.phys size then none
    else if (e.altv ∨ e.rdup) ∧ ¬tier then none
    else if e.altv ∧ e.rdup then none
    else if (e.altv ∨ e.rdup) ∧ !tierRangeOk r0 r1 altSpace e.alt size then none
    else if e.rdup ∧ tierDie e.space e.phys = tierDie e.space e.alt then none
    else if e.alt ≠ 0 ∧ ¬(e.altv ∨ e.rdup) then none
    else if e.state ≠ .present ∧ ¬e.altv then none
    else if e.pin ∧ e.state ≠ .present then none
    else some (st.testBit 7, e)

/-- The 32 bytes of a valid entry (R304). -/
def Xlat.raw (e : Xlat) : List Byte :=
  let sz := if e.size = 64 * 1024 then 0 else if e.size = 2 * 1024 * 1024 then 1 else if e.size = 64 * 1024 * 1024 then 2
    else if e.size = 2 * 1024 * 1024 * 1024 then 3 else 4
  let perm := e.r.toNat + 2 * e.w.toNat + 4 * e.pin.toNat + 8 * e.rdup.toNat + 16 * e.altv.toNat
  leBytes 8 e.vbase ++ leBytes 8 e.phys ++ leBytes 8 e.alt ++ leBytes 1 sz ++ leBytes 1 e.space ++ leBytes 1 perm ++
    leBytes 1 (128 + e.state.code) ++ leBytes 4 0

/-- A byte lies in the range of an entry (R303). -/
def Xlat.holds (e : Xlat) (va : Nat) : Bool := decide (e.vbase ≤ va) && decide (va < e.vbase + e.size)

/-- Two entries' ranges meet (R120). -/
def Xlat.overlaps (e f : Xlat) : Bool := decide (e.vbase < f.vbase + f.size) && decide (f.vbase < e.vbase + e.size)

/-- The valid entry that matches a byte (R303). -/
def lookup (ltt : List (Nat × Xlat)) (va : Nat) : Option (Nat × Xlat) := ltt.find? (fun e => e.2.holds va)

/-- The key of a physical place of a space, as core `n` names it (R305). -/
def placeKey (n space p : Nat) : Nat :=
  match space with
  | 0 => coreKey n p
  | 1 => groveKey (if p / 2 ^ 24 = 31 then groveOf n else p / 2 ^ 24) (p % 2 ^ 24)
  | 2 => nearKey p
  | 3 => archKey p
  | 5 => hostKey p
  | _ => hwinKey (if p.testBit 21 then dieOf n else p / 2 ^ 20 % 2) (p % 2 ^ 20)

/-- The physical place that an access by core `n` to a page takes: with RDUP set, a read takes the copy under the core's own
die (R313). -/
def Xlat.place (e : Xlat) (n : Nat) (write : Bool) : Nat :=
  if e.rdup && !write && decide (tierDie e.space e.phys ≠ dieOf n) then e.alt else e.phys

/-- One part of a range: its virtual address, length and the entry that holds it. -/
structure Piece where
  va : Nat
  len : Nat
  entry : Option (Nat × Xlat)
  deriving DecidableEq, Repr

/-- The parts of a virtual range by the entries that hold them, in ascending order; a part no entry holds ends the walk.
The first argument bounds the parts. -/
def pieces (ltt : List (Nat × Xlat)) : Nat → Nat → Nat → List Piece
  | 0, _, _ => []
  | fuel + 1, va, len =>
    if len = 0 then []
    else match lookup ltt va with
      | none => [⟨va, len, none⟩]
      | some (i, e) =>
        let n := min len (e.vbase + e.size - va)
        ⟨va, n, some (i, e)⟩ :: pieces ltt fuel (va + n) (len - n)

/-- The pieces of a range in a table: at most one for each of its 256 entries, and one beyond. -/
def piecesOf (ltt : List (Nat × Xlat)) (va len : Nat) : List Piece := pieces ltt 257 va len

/-- The segments of a range whose pieces all have entries. -/
def segsOf (n : Nat) (write : Bool) (ps : List Piece) : List Seg :=
  ps.filterMap (fun p => p.entry.map (fun e => { key := placeKey n e.2.space (e.2.place n write + (p.va - e.2.vbase)), len := p.len }))

/-- taux1 and taux2 of PROGRAM_ADDRESS, PAGE_ABSENT and PERMISSION (R287). -/
def pieceAux (p : Piece) (write : Bool) : Word × Word :=
  match p.entry with
  | none => (if write then 512 else 0, 0)
  | some (i, e) => (BitVec.ofNat 64 (i + 256 + (if write then 512 else 0)), BitVec.ofNat 64 (e.space + e.state.code * 8))

end Sys2Proof.Machine
end

