-- ==== Sys2Proof/Machine/Shapes.lean ====
section
/-! DEFINITION. Shape objects: their layout, the seal check, the checks of SEAL, element addresses and footprints (R104, R105, R125). -/
namespace Sys2Proof.Machine

/-- Bits of an element of a type code (R66). -/
def elemBits (ty : ElemCode) : Nat :=
  match ty.toNat with
  | 0 => 8
  | 1 => 16
  | 2 => 32
  | 3 => 64
  | 4 => 16
  | 5 => 32
  | 6 => 64
  | 7 => 1
  | _ => 8

/-- Bytes of an element, one for 1-bit elements (R105 check 5). -/
def elemBytes (ty : ElemCode) : Nat := max 1 (elemBits ty / 8)

/-- The types a shape object may have: R66's codes but 0x06 and the reserved ones (R104). -/
def shapeType (ty : ElemCode) : Bool := decide (ty.toNat < 6) || ty == 7 || isBinary8 ty

/-- Σ ck × STRIDEk (R125). -/
def dot : List Nat → List Nat → Nat
  | c :: cs, t :: ts => c * t + dot cs ts
  | _, _ => 0

/-- The element offset of the last element, at coordinates DIMk − 1. -/
def Shape.lastElem (o : Shape) : Nat := dot ((o.dims.take o.rank).map (· - 1)) o.strides

/-- Bytes of the element footprint, counted from BASE (R104). -/
def Shape.footprint (o : Shape) : Nat :=
  if elemBits o.ty = 1 then o.lastElem / 8 + 1 else (o.lastElem + 1) * elemBytes o.ty

/-- The byte address of the element at coordinates; for 1-bit elements, of the byte that holds it (R125), where a row-slice or
a copy then begins (DESIGN CHOICE, log 240). -/
def Shape.addr (o : Shape) (c : List Nat) : Nat :=
  if elemBits o.ty = 1 then (o.base * 8 + dot c o.strides) / 8 else o.base + dot c o.strides * elemBytes o.ty

/-- The stride and extent of the innermost dimension. -/
def Shape.innerStride (o : Shape) : Nat := o.strides.getD (o.rank - 1) 0
def Shape.innerDim (o : Shape) : Nat := o.dims.getD (o.rank - 1) 0

/-- R125: every coordinate is below its extent, and a run of `n` fits the innermost dimension. -/
def Shape.inBounds (o : Shape) (c : List Nat) (n : Nat) : Bool :=
  (c.zip o.dims).all (fun p => decide (p.1 < p.2)) && decide (c.getD (o.rank - 1) 0 + n ≤ o.innerDim)

/-- One bit of the reflected CRC-32C register (polynomial 0x1EDC_6F41). -/
def crcBit (c : BitVec 32) : BitVec 32 := if c.getLsbD 0 then (c >>> 1) ^^^ 0x82F63B78#32 else c >>> 1

/-- One byte of CRC-32C. -/
def crcByte (c : BitVec 32) (b : Byte) : BitVec 32 :=
  crcBit (crcBit (crcBit (crcBit (crcBit (crcBit (crcBit (crcBit (c ^^^ b.setWidth 32))))))))

/-- CRC-32C (R105). -/
def crc32c (l : List Byte) : BitVec 32 := (l.foldl crcByte 0xFFFFFFFF#32) ^^^ 0xFFFFFFFF#32

/-- A little-endian field of a byte list. -/
def fieldAt (raw : List Byte) (o n : Nat) : Nat := leNat ((raw.drop o).take n)

/-- The description's bytes 0x00–0x5B (R104). -/
def Shape.desc (o : Shape) : List Byte :=
  leBytes 8 o.base ++ leBytes 1 o.space ++ leBytes 1 o.rank ++ leBytes 1 o.ty.toNat ++
    leBytes 1 (o.exact.toNat + 2 * o.hasReg.toNat) ++ leBytes 2 o.dev ++ leBytes 2 o.region ++
    (List.range 6).flatMap (fun k => leBytes 4 (o.dims.getD k 0)) ++
    (List.range 6).flatMap (fun k => leBytes 6 (o.strides.getD k 0)) ++
    (List.range 4).flatMap (fun k => leBytes 3 (o.xforms.getD k 0)) ++
    leBytes 1 o.perm ++ leBytes 1 o.padsz ++ leBytes 2 0

/-- The seal check of a description (R105). -/
def Shape.crc (o : Shape) : BitVec 32 := crc32c o.desc

/-- The fields of a 96-byte description. -/
def parseShape (raw : List Byte) : Shape :=
  { base := fieldAt raw 0 8, space := fieldAt raw 8 1, rank := fieldAt raw 9 1
    ty := BitVec.ofNat 6 (fieldAt raw 10 1), exact := (fieldAt raw 11 1).testBit 0, hasReg := (fieldAt raw 11 1).testBit 1
    dev := fieldAt raw 12 2, region := fieldAt raw 14 2
    dims := (List.range 6).map (fun k => fieldAt raw (16 + 4 * k) 4)
    strides := (List.range 6).map (fun k => fieldAt raw (40 + 6 * k) 6)
    xforms := (List.range 4).map (fun k => fieldAt raw (76 + 3 * k) 3)
    perm := fieldAt raw 88 1, padsz := fieldAt raw 89 1 }

/-- OP and ARG of a transform step (R104). -/
def stepOp (x : Nat) : Nat := x % 16
def stepArg (x : Nat) : Nat := x / 256

/-- A transform step is well formed for an object of this shape (R104, check 10). -/
def stepOk (o : Shape) (x : Nat) : Bool :=
  let a := stepArg x
  match stepOp x with
  | 0 => a == 0
  | 1 => a == 0 && o.space == 1
  | 2 => a == 0 && o.space == 0
  | 3 => decide (a % 8 < o.rank) && decide (a / 8 % 8 < o.rank) && decide (a % 8 ≠ a / 8 % 8) && decide (a < 64)
  | 4 =>
    let t := BitVec.ofNat 6 a
    shapeType t && t != 7 && polOk t (BitVec.ofNat 2 (a / 64)) && decide (a < 1024)
  | 5 => decide (o.innerDim ≤ a)
  | _ => false

/-- No step follows a zero step. -/
def stepsInOrder : List Nat → Bool
  | [] => true
  | x :: r => if x = 0 then r.all (· == 0) else stepsInOrder r

/-- The chain has a compress or an expand step. -/
def Shape.packs (o : Shape) : Bool := o.xforms.any (fun x => stepOp x == 1 || stepOp x == 2)

/-- The chain is empty. -/
def Shape.plain (o : Shape) : Bool := o.xforms.all (· == 0)

/-- Check 7 of R105 against the declared regions. -/
def regionFits (regions : List Region) (o : Shape) : Bool :=
  if o.space = 4 then true
  else (o.space == 2 || o.space == 3) &&
    (match regions.find? (fun g => g.num == o.region) with
     | none => false
     | some g => g.ty == o.ty && decide (g.base ≤ o.base) && decide (o.base + o.footprint ≤ g.base + g.size))

/-- Checks 1 to 12 of R105 on a description: the first that fails gives its reason; none when all pass. Of a transform step the reserved
bits [7:4] are reserved bits of the description, of reason 1, and its reserved ARG bits make it malformed, of reason 10 (DEDUCED, log 121). -/
def sealReason (s : State) (ltt : List (Nat × Xlat)) (raw : List Byte) : Option Nat :=
  let o := parseShape raw
  let dims := o.dims.take o.rank
  if 4 ≤ fieldAt raw 11 1 ∨ fieldAt raw 90 2 ≠ 0 ∨ fieldAt raw 92 4 ≠ 0 ∨ (!o.hasReg && o.region != 0) ∨
      o.xforms.any (fun x => x / 16 % 16 != 0) then some 1
  else if 7 ≤ o.space then some 2
  else if o.rank < 1 ∨ 6 < o.rank ∨ dims.any (fun d => d == 0 || decide (2 ^ 31 < d)) ∨
      (o.dims.drop o.rank).any (· != 0) ∨ (o.strides.drop o.rank).any (· != 0) then some 3
  else if 64 ≤ fieldAt raw 10 1 ∨ !shapeType o.ty then some 4
  else if o.base % elemBytes o.ty ≠ 0 ∨
      (elemBits o.ty = 1 ∧ (o.strides.take (o.rank - 1)).any (fun t => t % 8 != 0)) then some 5
  else if (o.space ≠ 4 ∧ o.dev ≠ 0) ∨ 2 ^ 14 ≤ o.dev then some 6
  else if o.hasReg && !regionFits s.regions o then some 7
  else if (o.exact ∧ o.space ≠ 2) ∨ (o.perm ≠ 0 ∧ o.space ≠ 0) then some 8
  else if 47 < o.perm then some 9
  else if o.xforms.any (fun x => !stepOk o x) ∨ !stepsInOrder o.xforms ∨ (o.padsz != 0) != o.packs ∨ 9 < o.padsz then some 10
  else if o.space ≠ 4 ∧ (piecesOf ltt o.base o.footprint).any (fun p => match p.entry with
      | none => true
      | some e => e.2.space != o.space) then some 11
  else if o.space = 0 ∧ coreBytes < o.base + o.footprint then some 12
  else none

/-- The object that SEAL writes: its seal check, and the channel map of the moment (R105, R285). -/
def sealed (s : State) (raw : List Byte) : Shape :=
  let o := parseShape raw
  { o with sealchk := o.crc, chanMap := s.cmap }

/-- thnd for a handle and its object (R286). -/
def hndWord (h : Nat) (o : Option Shape) : Word :=
  BitVec.ofNat 64 ((match o with | none => 0 | some o => o.dev <<< 32 + (o.space % 8) <<< 16) + 1024 + h)

/-- The entry of a handle (R107). -/
def Core.handle (k : Core) (h : Nat) : Option Shape := (k.handles.find? (fun e => e.1 == h)).map (·.2)

/-- Put an entry into a list kept in rising order of its first component. -/
def insertEntry {α : Type} (h : Nat) (o : α) : List (Nat × α) → List (Nat × α)
  | [] => [(h, o)]
  | e :: r => if h < e.1 then (h, o) :: e :: r else if h = e.1 then (h, o) :: r else e :: insertEntry h o r

/-- Drop an entry. -/
def eraseEntry {α : Type} (h : Nat) (l : List (Nat × α)) : List (Nat × α) := l.filter (fun e => e.1 != h)

/-- Checks 2 and 3 of R126: the object of a handle, or what naming it raises. -/
def useHandle (k : Core) (h : Nat) : Except TrapInfo Shape :=
  match k.handle h with
  | none => .error { cause := .sealFail, detail := 14, hnd := hndWord h none }
  | some o => if o.crc = o.sealchk then .ok o
    else .error { cause := .eccUncorrectable, hnd := hndWord h (some o), aux0 := 4 }

/-- R332: every byte of the first `8 × limit` bytes of the tape's object lies in its footprint and in an entry that is present,
writable and pinned (R333, R337). -/
def tapeCovers (k : Core) (limit : Nat) : Bool :=
  match k.tape.obj with
  | none => false
  | some o => decide (8 * limit ≤ o.footprint) && (piecesOf k.ltt o.base (8 * limit)).all (fun p => match p.entry with
      | none => false
      | some (_, e) => e.space == o.space && decide (e.state = .present) && e.w && e.pin)

/-- The translations of a range of bytes of the tape's object (R332). -/
def tapeXlats (k : Core) (o : Shape) (off len : Nat) : List Xlat :=
  (piecesOf k.ltt (o.base + off) len).filterMap (fun p => p.entry.map (·.2))

end Sys2Proof.Machine
end

