-- ==== Sys2Proof/Machine/Csr.lean ====
section
/-! DEFINITION. The control registers (R97–R100, R23, R31, R34, R37, R43, R286, R333) and the instructions that reach them. -/
namespace Sys2Proof.Machine

/-- The access classes of R98. -/
inductive CsrClass where
  | ro | rw | w1c | sv
  deriving DecidableEq, Repr

/-- The class of a control-register number, none if the map does not list it (R99, R286). -/
def csrClass (n : Nat) : Option CsrClass :=
  if n ≤ 2 then some .ro
  else if 4 ≤ n ∧ n ≤ 6 then some .ro
  else if 8 ≤ n ∧ n ≤ 10 then some .ro
  else if 12 ≤ n ∧ n ≤ 14 then some .ro
  else if n = 0x10 then some .rw
  else if n = 0x11 then some .ro
  else if n = 0x12 then some .w1c
  else if n = 0x18 ∨ n = 0x19 then some .sv
  else if 0x20 ≤ n ∧ n ≤ 0x22 then some .rw
  else if 0x30 ≤ n ∧ n ≤ 0x39 then some .sv
  else if 0x40 ≤ n ∧ n ≤ 0x47 then some .ro
  else if n = 0x50 then some .sv
  else if 0x100 ≤ n ∧ n ≤ 0x102 then some .sv
  else if 0x110 ≤ n ∧ n ≤ 0x12F then some .sv
  else none

/-- cycles: device cycles since the streams started, running time only (R99, R359). -/
def Core.cycles (k : Core) (now : Nat) : Nat :=
  k.cyclesBase + (match k.cyclesSince with | none => 0 | some t => now - t)

/-- ticks: cycles / 1,024 (R99). -/
def Core.ticks (k : Core) (now : Nat) : Nat := k.cycles now / 1024

/-- A queue sequence register: TAIL in [63:32], HEAD in [31:0] (R23). -/
def Queue.seqWord {α : Type} (q : Queue α) : Word :=
  BitVec.ofNat 64 ((q.head + BitVec.ofNat 32 q.items.length).toNat * 2 ^ 32 + q.head.toNat)

/-- cstat (R100). -/
def Core.cstat (k : Core) : Word :=
  BitVec.ofNat 64 ((if k.halted then 8 else 0) + k.depth * 2 + (if k.sup then 1 else 0))

/-- coreid (R100). -/
def Core.coreid (k : Core) : Word :=
  BitVec.ofNat 64 (k.num * 65536 + dieOf k.num * 256 + (groveOf k.num % 10) * 16 + k.num % 8)

/-- kcnt (R100). -/
def Core.kcnt (k : Core) : Word :=
  BitVec.ofNat 64 (k.tokens[5] <<< 40 + k.tokens[4] <<< 32 + k.tokens[3] <<< 24 + k.tokens[2] <<< 16 +
    k.tokens[1] <<< 8 + k.tokens[0])

/-- tapest (R333). -/
def Tape.word (t : Tape) : Word :=
  BitVec.ofNat 64 (t.mode <<< 62 + (if t.incomplete then 1 <<< 61 else 0) + (if t.drop then 1 <<< 60 else 0) +
    t.handle <<< 50 + t.limit <<< 25 + t.pos)

/-- A register of a trap bank by its low four number bits (R286). -/
def TrapBank.reg (b : TrapBank) : Nat → Word
  | 0 => b.tcause | 1 => b.tpcc | 2 => b.tpca | 3 => b.tpcx | 4 => b.taddr | 5 => b.thnd | 6 => b.tissue
  | 7 => b.taux0 | 8 => b.taux1 | 9 => b.taux2
  | _ => 0

/-- Bank 0 for 0x110–0x11F, bank 1 for 0x120–0x12F, if in use (R286). -/
def Core.bankOf (k : Core) (n : Nat) : Option TrapBank := k.banks[n / 16 - 0x11]?

/-- The value of a control register (R99). -/
def State.csr (s : State) (n : Nat) : Word :=
  let k := s.core
  if n = 0 then k.cstat
  else if n = 1 then k.coreid
  else if n = 2 then BitVec.ofNat 64 (s.devid % 2 ^ 14)
  else if n = 4 then BitVec.ofNat 64 (k.cycles s.now)
  else if n = 5 then BitVec.ofNat 64 (k.ticks s.now)
  else if n = 6 then k.tbudget
  else if n = 8 then k.dmem
  else if n = 9 then BitVec.ofNat 64 (k.tphase.toNat * 2 ^ 32 + k.gphase.toNat)
  else if n = 10 then k.gen
  else if n = 12 then s.syncclk
  else if n = 13 then k.lastrel
  else if n = 14 then k.lastacq
  else if n = 0x10 then k.mvthr
  else if n = 0x11 then k.mlate
  else if n = 0x12 then ofBool k.isat
  else if n = 0x18 then k.slipmax
  else if n = 0x19 then zext k.ldcnt
  else if n = 0x20 then k.wdc
  else if n = 0x21 then k.wda
  else if n = 0x22 then k.wdx
  else if n = 0x30 then k.lq[0].seqWord
  else if n = 0x31 then k.lq[1].seqWord
  else if n = 0x32 then k.lq[2].seqWord
  else if n = 0x33 then k.lq[3].seqWord
  else if n = 0x34 then k.sq.seqWord
  else if n = 0x35 then k.vq.seqWord
  else if n = 0x36 then k.bqa.seqWord
  else if n = 0x37 then k.bqx.seqWord
  else if n = 0x38 then k.fq.seqWord
  else if n = 0x39 then k.kcnt
  else if 0x40 ≤ n ∧ n ≤ 0x47 then k.sh.getD (n - 0x40) 0
  else if n = 0x50 then k.tape.word
  else if n = 0x100 then k.tvec
  else if n = 0x101 then k.tscr0
  else if n = 0x102 then k.tscr1
  else if 0x110 ≤ n ∧ n ≤ 0x12F then (match k.bankOf n with | none => 0 | some b => b.reg (n % 16))
  else 0

/-- A value fits the low `w` bits. -/
def fits (x : Word) (w : Nat) : Bool := decide (x.toNat < 2 ^ w)

/-- A write to a register of a bank in use (R286): only FAIL and SKIP may change. -/
def writeBank (b : TrapBank) (n : Nat) (new : Word) : Option TrapBank :=
  let old := b.reg n
  let mask : Word := if n = 0 then 0x100 else if 1 ≤ n ∧ n ≤ 3 then 0x100000 else 0
  if (old ^^^ new) &&& ~~~mask ≠ 0 then none
  else if n = 0 then
    let origin := if bits old 10 2 = 2 then StreamId.X else if bits old 10 2 = 1 then .A else .C
    let must := match Cause.ofCode (bits old 0 8) with | some c => fatal origin c | none => false
    if must && !new.getLsbD 8 then none else some { b with tcause := new }
  else if 1 ≤ n ∧ n ≤ 3 then
    if new.getLsbD 20 && decide (bits new 21 3 = 3) then none
    else if n = 1 then some { b with tpcc := new }
    else if n = 2 then some { b with tpca := new }
    else some { b with tpcx := new }
  else some b

/-- A write to tapest (R333). -/
def writeTape (k : Core) (new : Word) : Option Core :=
  let t := k.tape
  let mask : Word := 0x3000000000000000 ||| 0x0003FFFFFE000000
  let lim := bits new 25 25
  if (t.word ^^^ new) &&& ~~~mask ≠ 0 then none
  else if lim = 0 ∨ (lim ≠ t.limit ∧ (t.limit = 0 ∨ lim < 2 + t.pos ∨ lim < 2)) then none
  else if lim ≠ t.limit ∧ !tapeCovers k lim then none
  else some { k with tape := { t with
    incomplete := new.getLsbD 61, drop := new.getLsbD 60, limit := lim
    xlats := t.xlats ++ (match t.obj with | some o => tapeXlats k o (8 * t.limit) (8 * (lim - t.limit)) | none => []) } }

/-- Step 4 of R98 and the write itself, for a register that the access may write. -/
def writeCsr (k : Core) (n : Nat) (new : Word) : Option Core :=
  if n = 0x10 then if fits new 16 then some { k with mvthr := new } else none
  else if n = 0x18 then if 1 ≤ new.toNat ∧ new.toNat ≤ 256 then some { k with slipmax := new } else none
  else if n = 0x19 then if fits new 32 then some { k with ldcnt := new.setWidth 32 } else none
  else if n = 0x20 then if fits new 32 then some { k with wdc := new } else none
  else if n = 0x21 then if fits new 32 then some { k with wda := new } else none
  else if n = 0x22 then if fits new 32 then some { k with wdx := new } else none
  else if n = 0x50 then writeTape k new
  else if n = 0x100 then
    if new.toNat % 4 = 0 ∧ 0xC000 ≤ new.toNat ∧ new.toNat ≤ 0xFFFC then some { k with tvec := new } else none
  else if n = 0x101 then some { k with tscr0 := new }
  else if n = 0x102 then some { k with tscr1 := new }
  else if 0x110 ≤ n ∧ n ≤ 0x12F then
    if 10 ≤ n % 16 then none
    else match k.bankOf n with
      | none => some k
      | some b => (writeBank b (n % 16) new).map (fun b => { k with banks := k.banks.set (n / 16 - 0x11) b })
  else none

/-- The record of a trap that a control-register access raises: taux1 is the register's number (R287). -/
def csrTrap (st : StreamId) (s : State) (c : Cause) (n : Nat) : TrapInfo := { wordTrap st s c with aux1 := BitVec.ofNat 64 n }

/-- R98 steps 1 and 2: the class of the register, or what the access raises. -/
def csrAccess (st : StreamId) (s : State) (n : Nat) : Except TrapInfo CsrClass :=
  match csrClass n with
  | none => .error (csrTrap st s .illegal n)
  | some .sv => if st = .C && s.core.sup then .ok .sv else .error (csrTrap st s .priv n)
  | some c => .ok c

/-- CSRR (R97). -/
def csrRead (st : StreamId) (s : State) (n : Nat) (ret : Word → Act) : Act :=
  match csrAccess st s n with
  | .error t => .raise t
  | .ok _ => ret (s.csr n)

/-- CSRW, CSRS and CSRC (R97, R98): `how` gives the new value from the old and the operand. On a W1C register CSRW writes
the mask of bits to clear, and CSRS and CSRC raise ILLEGAL after the checks. -/
def csrWrite (st : StreamId) (s : State) (n : Nat) (plain : Bool) (how : Word → Word → Word) (x : Word) : Act :=
  match csrAccess st s n with
  | .error t => .raise t
  | .ok .ro => .raise (csrTrap st s .illegal n)
  | .ok .w1c =>
    if plain && fits (how (s.csr n) x) 1 then
      .retire (s.setCore { s.core with isat := s.core.isat && !(how (s.csr n) x).getLsbD 0 })
    else .raise (csrTrap st s .illegal n)
  | .ok _ =>
    match writeCsr s.core n (how (s.csr n) x) with
    | none => .raise (csrTrap st s .illegal n)
    | some k => .retire (s.setCore k)

/-- CSRR (R97). -/
def execCCsrr (y : BitVec 4) (d : Reg) (csr : BitVec 11) (s : State) : Host.Outcome State Fault Refusal :=
  issue .C y s (fun s => csrRead .C s csr.toNat (fun v => .retire (s.ws d v)))

/-- CSRW (R97). -/
def execCCsrw (y : BitVec 4) (a : Reg) (csr : BitVec 11) (s : State) : Host.Outcome State Fault Refusal :=
  issue .C y s (fun s => csrWrite .C s csr.toNat true (fun _ x => x) (s.rs a))

/-- CSRS (R97). -/
def execCCsrs (y : BitVec 4) (a : Reg) (csr : BitVec 11) (s : State) : Host.Outcome State Fault Refusal :=
  issue .C y s (fun s => csrWrite .C s csr.toNat false (fun r x => r ||| x) (s.rs a))

/-- CSRC (R97). -/
def execCCsrc (y : BitVec 4) (a : Reg) (csr : BitVec 11) (s : State) : Host.Outcome State Fault Refusal :=
  issue .C y s (fun s => csrWrite .C s csr.toNat false (fun r x => r &&& ~~~x) (s.rs a))

/-- The X-stream's CSRR (R193). -/
def execXCsrr (y : BitVec 4) (d : Reg) (csr : BitVec 11) (s : State) : Host.Outcome State Fault Refusal :=
  issue .X y s (fun s => csrRead .X s csr.toNat (fun v => .retire (s.wx d v)))

/-- The X-stream's CSRW (R193). -/
def execXCsrw (y : BitVec 4) (a : Reg) (csr : BitVec 11) (s : State) : Host.Outcome State Fault Refusal :=
  issue .X y s (fun s => csrWrite .X s csr.toNat true (fun _ x => x) (s.rx a))

/-- BOUND (R112, R134, R193): a value with bits [63:32] set raises ILLEGAL. -/
def boundAct (st : StreamId) (s : State) (x : Word) : Act :=
  if !fits x 32 then .raise (illegal st s)
  else .retire (s.setCore (match st with
    | .C => { s.core with wdc := x }
    | .A => { s.core with wda := x }
    | .X => { s.core with wdx := x }))

/-- BOUND of the C-stream (R112). -/
def execCBound (y : BitVec 4) (a : Reg) (s : State) : Host.Outcome State Fault Refusal :=
  issue .C y s (fun s => boundAct .C s (s.rs a))

/-- BOUND of the X-stream (R193). -/
def execXBound (y : BitVec 4) (a : Reg) (s : State) : Host.Outcome State Fault Refusal :=
  issue .X y s (fun s => boundAct .X s (s.rx a))

end Sys2Proof.Machine
end

