-- ==== Sys2Proof/Machine/Queues.lean ====
section
/-! DEFINITION. The queues between the streams, slip and loss of decoupling (R19–R22, R30–R33, R161). -/
namespace Sys2Proof.Machine

/-- Entries of a queue by its code of R65, 8 for fq (R19, R288). -/
def queueDepth (q : Nat) : Nat :=
  if q ≤ 4 then 64 else if q = 5 then 32 else if q ≤ 7 then 128 else 64

/-- The tail sequence number (R20). -/
def Queue.tail {α : Type} (q : Queue α) : BitVec 32 := q.head + BitVec.ofNat 32 q.items.length

/-- Append at the tail (R7, R20). -/
def Queue.push {α : Type} (q : Queue α) (x : α) : Queue α := { q with items := q.items ++ [x] }

/-- Remove the entry at the head (R7, R20). -/
def Queue.drop {α : Type} (q : Queue α) : Queue α := { head := q.head + 1, items := q.items.tail }

/-- Remove `n` entries at the head. -/
def Queue.dropN {α : Type} (q : Queue α) (n : Nat) : Queue α := { head := q.head + BitVec.ofNat 32 n, items := q.items.drop n }

/-- Change the entry with a sequence number, if the queue holds it (R22). -/
def Queue.fill {α : Type} (q : Queue α) (seq : BitVec 32) (f : α → α) : Queue α :=
  { q with items := q.items.modify (seq - q.head).toNat f }

/-- Slip: the occupancies of lq0–lq3 together (R30). -/
def Core.slip (k : Core) : Nat :=
  k.lq[0].items.length + k.lq[1].items.length + k.lq[2].items.length + k.lq[3].items.length

/-- A load queue. -/
def Core.loadQueue (k : Core) (q : LqNum) : Queue LqEntry := k.lq[q]

def Core.setLoadQueue (k : Core) (q : LqNum) (v : Queue LqEntry) : Core := { k with lq := k.lq.set q v }

/-- Why `n` entries cannot be reserved in a load queue at once, if they cannot (R21, R30, R161). -/
def lqWait (k : Core) (q : LqNum) (n : Nat) : Option Wait :=
  if 64 < (k.loadQueue q).items.length + n then some (.push q.val n)
  else if k.slipmax.toNat < k.slip + n then some (.slip q.val n)
  else none

/-- Reserve `n` entries in a load queue (R22). -/
def Core.reserve (k : Core) (q : LqNum) (n : Nat) : Core :=
  k.setLoadQueue q { k.loadQueue q with items := (k.loadQueue q).items ++ List.replicate n {} }

/-- tissue of a deferred error: DEF and the PC of the issuing instruction (R286). -/
def issueWord (pc : Word) : Word := BitVec.ofNat 64 (2 ^ 17 + pc.toNat % 2 ^ 17)

/-- The trap that reports a deferred error (R128): its record names the issuing instruction. -/
def Deferred.trap (d : Deferred) : TrapInfo := { d.info with issue := issueWord d.pc }

/-- Pop the head entry of a load queue for a stream (R21, R22): it waits for an entry and for its data; an entry whose data
carries an error raises it and is not removed (R175). -/
def popLq (s : State) (q : LqNum) (ret : State → Vec → Act) : Act :=
  match (s.core.loadQueue q).items with
  | [] => .block s (.pop q.val 1)
  | e :: _ =>
    match e.error, e.data with
    | some d, _ => .raise d.trap
    | none, none => .block s (.entry q.val)
    | none, some v => ret (s.setCore (s.core.setLoadQueue q (s.core.loadQueue q).drop)) v

/-- Push a vector to sq, waiting for room (R21). -/
def pushSq (s : State) (v : Vec) : Act :=
  if 64 ≤ s.core.sq.items.length then .block s (.push 4 1)
  else .retire (s.setCore { s.core with sq := s.core.sq.push v })

/-- Count a loss of decoupling once for the instruction at pc of the A-stream (R33, R34). -/
def countLoss (s : State) : State :=
  if s.core.a.counted then s
  else s.setCore { s.core with
    ldcnt := if s.core.ldcnt = BitVec.allOnes 32 then s.core.ldcnt else s.core.ldcnt + 1
    a := { s.core.a with counted := true } }

/-- Pop one bit of an outcome queue (R32, R138): not before 2 cycles after its push; a reserved bit is waited for.
An entry that stands in the queue but is younger is no empty queue (DEDUCED, log 13). -/
def popOutcome (s : State) (code : Nat) (q : Queue OutBit) (empty : State → Act) (ret : State → Queue OutBit → Bool → Act) : Act :=
  match q.items with
  | [] => empty s
  | e :: _ =>
    match e.error, e.bit with
    | some d, _ => .raise d.trap
    | none, none => .block s (.entry code)
    | none, some b => if s.now < e.since + 2 then .block s (.pop code 1) else ret s q.drop b

end Sys2Proof.Machine
end

