-- ==== Sys2Proof/Machine/TapeUnit.lean ====
section
/-! DEFINITION. The tape unit: its object, records, appending and replay (R190–R192, R331–R342), and the operations in flight. -/
namespace Sys2Proof.Machine

/-! ### Operations in flight -/

/-- Put an operation into flight under the next number, with the issuing core's generation tag (R113). -/
def State.begin (s : State) (f : Flight) : State :=
  { s with flights := s.flights ++ [{ f with id := s.nextId, issued := s.now, gen := s.core.gen }], nextId := s.nextId + 1 }

/-- The operation with a number. -/
def State.flight? (s : State) (id : Nat) : Option Flight := s.flights.find? (fun f => f.id == id)

/-- Replace an operation. -/
def State.putFlight (s : State) (f : Flight) : State :=
  { s with flights := s.flights.map (fun g => if g.id = f.id then f else g) }

/-- An operation is over. -/
def State.dropFlight (s : State) (id : Nat) : State := { s with flights := s.flights.filter (fun f => f.id != id) }

/-- The numbers of the operations in flight that satisfy a test. -/
def State.opsWhere (s : State) (p : Flight → Bool) : List Nat := (s.flights.filter p).map (·.id)

/-- Those of a list of operations that are still in flight. -/
def State.still (s : State) (ids : List Nat) : List Nat := ids.filter (fun i => s.flights.any (fun f => f.id == i))

/-- Wait until operations have committed: which ones is fixed when the instruction first gets here (R109, R12). -/
def awaitOps (st : StreamId) (opcode : Nat) (s : State) (ids : List Nat) (k : State → Act) : Act :=
  let v := s.stream st
  let want := match v.awaited with | some l => l | none => ids
  let left := s.still want
  if left.isEmpty then k (s.setStream st { v with awaited := some [] })
  else .block (s.setStream st { v with awaited := some left }) (.commits opcode left)

/-! ### Ordering and scopes (R67, R130, R229) -/

/-- ORD has the release half, the acquire half (R67). -/
def isRel (ord : BitVec 2) : Bool := ord.getLsbD 1
def isAcq (ord : BitVec 2) : Bool := ord.getLsbD 0

/-- A scope covers an operation (R229). -/
def covers (sco : BitVec 2) (spaces : List Nat) : Bool :=
  match sco.toNat with
  | 0 => spaces.contains 0
  | 1 => spaces.any (fun p => p != 4 && p != 5)
  | 2 => spaces.any (fun p => p != 4)
  | _ => true

/-- The operations of the core in focus that a release at a scope waits for. -/
def coveredOps (s : State) (sco : BitVec 2) : List Nat := s.opsWhere (fun f => f.core == s.core.num && covers sco f.spaces)

/-- Accesses that the A-stream performs itself (R130). -/
def Job.direct : Job → Bool
  | .ld _ _ _ | .ldt _ _ | .ldv _ _ _ _ _ _ _ _ _ | .lda _ | .store => true
  | _ => false

/-- An access that takes a place in the single order of `.sc` operations of the device (R231). -/
def placedSc (ord sco : BitVec 2) : Bool := ord == 3 && sco != 0

/-- The operations that the releases of the core in focus still wait for. -/
def awaitedByReleases (s : State) : List Nat := s.flights.flatMap (fun f => if f.core == s.core.num && isRel f.ord then f.after else [])

/-- What must be over before an access of the core in focus to these spaces performs: acquiring accesses that still hold it
back (R130, R229); the engine's operations that a release before it waits for (R226); for a release, every covered operation; for
an `.sc` access, those before it (R231). What was issued before counts as earlier in core order (DEDUCED, log 117). -/
def orderAfter (s : State) (ord sco : BitVec 2) (spaces : List Nat) : List Nat :=
  s.opsWhere (fun f => f.core == s.core.num &&
    ((isAcq f.ord && covers f.sco spaces) || (!f.job.direct && (awaitedByReleases s).contains f.id) ||
      (isRel ord && covers sco f.spaces) || (placedSc ord sco && placedSc f.ord f.sco)))

/-- What must be over before an operation of an engine or a unit performs: also the A-stream's own accesses that a release between the
two waits for (R145, R226, R227). -/
def engineAfter (s : State) (ord sco : BitVec 2) (spaces : List Nat) : List Nat :=
  orderAfter s ord sco spaces ++
    s.opsWhere (fun f => f.core == s.core.num && f.job.direct && (awaitedByReleases s).contains f.id)

/-- An operation that another device or the host must serve. -/
def Flight.outside (f : Flight) : Bool :=
  f.spaces.contains 4 || f.spaces.contains 5 || (match f.job with | .flush _ => true | _ => false)

/-- The operations that cannot perform before another device or the host has answered: in issue order each stands after those that it
follows. -/
def outsideOps (s : State) : List Nat :=
  s.flights.foldl (fun l f => if f.outside || f.after.any l.contains then f.id :: l else l) []

/-- What a FENCE waits for: with a release half every covered operation, with `.sc` also the `.sc` accesses before it (R229, R231). -/
def fenceOps (s : State) (ord sco : BitVec 2) : List Nat :=
  s.opsWhere (fun f => f.core == s.core.num && ((isRel ord && covers sco f.spaces) || (placedSc ord sco && placedSc f.ord f.sco)))

/-! ### The tape's bytes -/

/-- ECC_UNCORRECTABLE of near memory, as the tape raises it (R332, R339). -/
def tapeEcc : TrapInfo := { cause := .eccUncorrectable, aux0 := 2 }

/-- The parts of bytes of the tape's object; none where an entry has changed since it was bound (R332). -/
def tapePieces (k : Core) (off len : Nat) : Option (List Piece) :=
  match k.tape.obj with
  | none => none
  | some o =>
    let ps := piecesOf k.ltt (o.base + off) len
    if ps.all (fun p => match p.entry with | none => false | some (_, e) => k.tape.xlats.contains e) then some ps else none

/-- The keys of the bytes of some segments. -/
def keysOf (l : List Seg) : List Nat := l.flatMap (fun g => (List.range g.len).map (g.key + ·))

/-- The newest byte that a list of segments writes at a key. -/
def segByte (segs : List Seg) (key : Nat) : Option Byte :=
  match segs.find? (fun g => decide (g.key ≤ key) && decide (key < g.key + g.len)) with
  | none => none
  | some g => g.data[key - g.key]?

/-- The byte that the core's newest uncommitted tape write has at a key, if one writes there (R339). -/
def tapePending (s : State) (key : Nat) : Option Byte :=
  (s.flights.reverse.filter (fun f => f.core == s.core.num && f.job == .tapeWrite)).findSome? (fun f => segByte f.todo key)

/-- Bytes of the tape's object as the core's own tape writes leave them, committed or not (R192, R339). Of a read-duplicated page they are
read from the copy under the core's die, and written at PHYS (R313). An uncorrectable unit counts for the bytes that are read from memory. -/
def tapeRead (s : State) (off len : Nat) : Except TrapInfo (List Byte) :=
  match tapePieces s.core off len with
  | none => .error tapeEcc
  | some ps =>
    let places := (keysOf (segsOf s.core.num true ps)).zip (keysOf (segsOf s.core.num false ps))
    if places.any (fun p => s.poisoned p.2 1 && (tapePending s p.1).isNone) then .error tapeEcc
    else .ok (places.map (fun p => (tapePending s p.1).getD (Memory.get s.mem p.2)))

/-- Cut the bytes of a write into its segments. -/
def fillSegs : List Seg → List Byte → List Seg
  | [], _ => []
  | g :: r, l => { g with data := l.take g.len } :: fillSegs r (l.drop g.len)

/-- The read-duplicated pages that a write of these parts meets: space, place, size (R313). -/
def pieceDups (ps : List Piece) : List (Nat × Nat × Nat) :=
  ps.filterMap (fun p => match p.entry with
    | some (_, e) => if e.rdup then some (e.space, e.phys, e.size) else none
    | none => none)

/-- Issue one tape write (R192): a plain write in the background, never race-checked; an acquire before it holds it back (R229), and it
waits, as any write, for the other copy of a read-duplicated page (R313). -/
def tapeWrite (s : State) (st : StreamId) (off : Nat) (data : List Byte) : Except TrapInfo State :=
  match tapePieces s.core off data.length with
  | none => .error tapeEcc
  | some ps =>
    .ok (s.begin { id := 0, core := s.core.num, stream := st, pc := (s.stream st).pc, write := true, spaces := [2], job := .tapeWrite,
                   after := engineAfter s 0 0 [2], dups := pieceDups ps, todo := fillSegs (segsOf s.core.num true ps) data })

/-! ### Records (R334, R335) -/

/-- A record: kind, width code, mask and payload bytes, a multiple of 8. -/
structure Record where
  kind : Nat
  width : Nat
  mask : Word
  payload : List Byte
  deriving DecidableEq, Repr

/-- The header word (R334). -/
def Record.header (r : Record) : Nat := r.kind <<< 28 + r.width <<< 26 + r.payload.length / 4

/-- The bytes of a record (R334). -/
def Record.bytes (r : Record) : List Byte :=
  leBytes 4 r.header ++ leBytes 8 r.mask.toNat ++ r.payload ++ leBytes 4 r.header

/-- Bits in a field of a width code (R334). -/
def widthBits : Nat → Nat
  | 0 => 8
  | 1 => 16
  | 2 => 32
  | _ => 64

/-- The lanes of a vector whose predicate bit is set, in ascending order. -/
def activeLanes (v : Vec) (p : Word) : List Lane :=
  (List.range 64).filterMap (fun i => if p.getLsbD i then some (v.toList.getD i 0) else none)

/-- A lane equals SEXT of its own low `w` bits (R335). -/
def narrow (w : Nat) (l : Lane) : Bool := decide (((BitVec.ofNat w l.toNat).signExtend 32) = l)

/-- Fill with zero bytes up to a multiple of 8. -/
def pad8 (l : List Byte) : List Byte := l ++ List.replicate ((8 - l.length % 8) % 8) 0

/-- The value record of the selected lanes of a vector (R335). -/
def valueRecord (v : Vec) (p : Word) : Record :=
  let ls := activeLanes v p
  let w := if ls.all (narrow 8) then 0 else if ls.all (narrow 16) then 1 else 2
  ⟨1, w, p, pad8 (ls.flatMap (fun l => leBytes (widthBits w / 8) l.toNat))⟩

def scalarRecord (x : Word) : Record := ⟨2, 3, 1, leBytes 8 x.toNat⟩
def maskRecord (p : Word) : Record := ⟨3, 0, p, []⟩
def markRecord (x : Word) : Record := ⟨4, 3, 1, leBytes 8 x.toNat⟩

/-- The kind of the last record, 0 if there is none (R287). -/
def lastKind (s : State) : Nat :=
  if s.core.tape.pos = 0 then 0
  else match tapeRead s (16 + 8 * s.core.tape.pos - 4) 4 with
    | .error _ => 0
    | .ok l => leNat l / 2 ^ 28

def State.setTape (s : State) (t : Tape) : State := s.setCore { s.core with tape := t }

/-- Append a record in recording mode (R336); `t` is the state with the instruction's other effects. -/
def record (t s : State) (r : Record) : Act :=
  let tp := s.core.tape
  let size := r.bytes.length
  if tp.drop then .retire (t.setTape { tp with incomplete := true, dropped := min (2 ^ 32 - 1) (tp.dropped + 1) })
  else if 8 * tp.limit < 16 + 8 * tp.pos + size then
    .raise { cause := .tapeFull, aux0 := BitVec.ofNat 64 (8 * tp.pos), aux1 := BitVec.ofNat 64 (lastKind s),
             aux2 := BitVec.ofNat 64 size }
  else match tapeWrite t .X (16 + 8 * tp.pos) r.bytes with
    | .error e => .raise e
    | .ok u => .retire (u.setTape { tp with pos := tp.pos + size / 8 })

/-- The header that the end of a recording writes (R331, R338). -/
def tapeHeader (t : Tape) : List Byte :=
  leBytes 8 (8 * t.pos) ++ leBytes 1 t.incomplete.toNat ++ leBytes 3 0 ++ leBytes 4 t.dropped

/-- VTAPE, XTAPE, PTAPE and TMARK outside replay: with a tape bound they have no effect in the off mode (R190); with none they raise
ILLEGAL_SEQUENCE (R116). R190 names no such exception to its off mode: the sentence on the narrower case is followed (DEDUCED, log 218). -/
def recordAct (s : State) (r : Record) : Act :=
  if s.core.tape.mode = 1 then record s s r
  else if s.core.tape.mode = 0 ∧ s.core.tape.limit ≠ 0 then .retire s
  else .raise (illegalSequence .X s)

/-- The record before the tape position, or what a pop that wants a kind raises (R339): the record and its size. -/
def lastRecord (s : State) (want : Nat) : Except TrapInfo (Record × Nat) :=
  let tp := s.core.tape
  let trap := fun (c : Cause) (k : Nat) =>
    ({ cause := c, aux0 := BitVec.ofNat 64 (8 * tp.pos), aux1 := BitVec.ofNat 64 k, aux2 := BitVec.ofNat 64 want } : TrapInfo)
  if tp.pos = 0 then .error (trap .tapeEmpty 0)
  else match tapeRead s (16 + 8 * tp.pos - 4) 4 with
    | .error e => .error e
    | .ok fb =>
      let f := leNat fb
      let kind := f / 2 ^ 28
      let width := f / 2 ^ 26 % 4
      let len := f % 256
      let size := 16 + 4 * len
      if 8 * tp.pos < size ∨ len % 2 = 1 ∨ 64 < len then .error (trap .tapeKind 15)
      else match tapeRead s (16 + 8 * tp.pos - size) size with
        | .error e => .error e
        | .ok rb =>
          let mask := BitVec.ofNat 64 (fieldAt rb 4 8)
          let shapeOk :=
            if kind = 1 then decide (width ≠ 3) && decide (len = 2 * ((popCount mask * widthBits width + 63) / 64))
            else if kind = 2 ∨ kind = 4 then decide (width = 3) && decide (len = 2) && decide (mask = 1)
            else if kind = 3 then decide (width = 0) && decide (len = 0)
            else false
          if fieldAt rb 0 4 ≠ f ∨ !shapeOk then .error (trap .tapeKind 15)
          else if kind ≠ want then .error (trap .tapeKind kind)
          else .ok (⟨kind, width, mask, (rb.drop 12).take (4 * len)⟩, size)

/-- A pop of a kind in replay (R190, R339). -/
def popRecord (s : State) (want : Nat) (ret : State → Record → Act) : Act :=
  if s.core.tape.mode ≠ 2 then .raise (illegalSequence .X s)
  else match lastRecord s want with
    | .error e => .raise e
    | .ok (r, size) => ret (s.setTape { s.core.tape with pos := s.core.tape.pos - size / 8 }) r

/-- The lanes a value record restores; the others keep their contents (R190, R335). -/
def restoreLanes (old : Vec) (r : Record) : Vec :=
  let w := widthBits r.width
  let fields := (chunks 64 (w / 8) r.payload).map (fun c => (BitVec.ofNat w (leNat c)).signExtend 32)
  Vector.ofFn (fun i => if r.mask.getLsbD i.val then fields.getD (((List.range i.val).filter (fun j => r.mask.getLsbD j)).length) 0
    else old[i])

/-- The deferred report of an index of R302, if any. -/
def Core.report? (k : Core) (i : Nat) : Option Deferred := (k.reports.find? (fun r => r.1 == i)).map (·.2)

/-- A report is owed at an index: the first is kept (R302). -/
def Core.defer (k : Core) (i : Nat) (d : Deferred) : Core :=
  if (k.report? i).isSome then k else { k with reports := (i, d) :: k.reports }

/-- If a report is owed at an index, raise it and owe it no longer (R128). -/
def reportFirst (s : State) (i : Nat) (k : Act) : Act :=
  match s.core.report? i with
  | none => k
  | some d => .report (s.setCore { s.core with reports := eraseEntry i s.core.reports }) d.trap

/-- The end of a recording (R338): the header is written, then every tape write of the core must commit. -/
def endRecording (s : State) : Except TrapInfo State :=
  if s.core.tape.mode = 1 ∧ s.core.x.awaited = none then tapeWrite s .X 0 (tapeHeader s.core.tape) else .ok s

/-- The core's tape writes in flight. -/
def tapeOps (s : State) : List Nat := s.opsWhere (fun f => f.core == s.core.num && f.job == .tapeWrite)

/-- TAPEON (R190). -/
def execXTapeon (y : BitVec 4) (s : State) : Host.Outcome State Fault Refusal :=
  issue .X y s (fun s =>
    if s.core.tape.mode = 0 ∧ s.core.tape.limit ≠ 0 then .retire (s.setTape { s.core.tape with mode := 1 })
    else .raise (illegalSequence .X s))

/-- TAPEOFF (R190, R338). -/
def execXTapeoff (y : BitVec 4) (s : State) : Host.Outcome State Fault Refusal :=
  issue .X y s (fun s =>
    if s.core.tape.mode ≠ 1 then .retire (s.setTape { s.core.tape with mode := 0 })
    else match endRecording s with
      | .error e => .raise e
      | .ok t => awaitOps .X 0x71 t (tapeOps t) (fun u =>
          reportFirst u 34 (.retire (u.setTape { u.core.tape with mode := 0 }))))

/-- VTAPE (R190, R336). -/
def execXVtape (y : BitVec 4) (a : VReg) (g : PReg) (s : State) : Host.Outcome State Fault Refusal :=
  issue .X y s (fun s => recordAct s (valueRecord (s.rv a) (s.rp g)))

/-- XTAPE (R190, R336). -/
def execXXtape (y : BitVec 4) (a : Reg) (s : State) : Host.Outcome State Fault Refusal :=
  issue .X y s (fun s => recordAct s (scalarRecord (s.rx a)))

/-- PTAPE (R190, R336). -/
def execXPtape (y : BitVec 4) (a : PReg) (s : State) : Host.Outcome State Fault Refusal :=
  issue .X y s (fun s => recordAct s (maskRecord (s.rp a)))

/-- VUNTAPE (R190, R339). -/
def execXVuntape (y : BitVec 4) (d : VReg) (s : State) : Host.Outcome State Fault Refusal :=
  issue .X y s (fun s => popRecord s 1 (fun t r => .retire (t.wv d (restoreLanes (s.rv d) r))))

/-- XUNTAPE (R190, R339). -/
def execXXuntape (y : BitVec 4) (d : Reg) (s : State) : Host.Outcome State Fault Refusal :=
  issue .X y s (fun s => popRecord s 2 (fun t r => .retire (t.wx d (BitVec.ofNat 64 (leNat r.payload)))))

/-- PUNTAPE (R190, R339). -/
def execXPuntape (y : BitVec 4) (d : PReg) (s : State) : Host.Outcome State Fault Refusal :=
  issue .X y s (fun s => popRecord s 3 (fun t r => .retire (t.wp d r.mask)))

/-- TREV (R190, R339): POS from END of the header. -/
def execXTrev (y : BitVec 4) (s : State) : Host.Outcome State Fault Refusal :=
  issue .X y s (fun s =>
    if s.core.tape.mode ≠ 0 ∨ s.core.tape.limit = 0 then .raise (illegalSequence .X s)
    else match tapeRead s 0 8 with
      | .error e => .raise e
      | .ok l =>
        let e := leNat l
        if e % 8 ≠ 0 ∨ 8 * s.core.tape.limit < 16 + e then
          .raise { cause := .tapeKind, aux0 := BitVec.ofNat 64 (8 * s.core.tape.pos), aux1 := 15 }
        else .retire (s.setTape { s.core.tape with mode := 2, pos := e / 8 }))

/-- TMARK (R190, R191, R339). -/
def execXTmark (y : BitVec 4) (a : Reg) (s : State) : Host.Outcome State Fault Refusal :=
  issue .X y s (fun s =>
    if s.core.tape.mode = 2 then
      popRecord s 4 (fun t r =>
        if BitVec.ofNat 64 (leNat r.payload) = s.rx a then .retire t
        else .raise { cause := .tapeKind, aux0 := BitVec.ofNat 64 (8 * s.core.tape.pos), aux1 := 4, aux2 := 4 })
    else recordAct s (markRecord (s.rx a)))

end Sys2Proof.Machine
end

