-- ==== Sys2Proof/Machine/Operands.lean ====
section
/-! DEFINITION. Memory operands of the A-stream: the waits on registers, coordinates, the checks of R126, the segments of
an access and the lanes of its elements (R125–R129, R135–R137). -/
namespace Sys2Proof.Machine

/-! ### Registers with outstanding writers (R128, R129) -/

/-- The operations that have still to write an address register. -/
def State.writers (s : State) (r : Nat) : List Flight :=
  if r = 0 then [] else s.flights.filter (fun f => f.core == s.core.num && f.stream == .A && f.reg == some r)

/-- A copy, PUT or GET, whose byte count joins those of others on its token (R129, R144). -/
def Job.counts : Job → Bool
  | .copy _ _ => true
  | .put _ _ => true
  | .get _ _ => true
  | _ => false

/-- The reports that an instruction which reads these registers makes, before it acts (R128). -/
def reportRegs (s : State) : List Nat → Act → Act
  | [], k => k
  | r :: rest, k => if r = 0 then reportRegs s rest k else reportFirst s r (reportRegs s rest k)

/-- The report that awaits an address register is for its readers alone: that of an RFADD or an RCAS (R128). -/
def Core.readersOnly (k : Core) (r : Nat) : Bool := k.reports.any (fun p => p.1 == r && p.2.readOnly)

/-- The registers of some that an instruction writes whose reports it makes (R128). -/
def reportsOfWrites (k : Core) (regs : List Nat) : List Nat := regs.filter (fun r => !k.readersOnly r)

/-- An instruction reads and writes these address registers: it waits for their writers (R129), then reports (R128). -/
def withRegs (s : State) (reads writes : List Nat) (k : Act) : Act :=
  match (reads ++ writes).find? (fun r => !(s.writers r).isEmpty) with
  | some r => .block s (.scoreboard r)
  | none => reportRegs s (reads ++ reportsOfWrites s.core writes) k

/-- As `withRegs`, for a copy with this token: writers that are copies, PUTs or GETs are not waited for (R129), and an
error of theirs that is owed is reported. -/
def withToken (s : State) (tok : Nat) (k : Act) : Act :=
  if (s.writers tok).all (fun f => f.job.counts) then reportRegs s (reportsOfWrites s.core [tok]) k else .block s (.scoreboard tok)

/-! ### Checks (R126) -/

/-- The answer of a check: it passes, it raises, or it waits for a page that is migrating in (R309). -/
inductive Check (α : Type) where
  | ok (a : α)
  | trap (t : TrapInfo)
  | wait (w : Wait)
  deriving DecidableEq, Repr

/-- Go on if the check passes. -/
def Check.act {α : Type} (c : Check α) (s : State) (k : α → Act) : Act :=
  match c with
  | .ok a => k a
  | .trap t => .raise t
  | .wait w => .block s w

/-- Checks 1 to 3 of R126 on a handle and its first-coordinate register: a free entry passes check 1. -/
def named (s : State) (h : Handle) (cf : Nat) : Except TrapInfo Shape :=
  match s.core.handle h.val with
  | none => useHandle s.core h.val
  | some o => if 32 < cf + o.rank then .error (illegal .A s) else useHandle s.core h.val

/-- The coordinate registers of an operand (R75). -/
def coordRegs (cf rank : Nat) : List Nat := (List.range rank).map (cf + ·)

/-- The coordinates of an operand, as unsigned values (R125). -/
def coords (s : State) (cf rank : Nat) : List Nat := (coordRegs cf rank).map (fun r => (s.ra (Fin.ofNat 32 r)).toNat)

/-- A memory operand: handle, object, coordinates, the virtual address of its element (R125). -/
structure Operand where
  hnd : Nat
  obj : Shape
  crd : List Nat
  va : Nat
  deriving DecidableEq, Repr

/-- Name the element of an operand: checks 1 to 3, then the waits on its coordinate registers, on the other registers that the
instruction reads, and on those it writes (R129). -/
def operand (s : State) (h : Handle) (cf : Nat) (more writes : List Nat) (k : Operand → Act) : Act :=
  match named s h cf with
  | .error t => .raise t
  | .ok o => withRegs s (coordRegs cf o.rank ++ more) writes (k ⟨h.val, o, coords s cf o.rank, o.addr (coords s cf o.rank)⟩)

/-- A record of an access trap: the virtual address, the handle, and the offset from BASE (R286, R287). -/
def Operand.trap (p : Operand) (c : Cause) (va : Nat) (aux : Word × Word) : TrapInfo :=
  { cause := c, addr := BitVec.ofNat 64 va, hnd := hndWord p.hnd (some p.obj),
    aux0 := BitVec.ofInt 64 ((va : Int) - (p.obj.base : Int)), aux1 := aux.1, aux2 := aux.2 }

/-- What an access out of bounds raises (R125, check 5). -/
def Operand.outOfBounds (p : Operand) (write : Bool) : TrapInfo := p.trap .programAddress p.va (if write then 512 else 0, 0)

/-- A range of bytes that an access reads or writes. -/
structure Span where
  op : Operand
  va : Nat
  len : Nat
  write : Bool
  deriving DecidableEq, Repr

/-- The element bytes of a run of `n` elements: one range when the elements are adjacent (R125). -/
def Operand.run (p : Operand) (n : Nat) (write : Bool) : List Span :=
  let w := elemBytes p.obj.ty
  if n = 0 then []
  else if p.obj.innerStride = 1 then [⟨p, p.va, n * w, write⟩]
  else (List.range n).map (fun j => ⟨p, p.va + j * p.obj.innerStride * w, w, write⟩)

/-- A handle sealed with EXACT against another channel map (R285). -/
def Operand.stale (s : State) (p : Operand) : Option TrapInfo :=
  if p.obj.exact && p.obj.chanMap != s.cmap then
    some (p.trap .layoutStale p.va (BitVec.ofNat 64 p.obj.chanMap, BitVec.ofNat 64 s.cmap))
  else none

/-- The parts of a span in the core's table. -/
def Span.pieces (s : State) (sp : Span) : List Piece := piecesOf s.core.ltt sp.va sp.len

/-- Check 6 on one part: in an entry of the object's own space (R307). An access that has waited for a page has passed this
check, in whichever tier the page arrived (R309). -/
def Span.fault6 (pages : List Nat) (sp : Span) (p : Piece) : Option TrapInfo :=
  match p.entry with
  | none => some (sp.op.trap .programAddress p.va (pieceAux p sp.write))
  | some e => if e.2.space = sp.op.obj.space ∨ pages.contains e.1 then none else some (sp.op.trap .programAddress p.va (pieceAux p sp.write))

/-- Check 7 on one part: absent or migrating out (R309). -/
def Span.fault7 (sp : Span) (p : Piece) : Option TrapInfo :=
  match p.entry with
  | none => none
  | some e => if e.2.state = .absent ∨ e.2.state = .migratingOut then some (sp.op.trap .pageAbsent p.va (pieceAux p sp.write)) else none

/-- Check 8 on one part (R308). -/
def Span.fault8 (sp : Span) (p : Piece) : Option TrapInfo :=
  match p.entry with
  | none => none
  | some e => if (if sp.write then e.2.w else e.2.r) then none else some (sp.op.trap .permission p.va (pieceAux p sp.write))

/-- The first part of some spans for which a check answers. -/
def firstFault (s : State) (l : List Span) (f : Span → Piece → Option TrapInfo) : Option TrapInfo :=
  l.findSome? (fun sp => (sp.pieces s).findSome? (f sp))

/-- An entry that is migrating in, among those of some spans (R309). -/
def migratingIn (s : State) (l : List Span) : Option Nat :=
  l.findSome? (fun sp => (sp.pieces s).findSome? (fun p => match p.entry with
    | none => none
    | some e => if e.2.state = .migratingIn then some e.1 else none))

/-- Checks 6 to 8 on every byte of an access, and the wait for a page that is migrating in (R126, R307–R309). -/
def checkSpans (s : State) (ops : List Operand) (l : List Span) : Check Unit :=
  match ops.findSome? (Operand.stale s) with
  | some t => .trap t
  | none =>
    match firstFault s l (Span.fault6 s.core.a.pages) with
    | some t => .trap t
    | none =>
      match firstFault s l Span.fault7 with
      | some t => .trap t
      | none =>
        match firstFault s l Span.fault8 with
        | some t => .trap t
        | none =>
          match migratingIn s l with
          | some i => .wait (.migratingIn i)
          | none => .ok ()

/-- Checks 6 and 8 alone, as the digest queries make them (R126). -/
def checkQuery (s : State) (ops : List Operand) (l : List Span) : Check Unit :=
  match ops.findSome? (Operand.stale s) with
  | some t => .trap t
  | none =>
    match firstFault s l (Span.fault6 s.core.a.pages) with
    | some t => .trap t
    | none =>
      match firstFault s l Span.fault8 with
      | some t => .trap t
      | none => .ok ()

/-- The physical segments of spans that have passed their checks, in order. -/
def segsOfSpans (s : State) (l : List Span) : List Seg := l.flatMap (fun sp => segsOf s.core.num sp.write (sp.pieces s))

/-- The read-duplicated pages that writes of these spans meet: space, place, size (R313). -/
def dupsOf (s : State) (l : List Span) : List (Nat × Nat × Nat) :=
  l.flatMap (fun sp => if sp.write then pieceDups (sp.pieces s) else [])

/-- Whether any byte of these spans lies in an entry for which `f` holds. -/
def anyEntry (s : State) (l : List Span) (f : Xlat → Bool) : Bool :=
  l.any (fun sp => (sp.pieces s).any (fun p => match p.entry with | some (_, e) => f e | none => false))

/-! ### Elements and lanes (R135–R137) -/

/-- The elements a run may hold: 64, or 32 of 64 bits (R135). -/
def runLimit (ty : ElemCode) : Nat := if elemBits ty = 64 then 32 else 64

/-- The lanes of one element as LD places them (R135). -/
def lanesOfElem (ty : ElemCode) (x : Nat) : List Lane :=
  match ty.toNat with
  | 0 => [(BitVec.ofNat 8 x).signExtend 32]
  | 1 => [(BitVec.ofNat 16 x).signExtend 32]
  | 3 => [BitVec.ofNat 32 x, BitVec.ofNat 32 (x / 2 ^ 32)]
  | 4 => [BitVec.ofNat 32 (x * 2 ^ 16)]
  | _ => [BitVec.ofNat 32 x]

/-- The entry that LD fills from the bytes of its elements (R135). -/
def loadEntry (ty : ElemCode) (l : List Byte) : Vec :=
  vecOfLanes ((chunks 64 (elemBytes ty) l).flatMap (fun c => lanesOfElem ty (leNat c)))

/-- The bytes of element `j` as ST takes them from a vector (R136). -/
def elemOfLanes (ty : ElemCode) (v : Vec) (j : Nat) : List Byte :=
  let lane := fun (i : Nat) => (v.toList.getD i 0).toNat
  match ty.toNat with
  | 1 => leBytes 2 (lane j)
  | 2 | 5 => leBytes 4 (lane j)
  | 3 => leBytes 8 (lane (2 * j) + lane (2 * j + 1) * 2 ^ 32)
  | 4 => leBytes 2 (lane j / 2 ^ 16)
  | _ => leBytes 1 (lane j)

/-- The bytes that ST writes for a run of `n` elements (R136). -/
def storeBytes (ty : ElemCode) (v : Vec) (n : Nat) : List Byte := (List.range n).flatMap (elemOfLanes ty v)

/-- The value LDA gives of an element (R139). -/
def registerOfElem (ty : ElemCode) (x : Nat) : Word :=
  match ty.toNat with
  | 0 => sext (BitVec.ofNat 8 x)
  | 1 => sext (BitVec.ofNat 16 x)
  | 2 => sext (BitVec.ofNat 32 x)
  | _ => BitVec.ofNat 64 x

/-- Bytes of a row-slice: to the end of the innermost dimension, at most 256 (R137); of 1-bit elements a last byte in part is moved whole
(DESIGN CHOICE, log 240). -/
def Operand.sliceBytes (p : Operand) : Nat :=
  let left := p.obj.innerDim - p.crd.getD (p.obj.rank - 1) 0
  min 256 (if elemBits p.obj.ty = 1 then (left + 7) / 8 else left * elemBytes p.obj.ty)

end Sys2Proof.Machine
end

