-- ==== Sys2Proof/Machine/Race.lean ====
section
/-! DEFINITION. Digest regions by physical place, race stamps, the race rule and the sync clock (R199, R232–R240). -/
namespace Sys2Proof.Machine

/-! ### Regions by place (R199) -/

/-- Bytes of a block. -/
def Region.blockBytes (g : Region) : Nat := 2 ^ g.blockLog

/-- The parts of a range of keys that lie in a region: offset in the region, key, length. -/
def Region.meets (g : Region) (key len : Nat) : List (Nat × Nat × Nat) :=
  g.pages.filterMap (fun p =>
    let lo := max key p.2.1
    let hi := min (key + len) (p.2.1 + p.2.2)
    if lo < hi then some (p.1 + (lo - p.2.1), lo, hi - lo) else none)

/-- The blocks of a region that a range of keys meets. -/
def Region.blocksOf (g : Region) (key len : Nat) : List Nat :=
  (g.meets key len).flatMap (fun p =>
    (List.range ((p.1 + p.2.2 - 1) / g.blockBytes - p.1 / g.blockBytes + 1)).map (fun i => p.1 / g.blockBytes + i))

/-- The region and block that hold the byte at a key. -/
def State.blockAt (s : State) (key : Nat) : Option (Region × Nat) :=
  s.regions.findSome? (fun g => ((g.meets key 1).head?).map (fun p => (g, p.1 / g.blockBytes)))

/-- The region with a number. -/
def State.region? (s : State) (n : Nat) : Option Region := s.regions.find? (fun g => g.num == n)

/-! ### Granules and stamps (R233, R234) -/

/-- The number of a granule of GROVE (by 64 bytes), or of a block of a region. -/
def groveGranule (key : Nat) : Nat := key / 64
def blockGranule (region block : Nat) : Nat := 2 ^ 70 + region * 2 ^ 40 + block

/-- The watched granules that a segment meets, each with the offset in the segment of its first byte there. -/
def granulesOf (s : State) (g : Seg) : List (Nat × Nat) :=
  if g.len = 0 then []
  else if spaceOfKey g.key = 1 then
    (List.range ((g.key + g.len - 1) / 64 - g.key / 64 + 1)).map (fun i => (g.key / 64 + i, (g.key / 64 + i) * 64 - g.key))
  else s.regions.flatMap (fun r => if r.watch then
      (r.meets g.key g.len).flatMap (fun p =>
        (List.range ((p.1 + p.2.2 - 1) / r.blockBytes - p.1 / r.blockBytes + 1)).map (fun i =>
          (blockGranule r.num (p.1 / r.blockBytes + i), (p.2.1 - g.key) + ((p.1 / r.blockBytes + i) * r.blockBytes - p.1))))
    else [])

/-- The granules of some spans, at the places where writes go, each with the virtual address of its first byte accessed and
its handle. -/
def granulesOfSpans (s : State) (l : List Span) : List (Nat × Nat × Span) :=
  l.flatMap (fun sp => (sp.pieces s).flatMap (fun p =>
    (segsOf s.core.num true [p]).flatMap (fun g => (granulesOf s g).map (fun q => (q.1, p.va + q.2, sp)))))

/-- The stamp of a granule; one that is not listed is as it was at reset (R234). -/
def State.stamp (s : State) (g : Nat) : Stamp := ((s.stamps.find? (fun p => p.1 == g)).map (·.2)).getD {}

/-- Put a stamp, listing only those that differ from reset. -/
def State.putStamp (s : State) (g : Nat) (v : Stamp) : State :=
  { s with stamps := if v = {} then eraseEntry g s.stamps else insertEntry g v s.stamps }

/-- The clock value a recorded field stands for: the greatest not above the clock that has these low bits (R238). -/
def fullClock (now : Word) (low : BitVec 44) : Nat :=
  let base := now.toNat / 2 ^ 44 * 2 ^ 44 + low.toNat
  if base ≤ now.toNat then base else base - 2 ^ 44

/-- The core that another core's in-flight plain write of a granule belongs to (R235). -/
def State.inFlight (s : State) (g b : Nat) : Option Nat :=
  (s.flights.find? (fun f => f.watched && f.write && f.core != b && f.todo.any (fun t => (granulesOf s t).any (fun q => q.1 == g)))).map (·.core)

/-- What the race rule finds against an access of core `b` to a granule: the condition, the other core, and the clock
compared (R236, R239). -/
def raceOf (s : State) (b g : Nat) (writes : Bool) : Option (Nat × Nat × BitVec 44) :=
  let st := s.stamp g
  let me := s.coreAt b
  match s.inFlight g b with
  | some q => some (1, q, st.wclk)
  | none =>
    let a := s.coreAt st.wcore
    if st.wcore < 160 ∧ st.wcore ≠ b ∧
        ¬(fullClock s.syncclk st.wclk < a.lastrel.toNat ∧ a.lastrel.toNat ≤ me.lastacq.toNat) then
      some (2, st.wcore, st.wclk)
    else if writes then
      ((List.range 160).find? (fun q => q != b && st.rmap.getLsbD q &&
        !(decide (fullClock s.syncclk st.rclk < (s.coreAt q).lastrel.toNat) &&
          decide ((s.coreAt q).lastrel.toNat ≤ me.lastacq.toNat)))).map (fun q => (3, q, st.rclk))
    else none

/-- Check 9 of R126 for the core in focus: what RACE raises, if the access conflicts (R239, R287). -/
def raceTrap (s : State) (l : List Span) : Option TrapInfo :=
  (granulesOfSpans s l).findSome? (fun q => (raceOf s s.core.num q.1 q.2.2.write).map (fun r =>
    { q.2.2.op.trap .race q.2.1 ((s.coreAt r.2.1).lastrel, s.core.lastacq) with
      detail := BitVec.ofNat 8 r.1, aux0 := BitVec.ofNat 64 (r.2.1 * 2 ^ 56 + r.2.2.toNat) }))

/-- A plain read is recorded in its granules (R236); it makes the core's writes and reads unpublished (R232). -/
def State.recordRead (s : State) (b g : Nat) : State :=
  let st := s.stamp g
  s.putStamp g { st with rmap := st.rmap ||| (1#160 <<< b), rclk := s.syncclk.setWidth 44 }

/-- A plain write that commits is recorded (R236). -/
def State.recordWrite (s : State) (b g : Nat) : State :=
  s.putStamp g { wcore := b, wclk := s.syncclk.setWidth 44, rmap := 0, rclk := (s.stamp g).rclk }

/-- What a passed check of plain accesses leaves: reads recorded, the unpublished flag set (R232, R236). -/
def passCheck (s : State) (l : List Span) : State :=
  let gs := granulesOfSpans s l
  if gs.isEmpty then s
  else (gs.foldl (fun t q => if q.2.2.write then t else t.recordRead s.core.num q.1) s).onCore s.core.num
    (fun k => { k with unpublished := true })

/-- Whether spans meet a watched space (R233). -/
def watchedSpans (s : State) (l : List Span) : Bool := !(granulesOfSpans s l).isEmpty

/-- One visit of the stamp patrol (R238). -/
def patrolStamp (s : State) (g : Nat) : State :=
  let st := s.stamp g
  let st := if st.wcore < 160 ∧ fullClock s.syncclk st.wclk < (s.coreAt st.wcore).lastrel.toNat then { st with wcore := 255 } else st
  let readers := (List.range 160).filter (fun q => st.rmap.getLsbD q)
  let st := if readers.all (fun q => decide (fullClock s.syncclk st.rclk < (s.coreAt q).lastrel.toNat)) then { st with rmap := 0 } else st
  s.putStamp g st

end Sys2Proof.Machine
end

