-- ==== Sys2Proof/Machine/Digest.lean ====
section
/-! DEFINITION. Digests: the payloads of the kinds, write transactions, rebuilding, queries and the digest cache
(R199–R220). -/
namespace Sys2Proof.Machine

/-! ### The kinds, bit by bit (R203–R207) -/

/-- The element codes of a block's bytes. -/
def codesOf (ty : ElemCode) (l : List Byte) : List Nat := (chunks l.length (elemBytes ty) l).map leNat

/-- The FP32 bits of a floating-point element, widened exactly (R203). -/
def widened (ty : ElemCode) (c : Nat) : BitVec 32 := rn32 (elemNum ty c)

/-- A bound of BOUNDS: its 32 bits. The canonical NaN says that nothing is known. -/
def boundBits (ty : ElemCode) (c : Nat) : BitVec 32 := if isFloat ty then widened ty c else BitVec.ofInt 32 (match elemNum ty c with
  | .fin neg m _ _ => if neg then -(m : Int) else m
  | _ => 0)

/-- One bound is below another: signed integers, or FP32 values with −0 below +0 (R203). -/
def boundBelow (ty : ElemCode) (a b : BitVec 32) : Bool :=
  if isFloat ty then (ofFp32 a).below (ofFp32 b) else decide (a.toInt < b.toInt)

/-- MIN and MAX widened to include a value; a NaN stays, and a NaN value makes both NaN (R203). -/
def widenBounds (ty : ElemCode) (mm : BitVec 32 × BitVec 32) (x : BitVec 32) : BitVec 32 × BitVec 32 :=
  let nan : BitVec 32 := 0x7FC00000
  if isFloat ty && ((ofFp32 x).isNan || (ofFp32 mm.1).isNan || (ofFp32 mm.2).isNan) then (nan, nan)
  else (if boundBelow ty x mm.1 then x else mm.1, if boundBelow ty mm.2 x then x else mm.2)

def packBounds (mm : BitVec 32 × BitVec 32) : BitVec 160 := BitVec.ofNat 160 (mm.1.toNat + mm.2.toNat * 2 ^ 32)
def boundsOf (p : BitVec 160) : BitVec 32 × BitVec 32 := (p.setWidth 32, (p >>> 32).setWidth 32)

/-- The BOUNDS payload of a whole block (R203). -/
def fullBounds (ty : ElemCode) (cs : List Nat) : BitVec 160 :=
  match cs with
  | [] => 0
  | c :: r =>
    let x := boundBits ty c
    let x := if isFloat ty && (ofFp32 x).isNan then 0x7FC00000 else x
    packBounds (r.foldl (fun mm c => widenBounds ty mm (boundBits ty c)) (x, x))

/-- An FP64 sum with one more exact value (R204). -/
def sumStep (acc : Word) (x : Num) : Word := rn64 (Num.add 0 (decodeFloat fp64 acc.toNat) x)

/-- The integer value of an element. -/
def intOf (ty : ElemCode) (c : Nat) : Int :=
  match elemNum ty c with
  | .fin neg m _ _ => if neg then -(m : Int) else m
  | _ => 0

/-- The SUM payload of a whole block (R204). -/
def fullSum (ty : ElemCode) (cs : List Nat) : BitVec 160 :=
  if isFloat ty then (cs.foldl (fun acc c => sumStep acc (elemNum ty c)) 0).setWidth 160
  else (BitVec.ofInt 64 (cs.foldl (fun acc c => acc + intOf ty c) 0)).setWidth 160

/-- Elements in a group of ZMAP (R205). -/
def zmapGroup (n : Nat) : Nat := max 1 (n / 128)

/-- The ZMAP payload of a whole block (R205). -/
def fullZmap (ty : ElemCode) (l : List Byte) : BitVec 160 :=
  let gs := chunks l.length (zmapGroup (l.length / elemBytes ty) * elemBytes ty) l
  BitVec.ofNat 160 (((gs.take 128).zipIdx).foldl (fun acc p => if p.1.any (· != 0) then acc + 2 ^ p.2 else acc) 0)

/-- The sign s(k, j) of R206: true for +1. -/
def sketchSign (seed : Word) (k j : Nat) : Bool :=
  let z := seed + 0x9E3779B97F4A7C15#64 * BitVec.ofNat 64 (128 * j + k + 1)
  let z := (z ^^^ (z >>> 30)) * 0xBF58476D1CE4E5B9#64
  let z := (z ^^^ (z >>> 27)) * 0x94D049BB133111EB#64
  let z := z ^^^ (z >>> 31)
  !z.getLsbD 63

/-- A finite FP32 or BF16 value as a multiple of 2^−149. -/
def fixed149 (x : Num) : Int :=
  match x with
  | .fin neg m e _ => scaled neg m e (-149)
  | _ => 0

/-- The SKETCH payload of a whole block (R206): SIG, then NORM. -/
def fullSketch (ty : ElemCode) (seed : Word) (cs : List Nat) : BitVec 160 :=
  let xs := cs.map (elemNum ty)
  if xs.any (fun x => match x with | .fin _ _ _ _ => false | _ => true) then BitVec.ofNat 160 (0x7FC00000 * 2 ^ 128)
  else
    let ks := (xs.map fixed149).zipIdx
    let sig := (List.range 128).foldl (fun acc k =>
      if 0 < ks.foldl (fun (t : Int) p => if sketchSign seed k p.2 then t + p.1 else t - p.1) 0 then acc + 2 ^ k else acc) 0
    let norm := rn32 (.fin false (ks.foldl (fun (t : Nat) p => t + (p.1 * p.1).natAbs) 0) (-298) false)
    BitVec.ofNat 160 (sig + norm.toNat * 2 ^ 128)

/-- The payload of a whole block, by kind (R210). -/
def fullPayload (g : Region) (l : List Byte) : BitVec 160 :=
  match g.kind with
  | 0 => fullBounds g.ty (codesOf g.ty l)
  | 1 => fullSum g.ty (codesOf g.ty l)
  | 2 => fullZmap g.ty l
  | 3 => fullSketch g.ty g.seed (codesOf g.ty l)
  | _ => 0

/-! ### Entries -/

/-- The entry of a block: EMPTY at version 0 if none is listed (R121). -/
def State.entry (s : State) (g b : Nat) : Entry := ((s.entries.find? (fun e => e.1 == (g, b))).map (·.2)).getD {}

/-- Put an entry, listing only those that differ from EMPTY at version 0, in rising order. -/
def insertBlock (k : Nat × Nat) (v : Entry) : List ((Nat × Nat) × Entry) → List ((Nat × Nat) × Entry)
  | [] => [(k, v)]
  | e :: r => if e.1 = k then (k, v) :: r
    else if k.1 < e.1.1 ∨ (k.1 = e.1.1 ∧ k.2 < e.1.2) then (k, v) :: e :: r else e :: insertBlock k v r

def State.putEntry (s : State) (g b : Nat) (v : Entry) : State :=
  { s with entries := if v = {} then s.entries.filter (fun e => e.1 != (g, b)) else insertBlock (g, b) v s.entries }

/-- The key of the byte at an offset of a region. -/
def Region.keyAt (g : Region) (o : Nat) : Nat :=
  match g.pages.find? (fun p => decide (p.1 ≤ o) && decide (o < p.1 + p.2.2)) with
  | some p => p.2.1 + (o - p.1)
  | none => 0

/-- The bytes of a block. -/
def State.blockBytes (s : State) (g : Region) (b : Nat) : List Byte :=
  (List.range g.blockBytes).map (fun i => Memory.get s.mem (g.keyAt (b * g.blockBytes + i)))

/-- Whether a read of some bytes of a block, by their offsets in it, meets an uncorrectable unit (R381). -/
def State.blockPoisoned (s : State) (g : Region) (b : Nat) (offs : List Nat) : Bool :=
  if s.poison.isEmpty && s.deadChips.isEmpty then false else offs.any (fun i => s.poisoned (g.keyAt (b * g.blockBytes + i)) 1)

/-- The offsets in a block of the bytes that a transaction writes. -/
def offsetsOf (g : Region) (b : Nat) (w : List (Nat × List Byte)) : List Nat :=
  w.flatMap (fun p => (g.meets p.1 p.2.length).flatMap (fun q => (List.range q.2.2).map (fun i => q.1 + i - b * g.blockBytes)))

/-- The elements of a block that a transaction touches, in ascending order (R208). -/
def touched (g : Region) (offs : List Nat) : List Nat :=
  (List.range (g.blockBytes / elemBytes g.ty)).filter (fun j => offs.any (fun o => o / elemBytes g.ty == j))

/-- The offsets that a partial write makes the port read (R210, R215). -/
def portReads (g : Region) (offs : List Nat) : List Nat :=
  let w := elemBytes g.ty
  let elem := fun (j : Nat) => (List.range w).map (fun i => j * w + i)
  match g.kind with
  | 0 => ((touched g offs).flatMap elem).filter (fun o => !offs.contains o)
  | 1 => (touched g offs).flatMap elem
  | 2 =>
    let sz := zmapGroup (g.blockBytes / w) * w
    (((List.range (g.blockBytes / sz)).filter (fun k => offs.any (fun o => o / sz == k))).flatMap (fun k =>
      (List.range sz).map (fun i => k * sz + i))).filter (fun o => !offs.contains o)
  | _ => []

/-- The payload after a partial write to an EXACT or WIDE entry (R210). -/
def partialPayload (g : Region) (p : BitVec 160) (old new : List Byte) (offs : List Nat) : BitVec 160 :=
  let co := codesOf g.ty old
  let cn := codesOf g.ty new
  match g.kind with
  | 0 => packBounds ((touched g offs).foldl (fun mm j => widenBounds g.ty mm (boundBits g.ty (cn.getD j 0))) (boundsOf p))
  | 1 =>
    if isFloat g.ty then
      ((touched g offs).foldl (fun (acc : Word) j =>
        if co.getD j 0 = cn.getD j 0 then acc
        else rn64 (Num.add 0 (Num.add 0 (decodeFloat fp64 acc.toNat) (elemNum g.ty (co.getD j 0)).neg) (elemNum g.ty (cn.getD j 0))))
        (p.setWidth 64)).setWidth 160
    else
      ((touched g offs).foldl (fun (acc : Word) j =>
        acc + BitVec.ofInt 64 (intOf g.ty (cn.getD j 0) - intOf g.ty (co.getD j 0))) (p.setWidth 64)).setWidth 160
  | 2 =>
    let sz := zmapGroup (g.blockBytes / elemBytes g.ty) * elemBytes g.ty
    let full := fullZmap g.ty new
    (List.range 128).foldl (fun (acc : BitVec 160) k =>
      if offs.any (fun o => o / sz == k) then
        (if full.getLsbD k then acc ||| (1#160 <<< k) else acc &&& ~~~(1#160 <<< k))
      else acc) p
  | _ => p

/-- The state after a partial write to an EXACT or WIDE entry (R210). -/
def partialState (kind : Nat) : EntryState :=
  match kind with
  | 0 => .wide
  | 3 => .stale
  | _ => .exact

/-- One write transaction on a block at its port (R208–R215): data, payload, state and version change in one step. The
answer says whether a read of the port met an uncorrectable error. An uncorrectable entry keeps the version that survives, plus 1: a whole
write makes it EXACT, another STALE, and the writer hears nothing of it (DESIGN CHOICE, log 243). -/
def transact (s : State) (g : Region) (b : Nat) (w : List (Nat × List Byte)) : State × Bool :=
  let e := s.entry g.num b
  let offs := offsetsOf g b w
  let old := s.blockBytes g b
  let t := s.storeAll w
  let new := t.blockBytes g b
  let all := List.range g.blockBytes
  let whole := all.all (fun i => offs.contains i)
  let reads := if whole then [] else if e.state = .empty then all.filter (fun i => !offs.contains i)
    else if e.state = .stale then [] else portReads g offs
  let ver := e.version + 1
  let stale := if 0 < e.lost && !whole then true else false
  if s.blockPoisoned g b reads then (t.putEntry g.num b { e with version := ver, state := .stale }, true)
  else if stale then (t.putEntry g.num b { e with version := ver, state := .stale, lost := if e.lost = 1 then 0 else e.lost }, false)
  else if whole ∨ e.state = .empty then
    (t.putEntry g.num b { version := ver, state := .exact, payload := fullPayload g new, lost := if e.lost = 1 then 0 else e.lost }, false)
  else if e.state = .stale then (t.putEntry g.num b { e with version := ver }, false)
  else (t.putEntry g.num b { e with version := ver, state := partialState g.kind, payload := partialPayload g e.payload old new offs }, false)

/-- One commit step of DSCAN on a block (R150, R215): the answer says whether it met an uncorrectable error. -/
def rebuild (s : State) (g : Region) (b : Nat) : State × Bool :=
  let e := s.entry g.num b
  if e.state = .empty then (s, false)
  else if s.blockPoisoned g b (List.range g.blockBytes) ∨ 0 < e.lost then
    (s.putEntry g.num b { e with state := .stale, lost := if e.lost = 1 then 0 else e.lost }, true)
  else (s.putEntry g.num b { e with state := .exact, payload := fullPayload g (s.blockBytes g b) }, false)

/-! ### Queries (R147, R148) -/

/-- The state byte of an entry (R147, R201). -/
def stateByte (g : Region) (e : Entry) : Nat :=
  (match e.state with | .exact => 1 | .wide => 2 | .stale => 4 | .empty => 8) + g.kind * 16 + (if g.watch then 128 else 0)

/-- A field by QUAL (R147). -/
def fieldOf : Nat → DigestField
  | 0 => .min | 1 => .max | 2 => .sum | 3 => .zmap | 4 => .sig | 5 => .norm | 6 => .ver
  | _ => .state

/-- A region's kind holds a field (R147). -/
def holdsField (kind : Nat) : DigestField → Bool
  | .min | .max => kind == 0
  | .sum => kind == 1
  | .zmap => kind == 2
  | .sig | .norm => kind == 3
  | .ver | .state => true

/-- What DQRY gives of a field (R147): `elem` is the number of the named element in its block. -/
def queryValue (g : Region) (e : Entry) (f : DigestField) (elem : Nat) : Word :=
  match f with
  | .min => if isFloat g.ty then zext (boundsOf e.payload).1 else sext (boundsOf e.payload).1
  | .max => if isFloat g.ty then zext (boundsOf e.payload).2 else sext (boundsOf e.payload).2
  | .sum => e.payload.setWidth 64
  | .zmap =>
    if elem / zmapGroup (g.blockBytes / elemBytes g.ty) < 64 then e.payload.setWidth 64 else (e.payload >>> 64).setWidth 64
  | .sig => 0
  | .norm => zext ((e.payload >>> 128).setWidth 32)
  | .ver => zext e.version
  | .state => BitVec.ofNat 64 (stateByte g e)

/-- The lanes DQRYV gives of a field (R148). -/
def queryLanes (g : Region) (e : Entry) (f : DigestField) : List Lane :=
  match f with
  | .min => [(boundsOf e.payload).1]
  | .max => [(boundsOf e.payload).2]
  | .sum => [e.payload.setWidth 32, (e.payload >>> 32).setWidth 32]
  | .zmap | .sig => (List.range 4).map (fun i => (e.payload >>> (32 * i)).setWidth 32)
  | .norm => [(e.payload >>> 128).setWidth 32]
  | .ver => [e.version]
  | .state => [BitVec.ofNat 32 (stateByte g e)]

/-- The greatest count of DQRYV for a field (R148). -/
def queryLimit : DigestField → Nat
  | .sum => 32
  | .zmap | .sig => 16
  | _ => 64

/-- The port reads an entry for a query (R215, R216): one found uncorrectable is rewritten as STALE with the version that
survives; without one it stays so. -/
def readEntry (s : State) (g : Region) (b : Nat) : State × Entry × Bool :=
  let e := s.entry g.num b
  if e.lost = 0 then (s, e, false)
  else if e.lost = 1 then
    let e := { e with state := .stale, lost := 0 }
    (s.putEntry g.num b e, e, true)
  else (s, e, true)

/-! ### The digest cache (R218–R220): it changes timing only -/

/-- The index of a block's entry in its die's half of the table (R200), in units of 32 bytes: an entry of a watched region takes two, and is
found under the first (DESIGN CHOICE, log 242). -/
def Region.entryIndex (g : Region) (b : Nat) : Nat := g.start + b * (if g.watch then 2 else 1)

/-- The resident slot of an entry. -/
def State.slot? (s : State) (die index : Nat) : Option CacheSlot := s.cache.find? (fun c => c.die == die && c.index == index)

/-- Give an entry a slot of its set: a free way, else the least recently used unpinned slot, which is written back if its
entry has changed; none if the set is wholly pinned (R219, R220). -/
def allocate (s : State) (die index : Nat) (filling : Option Nat) (changed : Bool) : Option (State × Nat) :=
  let new : CacheSlot := { id := s.nextId, die := die, index := index, lastUse := s.now, changed := changed, filling := filling }
  let mine := s.cache.filter (fun c => c.die == die && c.index % 32768 == index % 32768)
  if mine.length < 16 then some ({ s with cache := new :: s.cache, nextId := s.nextId + 1 }, new.id)
  else
    let free := mine.filter (fun c => c.filling.isNone)
    match free with
    | [] => none
    | c :: r =>
      let v := r.foldl (fun m c => if c.lastUse < m.lastUse then c else m) c
      some ({ s with
        cache := new :: s.cache.filter (fun c => c.id != v.id)
        writeback := if v.changed then v :: s.writeback else s.writeback
        nextId := s.nextId + 1 }, new.id)

/-- An entry is in the write-back buffer, which answers queries for it (R220). -/
def State.writingBack (s : State) (die index : Nat) : Bool := s.writeback.any (fun c => c.die == die && c.index == index)

/-- The cycles from a miss to its fill, at the earliest (R50, R218). -/
def fillCycles : Nat := 430

/-- A use of an entry: on a hit its slot is used now, and the write-back buffer answers a query; on a miss a fill starts. The
answer is the slot to wait for, 0 where the whole set is pinned (R218–R220). An update comes here once its slot is there
(`withSlot`). -/
def useEntry (s : State) (g : Region) (b : Nat) (update : Bool) : State × Option Nat :=
  match s.slot? g.die (g.entryIndex b) with
  | some c =>
    ({ s with cache := s.cache.map (fun x => if x.id = c.id then { x with lastUse := s.now, changed := x.changed || update } else x) },
      if c.filling.isSome then some c.id else none)
  | none =>
    if !update && s.writingBack g.die (g.entryIndex b) then (s, none)
    else match allocate s g.die (g.entryIndex b) (some (s.now + fillCycles)) update with
      | some (t, i) => (t, some i)
      | none => (s, some 0)

/-- A block's entry has its slot, and no fill of it is outstanding. -/
def State.slotHere (s : State) (x : Region × Nat) : Bool :=
  match s.slot? x.1.die (x.1.entryIndex x.2) with
  | some c => c.filling.isNone
  | none => false

/-- The set of a block's entry is wholly pinned (R219). -/
def State.setPinned (s : State) (x : Region × Nat) : Bool := (allocate s x.1.die (x.1.entryIndex x.2) none false).isNone

/-- A request for a block's entry can only wait: for a fill under way, or for a set that is wholly pinned (R219). -/
def State.slotWaits (s : State) (x : Option (Region × Nat)) : Bool :=
  match x with
  | none => false
  | some (g, b) => match s.slot? g.die (g.entryIndex b) with
    | some c => c.filling.isSome
    | none => s.setPinned (g, b)

/-- The fill of an entry that has no slot starts, unless its set is wholly pinned (R218, R219). -/
def startFill (s : State) (x : Region × Nat) : State :=
  match s.slot? x.1.die (x.1.entryIndex x.2) with
  | some _ => s
  | none => match allocate s x.1.die (x.1.entryIndex x.2) (some (s.now + fillCycles)) false with
    | some (t, _) => t
    | none => s

/-- Updates of some blocks' entries act together once each entry has its slot: on a miss its fill starts, and they wait, as they do for
a fill under way and while a whole set is pinned (R218, R219). -/
def withSlots (s : State) (l : List (Region × Nat)) (k : State → State) : State :=
  if l.all s.slotHere then k s else l.foldl startFill s

/-- An update of a block's entry acts once the entry has its slot; outside every block it acts at once. -/
def withSlot (s : State) (x : Option (Region × Nat)) (k : State → State) : State := withSlots s x.toList k

/-- The blocks of regions that some bytes meet: key, length. -/
def blocksMet (s : State) (l : List (Nat × Nat)) : List (Region × Nat) :=
  s.regions.flatMap (fun g => (l.flatMap (fun p => g.blocksOf p.1 p.2)).eraseDups.map (fun b => (g, b)))

/-- The cycles from a request to the answer of an update that finds its entry, at the earliest (R218). -/
def hitCycles : Nat := 18

end Sys2Proof.Machine
end

