-- ==== Sys2Proof/Machine/Links.lean ====
section
/-! DEFINITION. Routes and links: how a packet leaves for another device (R361–R363). -/
namespace Sys2Proof.Machine

/-- A link by its number: ports 0–15, tunnel t as 64 + t. -/
def State.link? (s : State) (n : Nat) : Option Link := s.links.find? (fun l => l.num == n)

/-- Replace a link, or put it. -/
def State.putLink (s : State) (l : Link) : State :=
  { s with links := if s.links.any (fun x => x.num == l.num) then s.links.map (fun x => if x.num = l.num then l else x) else s.links ++ [l] }

/-- The route entry of a device names this link: port, or tunnel t as 64 + t (R362). -/
def routeLink (s : State) (d : Nat) : Nat :=
  let e := s.word (hwinKey 0 (0xE2000 + 2 * d)) 2
  if e.testBit 14 then 64 + e % 64 else e % 64

/-- A little-endian field of tunnel t's entry, or of port p's (R362). -/
def tunnelField (s : State) (t off n : Nat) : Nat := s.word (hwinKey 0 (0xEA000 + 32 * t + off)) n

/-- What the tables give a frame on a link (R362): for a port itself; for a tunnel its entry, if it is valid and names a port. An entry
that cannot be read is not valid (DESIGN CHOICE, log 236). -/
def pathOf (s : State) (n : Nat) : Option Path :=
  if n < 16 then some { port := n }
  else
    let t := n - 64
    let p := tunnelField s t 20 1
    if (tunnelField s t 21 1).testBit 0 ∧ p < 16 ∧ 64 ≤ n ∧ n < 128 ∧ !s.poisoned (hwinKey 0 (0xEA000 + 32 * t)) 32 ∧ !s.poisoned (hwinKey 0 (0xEB000 + 16 * p)) 16 then
      some { port := p, tunnel := true, localAddr := s.word (hwinKey 0 (0xEB000 + 16 * p)) 16, peerAddr := tunnelField s t 0 16
             localUdp := tunnelField s t 18 2, peerUdp := tunnelField s t 16 2 }
    else none

/-- The link that the route to a device names, if the route can be read (DESIGN CHOICE, log 236) and is valid and its port, or its tunnel, is up (R362, R363). The tables are read
at each lookup; a tunnel is up only over the port that its session came up on. -/
def State.routeTo (s : State) (d : Nat) : Option Link :=
  let e := s.word (hwinKey 0 (0xE2000 + 2 * d)) 2
  if e.testBit 15 && decide (e / 64 % 256 = 0) && !s.poisoned (hwinKey 0 (0xE2000 + 2 * d)) 2 then
    match s.link? (routeLink s d), pathOf s (routeLink s d) with
    | some l, some p => if l.up && l.port == p.port then some l else none
    | _, _ => none
  else none

/-- Bytes of payload that one frame to a device carries (R361). -/
def State.payloadTo (s : State) (d : Nat) : Nat :=
  match s.routeTo d with
  | some l => if l.num < 64 then 4096 else 1024
  | none => 4096

/-- Send a packet on a link: a tunnel numbers its frames and keeps them until they are acknowledged (R361). -/
def sendOn (s : State) (l : Link) (p : Packet) : State :=
  let l' := { l with nextSeq := l.nextSeq + 1, frames := l.frames + 1,
                     unacked := if 64 ≤ l.num then l.unacked ++ [(l.nextSeq, s.now, p)] else l.unacked }
  { s.putLink l' with outputs := s.outputs ++ [.frame l.num l.nextSeq ((pathOf s l.num).getD { port := l.port }) p] }

/-- Send a packet to a device; what goes to this device does not leave it (R363). None where the route is not valid or not up. -/
def sendPacket (s : State) (d : Nat) (p : Packet) : Option State :=
  if d = s.devid then some { s with inbox := s.inbox ++ [p] } else (s.routeTo d).map (fun l => sendOn s l p)

/-- The link on which what goes to a device leaves, if it leaves this one. -/
def linkTo (s : State) (d : Nat) : Option Nat := if d = s.devid then none else (s.routeTo d).map (·.num)

/-- Answer a device; without a route the answer is lost. -/
def sendAnswer (s : State) (d : Nat) (p : Packet) : State := (sendPacket s d p).getD s

end Sys2Proof.Machine
end

