-- ==== Sys2Proof/Machine/Flights.lean ====
section
/-! DEFINITION. How operations in flight perform: order, commits, watch tables, and what a completion writes
(R22, R39, R128, R130, R145, R155, R156, R209, R213, R226–R229, R313). -/
namespace Sys2Proof.Machine

/-- A value the spec leaves open (DESIGN CHOICE, log 4). -/
def State.free (s : State) : Nat × State := (Config.freeBits s.fresh, { s with fresh := s.fresh + 1 })

/-! ### Kinds of operations -/

/-- An operation that only reads, so that END and the fences of stores do not wait for it. -/
def Job.reads : Job → Bool
  | .ld _ _ _ | .ldt _ _ | .ldv _ _ _ _ _ _ _ _ _ | .lda _ | .dqry _ _ _ _ | .dqryv _ _ _ _ _ _ => true
  | .embag _ _ _ _ _ _ _ _ _ _ _ | .kvatt _ _ _ _ _ _ _ _ _ _ _ => true
  | _ => false

/-- An operation of the gather-and-pool or of the attention unit. -/
def Job.pools : Job → Bool
  | .embag _ _ _ _ _ _ _ _ _ _ _ | .kvatt _ _ _ _ _ _ _ _ _ _ _ => true
  | _ => false

/-- An operation that END of the A-stream waits for (R12, R226). -/
def Job.ended (j : Job) : Bool := !j.reads || j.pools

/-- A command of the copy or of the fabric engine (R113). -/
def Job.command : Job → Bool
  | .copy _ _ | .put _ _ | .get _ _ | .remoteAtomic _ | .collective _ => true
  | _ => false

/-- Engine commands of a core that have not completed: copy, fabric and matrix (R113, R288). -/
def commandsLeft (s : State) (n : Nat) : Nat :=
  (s.flights.filter (fun f => f.core == n && !f.orphan && f.job.command)).length + (s.coreAt n).matrix.length

/-- The elements that an atomic or near-memory operation has still to combine. -/
def Job.elems : Job → List Elem
  | .atomic _ _ es _ | .nm _ _ es _ => es
  | _ => []

/-- The type of an atomic's elements. -/
def Job.elemType : Job → ElemCode
  | .atomic _ t _ _ | .nm _ t _ _ => t
  | _ => 2

/-- Two segments meet. -/
def Seg.meets (a b : Seg) : Bool := decide (a.key < b.key + b.len) && decide (b.key < a.key + a.len)

/-- The places that an operation has still to access, key and length. -/
def Flight.places (f : Flight) : List (Nat × Nat) :=
  f.todo.map (fun g => (g.key, g.len)) ++ f.job.elems.map (fun e => (e.key, elemBytes f.job.elemType))

/-- The places that an operation has still to write, or will write: for a collective those of its result, for a fabric operation
to this device's own number those at its far side (R216). -/
def Flight.targets (f : Flight) : List (Nat × Nat) :=
  (if f.write then f.places else []) ++ f.far ++
    (match f.job with | .collective c => c.pieces.map (fun g => (g.key, g.len)) | _ => [])

/-- The next block that a query takes its point in (R196, R216). -/
def Flight.queryBlock (f : Flight) : Option (Nat × Nat) :=
  match f.job with
  | .dqry _ g b _ => some (g, b)
  | .dqryv _ _ _ g (b :: _) _ => some (g, b)
  | .dscan g (b :: _) => some (g, b)
  | .ldv _ _ _ g b _ none _ _ => some (g, b)
  | _ => none

/-- A query whose point follows the earlier operations of its core on the block (R216); DSCAN only follows queries (R196). -/
def Job.pointed : Job → Bool
  | .dscan _ _ => false
  | _ => true

/-- All the blocks in which a query has still to take a point. -/
def Flight.queryBlocks (f : Flight) : List (Nat × Nat) :=
  match f.job with
  | .dqryv _ _ _ g bs _ => bs.map (fun b => (g, b))
  | .dscan g bs => bs.map (fun b => (g, b))
  | _ => f.queryBlock.toList

/-- All the blocks whose version a query has still to read: an LDV reads it a second time at its end (R138). -/
def Flight.versionBlocks (f : Flight) : List (Nat × Nat) :=
  match f.job with
  | .ldv _ _ _ g b _ _ _ _ => [(g, b)]
  | _ => f.queryBlocks

/-- An operation, or an echo of it, has still to write in a block. -/
def writesBlock (s : State) (f : Flight) (g b : Nat) : Bool :=
  match s.region? g with
  | none => false
  | some r =>
    f.targets.any (fun p => (r.blocksOf p.1 p.2).contains b) ||
      s.echoes.any (fun e => e.op == f.id && (r.blocksOf e.key e.new.length).contains b)

/-- Some of these bytes lie in a page that is migrating (R214). -/
def State.migratingAt (s : State) (key len : Nat) : Bool :=
  s.migrations.any (fun m => let k := placeKey 0 m.space m.phys; decide (k < key + len) && decide (key < k + m.size))

/-- A byte has an echo pending (R323). -/
def State.echoAt (s : State) (key len : Nat) : Bool :=
  s.echoes.any (fun e => decide (e.key < key + len) && decide (key < e.key + e.new.length))

/-- An operation that has reached a chip's near-memory atomic unit has still to update one of these bytes (R323). -/
def State.unitHolds (s : State) (key len : Nat) : Bool :=
  s.units.any (fun u => u.kind == .atomic && (match s.flight? u.op with
    | none => false
    | some f => f.job.elems.any (fun e => chipOf e.key == u.chip && decide (e.key < key + len) &&
        decide (key < e.key + elemBytes f.job.elemType))))

/-- Two accesses of a core that commit at one location in core order: those that the A-stream performs itself (R130), and tape
writes (R338). -/
def Job.inOrder (a b : Job) : Bool :=
  (a.direct && b.direct) || (match a, b with | .tapeWrite, .tapeWrite => true | _, _ => false)

/-- Another `.sc` access of several sectors has performed a part: it takes its one place in the single order before any other (R231). -/
def scBusy (s : State) (id : Nat) : Bool := s.flights.any (fun g => g.id != id && g.job.direct && g.released && placedSc g.ord g.sco)

/-- Nothing holds an operation back from its next step: the operations it must follow are over, accesses of one A-stream, and tape
writes, to one location go in order (R130, R338), queries follow the operations and queries before them on their block and come
before the operations after them (R196, R216), a store or atomic waits while its page migrates (R214) and while an operation that has reached
a unit before it, or an echo, concerns a byte it writes (R323), a write to a read-duplicated page waits for the acknowledgements (R313),
and an `.sc` access does not come into another (R231). -/
def mayPerform (s : State) (f : Flight) : Bool :=
  (s.still f.after).isEmpty && f.dups.isEmpty &&
    s.flights.all (fun g => !(decide (g.id < f.id) && g.core == f.core &&
      ((f.job.inOrder g.job && f.todo.any (fun a => g.todo.any a.meets)) ||
        (match f.queryBlock with
          | none => false
          | some (r, b) => g.queryBlocks.contains (r, b) || (f.job.pointed && writesBlock s g r b)) ||
        (f.write && g.job.pointed && g.versionBlocks.any (fun q => writesBlock s f q.1 q.2))))) &&
    !(placedSc f.ord f.sco && scBusy s f.id) &&
    (!f.write || !f.held.isEmpty || f.places.all (fun p => !s.migratingAt p.1 p.2)) &&
    (!f.write || f.todo.all (fun t => !s.echoAt t.key t.len && !s.unitHolds t.key t.len))

/-- An update of a block by an operation answers no sooner than R218 gives for an entry that it finds: counted from its issue, or
from its arrival from another device (DEDUCED, log 126). -/
def Flight.updateMay (f : Flight) (now : Nat) (x : Option (Region × Nat)) : Bool := x.isNone || decide (f.issued + hitCycles ≤ now)

/-! ### Commits -/

/-- A committed write wakes the waiters of its sectors (R156) and is noted against the read each core made last (R155). -/
def noteWrite (s : State) (key len : Nat) : State :=
  let hit := fun (sec : Nat) => decide (key / 32 ≤ sec) && decide (sec ≤ (key + len - 1) / 32)
  let seen := fun (r : LastRead) (sec : Nat) => match r.op with
    | none => true
    | some id => match s.flight? id with
      | none => true
      | some f => !f.todo.any (fun t => decide (t.key / 32 ≤ sec) && decide (sec ≤ (t.key + t.len - 1) / 32))
  let note := fun (k : Core) => match k.lastRead with
    | none => k
    | some r => { k with lastRead := some { r with
        written := r.written ++ r.sectors.filter (fun sec => hit sec && seen r sec && !r.written.contains sec) } }
  if len = 0 then s
  else { (s.onCores note) with watch := s.watch.map (fun w => if hit w.sector then { w with woken := true } else w) }

/-- Commit bytes outside every digest block. -/
def commitBytes (s : State) (key : Nat) (data : List Byte) : State := noteWrite (s.store key data) key data.length

/-- Commit the bytes of one commit step outside every digest block. -/
def commitWrites (s : State) (w : List (Nat × List Byte)) : State := w.foldl (fun t p => noteWrite t p.1 p.2.length) (s.storeAll w)

/-- Commit a write transaction on a block at its port (R209); its entry is used in the digest cache. -/
def commitBlock (s : State) (g : Region) (b : Nat) (w : List (Nat × List Byte)) : State × Bool :=
  let r := transact s g b w
  ((useEntry (w.foldl (fun t p => noteWrite t p.1 p.2.length) r.1) g b true).1, r.2)

/-- Commit bytes that lie in one sector, or in one block: the answer says whether a digest port met an error (R215). -/
def commitAt (s : State) (key : Nat) (data : List Byte) : State × Bool :=
  match s.blockAt key with
  | some (g, b) => commitBlock s g b [(key, data)]
  | none => (commitBytes s key data, false)

/-! ### Sectors and transactions of an operation (R145) -/

/-- The first `n` bytes of a segment, and the rest. -/
def Seg.cut (g : Seg) (n : Nat) : Seg × Option Seg :=
  if g.len ≤ n then (g, none)
  else ({ g with len := n, data := g.data.take n },
    some { g with key := g.key + n, len := g.len - n, src := g.src.map (· + n), data := g.data.drop n })

/-- The end of the sector of a key. -/
def sectorEnd (key : Nat) : Nat := key / 32 * 32 + 32

/-- The segments at the head of some that lie in a sector, each up to a bound, and the rest: those of one row or run that lie there
form one step (R145, R243). -/
def takeSector (stop : Nat → Nat) (sector : Nat) : List Seg → List Seg × List Seg
  | [] => ([], [])
  | g :: rest =>
    if g.key / 32 ≠ sector ∨ stop g.key ≤ g.key then ([], g :: rest)
    else match g.cut (stop g.key - g.key) with
      | (a, some b) => ([a], b :: rest)
      | (a, none) => let r := takeSector stop sector rest; (a :: r.1, r.2)

/-- The first key above this one at which a region's bytes begin, if one lies below `stop`. -/
def regionStart (s : State) (key stop : Nat) : Nat :=
  s.regions.foldl (fun e g => g.pages.foldl (fun e p => if key < p.2.1 ∧ p.2.1 < e then p.2.1 else e) e) stop

/-- How far from a key the bytes of its sector go that lie in no region; nowhere from a byte of a region. -/
def plainEnd (s : State) (key : Nat) : Nat :=
  if (s.blockAt key).isSome then key else regionStart s key (sectorEnd key)

/-- The part of a segment from key `a` on, of `n` bytes. -/
def Seg.part (t : Seg) (a n : Nat) : Seg :=
  { t with key := a, len := n, src := t.src.map (· + (a - t.key)), data := (t.data.drop (a - t.key)).take n }

/-- Cut a segment by a range of keys: its part inside, and what is left. -/
def splitRange (p : Nat × Nat) (t : Seg) : List Seg × List Seg :=
  let lo := max t.key p.1
  let hi := min (t.key + t.len) (p.1 + p.2)
  if hi ≤ lo then ([], [t])
  else ([t.part lo (hi - lo)], (if t.key < lo then [t.part t.key (lo - t.key)] else []) ++
    (if hi < t.key + t.len then [t.part hi (t.key + t.len - hi)] else []))

/-- The ranges of keys that hold a block: one for each page that it lies in. -/
def Region.blockParts (g : Region) (b : Nat) : List (Nat × Nat) :=
  g.pages.filterMap (fun p =>
    let lo := max p.1 (b * g.blockBytes)
    let hi := min (p.1 + p.2.2) ((b + 1) * g.blockBytes)
    if lo < hi then some (p.2.1 + (lo - p.1), hi - lo) else none)

/-- Cut a segment by a block of a region: its parts inside, and outside. -/
def splitBlock (g : Region) (b : Nat) (t : Seg) : List Seg × List Seg :=
  (g.blockParts b).foldl (fun (a : List Seg × List Seg) p =>
    let r := a.2.map (splitRange p)
    (a.1 ++ r.flatMap (·.1), r.flatMap (·.2))) ([], [t])

/-- The segments of an operation that commit together next: those of one digest block in one transaction, or those of one
sector (R145, R208); with the region and block, if digested, and what is left. -/
def nextPart (s : State) (todo : List Seg) : Option (Region × Nat) × List Seg × List Seg :=
  match todo with
  | [] => (none, [], [])
  | g :: _ =>
    match s.blockAt g.key with
    | some (r, b) =>
      let ps := todo.map (splitBlock r b)
      (some (r, b), ps.flatMap (·.1), ps.flatMap (·.2))
    | none =>
      let r := takeSector (plainEnd s) (g.key / 32) todo
      (none, r.1, r.2)

/-- The bytes that a segment writes: its own, or those at its source now. -/
def Seg.bytesOf (s : State) (g : Seg) : List Byte :=
  match g.src with
  | none => g.data
  | some k => s.bytes k g.len

/-- A source byte of these segments is uncorrectable: where. -/
def badSource (s : State) (l : List Seg) : Option Nat :=
  (l.find? (fun g => match g.src with | none => false | some k => g.bad || s.poisoned k g.len)).bind (·.src)

/-- The sectors that some segments read. -/
def sourceSectors (l : List Seg) : List Nat :=
  (l.flatMap (fun g => match g.src with
    | none => []
    | some k => (List.range ((k + g.len - 1) / 32 - k / 32 + 1)).map (k / 32 + ·))).eraseDups

/-- The bytes of a segment that lie in a source sector are read now, from one point of that sector's commit order (R243). -/
def Seg.fetch (s : State) (sector : Nat) (g : Seg) : List Seg :=
  match g.src with
  | none => [g]
  | some k =>
    let lo := max k (32 * sector)
    let hi := min (k + g.len) (32 * sector + 32)
    if g.bad || decide (hi ≤ lo) then [g]
    else
      let mid := g.part (g.key + (lo - k)) (hi - lo)
      (if k < lo then [g.part g.key (lo - k)] else []) ++
        [if s.poisoned lo (hi - lo) then { mid with bad := true } else { mid with src := none, data := s.bytes lo (hi - lo) }] ++
        (if hi < k + g.len then [g.part (g.key + (hi - k)) (k + g.len - hi)] else [])

/-- What is left of a copy after a step that has read these source sectors: its other bytes there have been read with them. -/
def fetchSectors (s : State) (sectors : List Nat) (todo : List Seg) : List Seg :=
  sectors.foldl (fun l k => l.flatMap (Seg.fetch s k)) todo

/-- The first segment is in host memory (R372). -/
def Flight.atHost (f : Flight) : Bool :=
  match f.todo with
  | g :: _ => spaceOfKey g.key == 5 || (match g.src with | some k => spaceOfKey k == 5 | none => false)
  | [] => false

/-- ECC_UNCORRECTABLE of the memory that holds a key (R287). -/
def eccAt (f : Flight) (key : Nat) : TrapInfo :=
  { cause := .eccUncorrectable, aux0 := eccUnit key, addr := BitVec.ofNat 64 f.va, hnd := f.hnd }

/-! ### Completions -/

/-- The report that an operation's deferred error awaits (R128, R302). -/
def Flight.reportIndex (f : Flight) : Nat :=
  match f.job, f.reg with
  | .nm _ _ _ none, none => 32
  | .remoteAtomic _, none => 33
  | .tapeWrite, _ => 34
  | _, some r => r
  | _, none => 0

/-- The deferred error of an operation: that of an RFADD or an RCAS awaits a reader of its register (R128). -/
def Flight.deferred (f : Flight) (e : TrapInfo) : Deferred :=
  { info := e, pc := f.pc, readOnly := (match f.job with | .remoteAtomic _ => true | _ => false) && f.reg.isSome }

/-- An operation is over: an error of it becomes a report of its core, or, for an access from a device, the answer to it
(R128, R363). -/
def endFlight (s : State) (f : Flight) : State :=
  let s := s.dropFlight f.id
  match f.origin with
  | some o => sendAnswer s o.1 (.answer o.2.2 true f.got f.error)
  | none => match (if f.orphan then none else f.error) with
    | none => s
    | some e => s.onCore f.core (fun k => k.defer f.reportIndex (f.deferred e))

/-- Write an address register of a core. -/
def setAddr (s : State) (n : Nat) (reg : Option Nat) (x : Word) : State :=
  match reg with
  | none => s
  | some r => s.onCore n (fun k => { k with aregs := writeReg k.aregs (Fin.ofNat 32 r) x })

/-- What an element that could not be read leaves in the register that was to get it is free (R324; DESIGN CHOICE, log 4, 142). -/
def spoilReg (s : State) (f : Flight) (ty : ElemCode) : State :=
  if f.reg.isNone then s else setAddr s.free.2 f.core f.reg (registerOfElem ty (s.free.1 % 2 ^ elemBits ty))

/-- Add a byte count to a token (R144). -/
def addToken (s : State) (n : Nat) (reg : Option Nat) (x : Nat) : State :=
  match reg with
  | none => s
  | some r => s.onCore n (fun k =>
      { k with aregs := writeReg k.aregs (Fin.ofNat 32 r) (readReg k.aregs (Fin.ofNat 32 r) + BitVec.ofNat 64 x) })

/-- Fill a reserved entry of a load queue (R22). -/
def fillLq (s : State) (n q : Nat) (seq : BitVec 32) (e : LqEntry) : State :=
  s.onCore n (fun k => k.setLoadQueue (Fin.ofNat 4 q) ((k.loadQueue (Fin.ofNat 4 q)).fill seq (fun _ => e)))

/-- Fill several entries in turn. -/
def fillLqs (s : State) (n q : Nat) (seq : BitVec 32) : List LqEntry → State
  | [] => s
  | e :: r => fillLqs (fillLq s n q seq e) n q (seq + 1) r

/-- The entry that carries data, or the error of the operation. -/
def entryOf (f : Flight) (v : Vec) : LqEntry := { data := some v, error := f.error.map f.deferred }

/-- The acquire effect of an operation, if it has one (R232). An operation that its core has left behind acquires for none. -/
def acquireOf (s : State) (f : Flight) : State := if isAcq f.ord && !f.orphan then s.acquire f.core else s

/-- The release effect of an operation, once, before its own commit (R232). For one that its core has left behind the clock alone
advances (DEDUCED, log 217). -/
def releaseOf (s : State) (f : Flight) : State × Flight :=
  if isRel f.ord && !f.released then (if f.orphan then s.releaseClock else s.release f.core, { f with released := true }) else (s, f)

/-- An error of an operation that concerns entry `i` of those it fills: the first of an entry, and of the operation, stands. -/
def Flight.blame (f : Flight) (i : Nat) (t : TrapInfo) : Flight :=
  { f with error := some (f.error.getD t), bad := if f.bad.any (·.1 == i) then f.bad else f.bad ++ [(i, t)] }

/-- The entries, 256 bytes each, that some segments fill from byte `o` on and of which a byte is uncorrectable, with its key. -/
def badEntries (s : State) : Nat → List Seg → List (Nat × Nat)
  | _, [] => []
  | o, g :: r =>
    (List.range ((o + g.len - 1) / 256 - o / 256 + 1)).filterMap (fun j =>
      let i := o / 256 + j
      let lo := max o (256 * i)
      let hi := min (o + g.len) (256 * (i + 1))
      if s.poisoned (g.key + (lo - o)) (hi - lo) then some (i, g.key + (lo - o)) else none) ++ badEntries s (o + g.len) r

/-- What a load meets as it reads some segments, which follow what it has read. -/
def Flight.blameRead (s : State) (f : Flight) (l : List Seg) : Flight :=
  (badEntries s f.got.length l).foldl (fun (g : Flight) p => g.blame p.1 (eccAt f p.2)) f

/-- Entries of a load queue that a block of some bytes takes (R138). -/
def blockEntries (b : Nat) : Nat := max 1 (b / 256)

/-- The data of a load is all there: what the operation writes (R135, R137, R138). -/
def finishLoad (s : State) (f : Flight) : State :=
  match f.job with
  | .ld q seq ty => (fillLq s f.core q seq (entryOf f (loadEntry ty f.got))).dropFlight f.id
  | .ldt q seq => (fillLq s f.core q seq (entryOf f (vecOfBytes f.got))).dropFlight f.id
  | .lda ty =>
    if f.error.isSome then endFlight (spoilReg s f ty) f
    else endFlight (setAddr s f.core f.reg (registerOfElem ty (leNat f.got))) f
  | .ldv q seq n _ _ old v1 v2 bit =>
    let first := v1.getD 0
    let v2 := v2.getD first
    let changed := first != old || v2 != first
    let es := (List.range n).map (fun i => entryOf { f with error := (f.bad.find? (fun e => e.1 == i)).map (·.2) } (vecOfBytes ((f.got.drop (256 * i)).take 256)))
    let s := fillLqs s f.core q seq es
    let s := setAddr s f.core f.reg (zext v2 ||| (if changed then 0x100000000 else 0))
    let s := match bit with
      | none => s
      | some k => s.onCore f.core (fun c => { c with bqa := c.bqa.fill k (fun _ => { bit := some changed, since := s.now }) })
    s.dropFlight f.id
  | _ => s

/-- ECC_UNCORRECTABLE of a digest entry, in near memory (R215). -/
def entryEcc (f : Flight) : TrapInfo := { eccAt f 0 with aux0 := 2 }

/-- An LDV reads a version of its block: v1 with its first part, which is also v2 of a block read whole (R138), or v2 after the
last. An entry found uncorrectable is an error of the LDV, raised at the pop of the entry read with it (R215; DEDUCED, log 238). -/
def readVersion (s : State) (f : Flight) : State × Flight :=
  match f.job with
  | .ldv q seq n g b old v1 none bit =>
    let p := match s.region? g with | some r => readEntry s r b | none => (s, {}, false)
    let v := some p.2.1.version
    let f := if p.2.2 then f.blame (if v1.isSome then n - 1 else 0) (entryEcc f) else f
    (p.1, { f with job := .ldv q seq n g b old (some (v1.getD p.2.1.version)) (if v1.isSome || n == 1 then v else none) bit })
  | _ => (s, f)

/-- An LDV of which the first, or the second, version is still to be read. -/
def Flight.wantsFirst (f : Flight) : Bool := match f.job with | .ldv _ _ _ _ _ _ none _ _ => true | _ => false
def Flight.wantsLast (f : Flight) : Bool := match f.job with | .ldv _ _ _ _ _ _ _ none _ => true | _ => false

/-- Read the next sector of a load, or all of a block of at most 256 bytes with its version (R138, R243). -/
def readPart (s : State) (f : Flight) : State × Flight :=
  let whole := match f.job with | .ldv _ _ n _ _ _ _ _ _ => n == 1 | .lda _ => true | _ => false
  let r := match (if whole then [] else f.todo) with
    | [] => (f.todo, [])
    | g :: _ => takeSector sectorEnd (g.key / 32) f.todo
  let f := f.blameRead s r.1
  let p := if f.wantsFirst then readVersion s f else (s, f)
  (p.1, { p.2 with todo := r.2, got := f.got ++ r.1.flatMap (fun g => s.bytes g.key g.len) })

/-- A step of a load: the next part is read, or the second version of a larger block (R138). When all has been read, the load
returns its value (R232) and completes. -/
def loadStep (s : State) (f : Flight) : State :=
  let r := releaseOf s f
  if f.todo.isEmpty then
    if f.wantsLast then
      let p := readVersion r.1 r.2
      finishLoad (acquireOf p.1 p.2) p.2
    else finishLoad s f
  else
    let p := readPart r.1 r.2
    if p.2.todo.isEmpty && !p.2.wantsLast then finishLoad (acquireOf p.1 p.2) p.2 else p.1.putFlight p.2

/-- Bytes in some segments. -/
def segBytes (l : List Seg) : Nat := (l.map (·.len)).sum

/-- Count the bytes that a copy, PUT or GET has written. -/
def Job.wrote (j : Job) (n : Nat) : Job :=
  match j with
  | .copy w x => .copy (w + n) x
  | .get a w => .get a (w + n)
  | j => j

/-- The bytes that a copy has written. -/
def Job.written : Job → Nat
  | .copy w _ | .put _ w | .get _ w => w
  | _ => 0

/-- Record a plain write in its granules as it commits (R236). -/
def recordCommit (s : State) (f : Flight) (l : List Seg) : State :=
  if f.watched && f.write then (l.flatMap (granulesOf s)).foldl (fun t q => t.recordWrite f.core q.1) s else s

/-- A sector, or a transaction, of an operation commits (R145, R209). A source byte found uncorrectable ends a copy there;
what has been written stays written (R128). -/
def commitStep (s : State) (f : Flight) : State :=
  let p := nextPart s f.todo
  match badSource s p.2.1 with
  | some k => s.putFlight { f with todo := [], error := some ((f.error).getD (eccAt f k)) }
  | none =>
    let r := releaseOf s f
    let w := p.2.1.map (fun g => (g.key, g.bytesOf r.1))
    let c := match p.1 with
      | some (g, b) => commitBlock r.1 g b w
      | none => (commitWrites r.1 w, false)
    let key := match p.2.1 with | g :: _ => g.key | [] => 0
    let cut := p.2.1.any (fun g => s.cutOff g.key g.len)
    let f := { r.2 with todo := fetchSectors r.1 (sourceSectors p.2.1) p.2.2, job := r.2.job.wrote (segBytes p.2.1),
                        error := if c.2 || cut then some ((f.error).getD (eccAt f key)) else f.error }
    (recordCommit c.1 f p.2.1).putFlight f

/-- An operation whose last sector has committed is over, unless it is a copy, PUT, GET or collective, which completes
in its own step. -/
def finishStore (s : State) (id : Nat) : State :=
  match s.flight? id with
  | none => s
  | some f =>
    match f.job with
    | .store | .tapeWrite => if f.todo.isEmpty then endFlight (acquireOf s f) f else s
    | _ => s

end Sys2Proof.Machine
end

