-- ==== Sys2Proof/Machine/AScalar.lean ====
section
/-! DEFINITION. The A-stream's address arithmetic, branches, queues and END (R129, R131–R134). -/
namespace Sys2Proof.Machine

/-- aD := a op b, once the registers have no outstanding writers (R129, R131). -/
def aluA (o : Alu) (y : BitVec 4) (d a b : Reg) (s : State) : Host.Outcome State Fault Refusal :=
  issue .A y s (fun s => withRegs s [a, b] [d] (.retire (s.wa d (aluOp o (s.ra a) (s.ra b)))))

/-- aD := aA op an immediate (R131). -/
def aluImmA (o : Alu) (y : BitVec 4) (d a : Reg) (imm : Word) (s : State) : Host.Outcome State Fault Refusal :=
  issue .A y s (fun s => withRegs s [a] [d] (.retire (s.wa d (aluOp o (s.ra a) imm))))

/-- A conditional branch of the A-stream (R132). -/
def branchA (c : Cond) (y : BitVec 4) (a b : Reg) (o : BitVec 16) (s : State) : Host.Outcome State Fault Refusal :=
  issue .A y s (fun s => withRegs s [a, b] []
    (if condHolds c (s.ra a) (s.ra b) then .jump s (branchTarget .A s (sext o)) else .retire s))

/-- ADD of the A-stream (R131). -/
def execAAdd (y : BitVec 4) (d a b : Reg) (s : State) : Host.Outcome State Fault Refusal := aluA .add y d a b s

/-- SUB of the A-stream (R131). -/
def execASub (y : BitVec 4) (d a b : Reg) (s : State) : Host.Outcome State Fault Refusal := aluA .sub y d a b s

/-- AND of the A-stream (R131). -/
def execAAnd (y : BitVec 4) (d a b : Reg) (s : State) : Host.Outcome State Fault Refusal := aluA .and y d a b s

/-- OR of the A-stream (R131). -/
def execAOr (y : BitVec 4) (d a b : Reg) (s : State) : Host.Outcome State Fault Refusal := aluA .or y d a b s

/-- XOR of the A-stream (R131). -/
def execAXor (y : BitVec 4) (d a b : Reg) (s : State) : Host.Outcome State Fault Refusal := aluA .xor y d a b s

/-- SHL of the A-stream (R131). -/
def execAShl (y : BitVec 4) (d a b : Reg) (s : State) : Host.Outcome State Fault Refusal := aluA .shl y d a b s

/-- SHR of the A-stream (R131). -/
def execAShr (y : BitVec 4) (d a b : Reg) (s : State) : Host.Outcome State Fault Refusal := aluA .shr y d a b s

/-- SRA of the A-stream (R131). -/
def execASra (y : BitVec 4) (d a b : Reg) (s : State) : Host.Outcome State Fault Refusal := aluA .sra y d a b s

/-- MUL of the A-stream (R131). -/
def execAMul (y : BitVec 4) (d a b : Reg) (s : State) : Host.Outcome State Fault Refusal := aluA .mul y d a b s

/-- MIN of the A-stream (R131). -/
def execAMin (y : BitVec 4) (d a b : Reg) (s : State) : Host.Outcome State Fault Refusal := aluA .min y d a b s

/-- MAX of the A-stream (R131). -/
def execAMax (y : BitVec 4) (d a b : Reg) (s : State) : Host.Outcome State Fault Refusal := aluA .max y d a b s

/-- SEQ of the A-stream (R131). -/
def execASeq (y : BitVec 4) (d a b : Reg) (s : State) : Host.Outcome State Fault Refusal := aluA .seq y d a b s

/-- SNE of the A-stream (R131). -/
def execASne (y : BitVec 4) (d a b : Reg) (s : State) : Host.Outcome State Fault Refusal := aluA .sne y d a b s

/-- SLT of the A-stream (R131). -/
def execASlt (y : BitVec 4) (d a b : Reg) (s : State) : Host.Outcome State Fault Refusal := aluA .slt y d a b s

/-- SLTU of the A-stream (R131). -/
def execASltu (y : BitVec 4) (d a b : Reg) (s : State) : Host.Outcome State Fault Refusal := aluA .sltu y d a b s

/-- ADDI of the A-stream (R131). -/
def execAAddi (y : BitVec 4) (d a : Reg) (i : BitVec 32) (s : State) : Host.Outcome State Fault Refusal :=
  aluImmA .add y d a (sext i) s

/-- ANDI of the A-stream (R131). -/
def execAAndi (y : BitVec 4) (d a : Reg) (i : BitVec 32) (s : State) : Host.Outcome State Fault Refusal :=
  aluImmA .and y d a (sext i) s

/-- SHLI of the A-stream (R131). -/
def execAShli (y : BitVec 4) (d a : Reg) (n : BitVec 6) (s : State) : Host.Outcome State Fault Refusal :=
  aluImmA .shl y d a (zext n) s

/-- SHRI of the A-stream (R131). -/
def execAShri (y : BitVec 4) (d a : Reg) (n : BitVec 6) (s : State) : Host.Outcome State Fault Refusal :=
  aluImmA .shr y d a (zext n) s

/-- LI of the A-stream (R77, R131). -/
def execALi (y : BitVec 4) (d : Reg) (i : BitVec 32) (s : State) : Host.Outcome State Fault Refusal :=
  issue .A y s (fun s => withRegs s [] [d] (.retire (s.wa d (sext i))))

/-- LUI of the A-stream: (aD << 32) OR ZEXT(IMM32) (R77, R131). -/
def execALui (y : BitVec 4) (d : Reg) (i : BitVec 32) (s : State) : Host.Outcome State Fault Refusal :=
  issue .A y s (fun s => withRegs s [d] [] (.retire (s.wa d (s.ra d <<< 32 ||| zext i))))

/-- B of the A-stream (R132). -/
def execAB (y : BitVec 4) (o : BitVec 16) (s : State) : Host.Outcome State Fault Refusal :=
  issue .A y s (fun s => .jump s (branchTarget .A s (sext o)))

/-- BEQ of the A-stream (R132). -/
def execABeq (y : BitVec 4) (a b : Reg) (o : BitVec 16) (s : State) : Host.Outcome State Fault Refusal := branchA .eq y a b o s

/-- BNE of the A-stream (R132). -/
def execABne (y : BitVec 4) (a b : Reg) (o : BitVec 16) (s : State) : Host.Outcome State Fault Refusal := branchA .ne y a b o s

/-- BLT of the A-stream (R132). -/
def execABlt (y : BitVec 4) (a b : Reg) (o : BitVec 16) (s : State) : Host.Outcome State Fault Refusal := branchA .lt y a b o s

/-- BGE of the A-stream (R132). -/
def execABge (y : BitVec 4) (a b : Reg) (o : BitVec 16) (s : State) : Host.Outcome State Fault Refusal := branchA .ge y a b o s

/-- BLTU of the A-stream (R132). -/
def execABltu (y : BitVec 4) (a b : Reg) (o : BitVec 16) (s : State) : Host.Outcome State Fault Refusal := branchA .ltu y a b o s

/-- BGEU of the A-stream (R132). -/
def execABgeu (y : BitVec 4) (a b : Reg) (o : BitVec 16) (s : State) : Host.Outcome State Fault Refusal := branchA .geu y a b o s

/-- LOOP of the A-stream (R132). -/
def execALoop (y : BitVec 4) (a : Reg) (e : BitVec 16) (s : State) : Host.Outcome State Fault Refusal :=
  issue .A y s (fun s => withRegs s [a] [] (loopAct .A s e.toNat (s.ra a)))

/-- BRQ: pops bqx whether or not it transfers; a wait on an empty bqx is counted (R33, R132). -/
def execABrq (y : BitVec 4) (qual : BitVec 4) (o : BitVec 16) (s : State) : Host.Outcome State Fault Refusal :=
  issue .A y s (fun s => popOutcome s 7 s.core.bqx (fun s => .block (countLoss s) (.pop 7 1))
    (fun s q b =>
      let t := s.setCore { s.core with bqx := q }
      if b = qual.getLsbD 0 then .jump t (branchTarget .A s (sext o)) else .retire t))

/-- OPUSH of the A-stream (R133). -/
def execAOpush (y : BitVec 4) (a : Reg) (s : State) : Host.Outcome State Fault Refusal :=
  issue .A y s (fun s => withRegs s [a] []
    (if 128 ≤ s.core.bqa.items.length then .block s (.push 6 1)
     else .retire (s.setCore { s.core with bqa := s.core.bqa.push ⟨some (s.ra a != 0), s.now, none⟩ })))

/-- VQPOP (R33, R133). -/
def execAVqpop (y : BitVec 4) (d : Reg) (s : State) : Host.Outcome State Fault Refusal :=
  issue .A y s (fun s => withRegs s [] [d]
    (match s.core.vq.items with
      | [] => .block (countLoss s) (.pop 5 1)
      | x :: _ => .retire ((s.setCore { s.core with vq := s.core.vq.drop }).wa d x)))

/-- LDI: an entry with its data, which counts toward slip (R133). -/
def execALdi (y : BitVec 4) (q : LqNum) (a : Reg) (s : State) : Host.Outcome State Fault Refusal :=
  issue .A y s (fun s => withRegs s [a] []
    (match lqWait s.core q 1 with
      | some w => .block s w
      | none =>
        let v := vecOfLanes [(s.ra a).setWidth 32, (s.ra a >>> 32).setWidth 32]
        .retire (s.setCore (s.core.setLoadQueue q ((s.core.loadQueue q).push { data := some v })))))

/-- BOUND of the A-stream (R134). -/
def execABound (y : BitVec 4) (a : Reg) (s : State) : Host.Outcome State Fault Refusal :=
  issue .A y s (fun s => withRegs s [a] [] (boundAct .A s (s.ra a)))

/-- NOP of the A-stream (R134). -/
def execANop (y : BitVec 4) (s : State) : Host.Outcome State Fault Refusal := issue .A y s (fun s => .retire s)

/-- Raise the first report that is owed among some indices (R128). -/
def reportAny (s : State) : List Nat → Act → Act
  | [], k => k
  | i :: r, k => reportFirst s i (reportAny s r k)

/-- What END of the A-stream waits for: every store, copy, atomic and fabric operation that the stream has issued (R12), its operations of
the archive units, which END orders with what follows it (R226), and the tape writes before it (R192; DEDUCED, log 117). -/
def endOps (s : State) : List Nat :=
  s.opsWhere (fun f => f.core == s.core.num && ((f.stream == .A && f.job.ended) || f.job == .tapeWrite))

/-- END of the A-stream: what it waits for has committed, and every error still unreported is raised first (R12, R134, R192, R226). -/
def execAEnd (y : BitVec 4) (s : State) : Host.Outcome State Fault Refusal :=
  issue .A y s (fun s =>
    awaitOps .A 0x2C s (endOps s) (fun s =>
      reportAny s (List.range 34) (whenRoom .A y s (.finish s))))

end Sys2Proof.Machine
end

