-- ==== Sys2Proof/Machine/Access.lean ====
section
/-! DEFINITION. The accesses that the A-stream performs itself: LD, ST, LDT, STT, LDV, LDA, STA (R126, R127, R130, R135–R139). -/
namespace Sys2Proof.Machine

/-- The least cycles from issue to data (R50). -/
def latency (space : Nat) : Nat :=
  match space with
  | 0 => 6
  | 1 => 24
  | 2 => 420
  | 3 => 900
  | _ => 0

/-- Own accesses to these places that must come first, the operations that must be over, and, for an LDV, the queries before it on its
block and the operations before it that write there, before a read performs at the stamp check (R130, R196, R216, R231, R236). -/
def readHeld (s : State) (ord sco : BitVec 2) (spaces : List Nat) (segs : List Seg) (block : Option (Nat × Nat)) : Bool :=
  !(orderAfter s ord sco spaces).isEmpty || (placedSc ord sco && scBusy s 0) ||
    s.flights.any (fun g => g.core == s.core.num &&
      ((g.job.direct && g.todo.any (fun a => segs.any a.meets)) ||
        (match block with
          | none => false
          | some q => g.queryBlocks.contains q || writesBlock s g q.1 q.2)))

/-- Check 9 of R126, the last: an access that meets a watched space waits for the answer of the stamp check, in whose step
it is judged, and a plain one recorded (R127, R233, R236). -/
def stampGate (s : State) (ord : BitVec 2) (held : Bool) (l : List Span) (k : State → Act) : Act :=
  if !watchedSpans s l then k s
  else if !s.core.a.woken || held then
    match s.core.a.status with
    | .waiting (.stampCheck op) _ => .block s (.stampCheck op)
    | _ => .block { s with nextId := s.nextId + 1 } (.stampCheck s.nextId)
  else match raceTrap s l with
    | some t => .raise t
    | none => k (if ord = 0 then passCheck s l else s)

/-- A read that meets a watched space is performed in the step of its check (R236): its bytes, its version and its sync
effects are taken now; an LDV of more than 256 bytes reads its second version after (R138). -/
def capture (s : State) (f : Flight) : State × Flight :=
  let r := releaseOf s f
  let g := r.2.blameRead s f.todo
  let p := if f.wantsFirst then readVersion r.1 g else (r.1, g)
  (if p.2.wantsLast then p.1 else acquireOf p.1 p.2, { p.2 with got := f.todo.flatMap (fun g => s.bytes g.key g.len), todo := [] })

/-- Issue a read: its sectors are what the A-stream read last, where the instruction counts as such a read (R155). -/
def issueRead (s : State) (f : Flight) (watched counts : Bool) : State :=
  let sectors := f.todo.flatMap (fun g => (List.range ((g.key + g.len - 1) / 32 - g.key / 32 + 1)).map (fun i => g.key / 32 + i))
  let p := if watched then capture s f else (s, f)
  let id := p.1.nextId
  let t := p.1.begin p.2
  if counts then t.setCore { t.core with lastRead := some { sectors := sectors, op := if watched then none else some id } } else t

/-- A flight of the A-stream's instruction at pc. -/
def aFlight (s : State) (job : Job) : Flight := { id := 0, core := s.core.num, stream := .A, pc := s.core.a.pc, job := job }

/-- A register as the destination of an operation; register 0 discards (R16). -/
def destReg (d : Reg) : Option Nat := if d = 0 then none else some d.val

/-- The count of a run: the register, or without one the whole entry (R77, R135). -/
def runCount (s : State) (b : Reg) (ty : ElemCode) : Nat := if b = 0 then runLimit ty else (s.ra b).toNat

/-- An object that an access of this type may name: not REMOTE, and of the type's element size (R126 check 4, R135). -/
def accepts (p : Operand) (ty : ElemCode) : Bool := p.obj.space != 4 && elemBits p.obj.ty == elemBits ty

/-- LD (R135). With a count of 0 it accesses nothing, so it acquires nothing and has no place among the `.sc` accesses (DESIGN CHOICE, log 241). -/
def load (y : BitVec 4) (q : LqNum) (h : Handle) (cf b : Reg) (ty : ElemCode) (o sc : BitVec 2) (s : State) :
    Host.Outcome State Fault Refusal :=
  issue .A y s (fun s => operand s h cf.val [b.val] [] (fun p =>
    let n := runCount s b ty
    if !accepts p ty || decide (runLimit ty < n) then .raise (illegal .A s)
    else if n = 0 then
      match lqWait s.core q 1 with
      | some w => .block s w
      | none => .retire (s.setCore { s.core.setLoadQueue q ((s.core.loadQueue q).push { data := some Vec.zero }) with
          lastRead := some {} })
    else if !p.obj.inBounds p.crd n then .raise (p.outOfBounds false)
    else
      let l := p.run n false
      (checkSpans s [p] l).act s (fun _ =>
        match lqWait s.core q 1 with
        | some w => .block s w
        | none =>
          let segs := segsOfSpans s l
          stampGate s o (readHeld s o sc [p.obj.space] segs none) l (fun s =>
            let f := { aFlight s (.ld q.val (s.core.loadQueue q).tail ty) with
              ready := s.now + latency p.obj.space, ord := o, sco := sc, after := orderAfter s o sc [p.obj.space],
              spaces := [p.obj.space], hnd := hndWord p.hnd (some p.obj), va := p.va, todo := segs }
            .retire (issueRead (s.setCore (s.core.reserve q 1)) f (watchedSpans s l) true)))))

/-- LD of 8-bit elements (R135). -/
def execALd8 (y : BitVec 4) (q : LqNum) (h : Handle) (cf b : Reg) (ty : ElemCode) (o sc : BitVec 2) (s : State) :
    Host.Outcome State Fault Refusal := load y q h cf b ty o sc s

/-- LD of 16-bit elements (R135). -/
def execALd16 (y : BitVec 4) (q : LqNum) (h : Handle) (cf b : Reg) (ty : ElemCode) (o sc : BitVec 2) (s : State) :
    Host.Outcome State Fault Refusal := load y q h cf b ty o sc s

/-- LD of 32-bit elements (R135). -/
def execALd32 (y : BitVec 4) (q : LqNum) (h : Handle) (cf b : Reg) (ty : ElemCode) (o sc : BitVec 2) (s : State) :
    Host.Outcome State Fault Refusal := load y q h cf b ty o sc s

/-- LD of 64-bit elements (R135). -/
def execALd64 (y : BitVec 4) (q : LqNum) (h : Handle) (cf b : Reg) (ty : ElemCode) (o sc : BitVec 2) (s : State) :
    Host.Outcome State Fault Refusal := load y q h cf b ty o sc s

/-- Pop the head of sq for the A-stream, which waits while it is empty (R21). -/
def popSq (s : State) (k : State → Vec → Act) : Act :=
  match s.core.sq.items with
  | [] => .block s (.pop 4 1)
  | v :: _ => k (s.setCore { s.core with sq := s.core.sq.drop }) v

/-- Issue a write of bytes to the places of spans (R145). -/
def issueWrite (s : State) (p : Operand) (l : List Span) (o sc : BitVec 2) (data : List Byte) : State :=
  s.begin { aFlight s .store with
    ord := o, sco := sc, after := orderAfter s o sc [p.obj.space], watched := o = 0 && watchedSpans s l, write := true
    spaces := [p.obj.space], dups := dupsOf s l, hnd := hndWord p.hnd (some p.obj), va := p.va
    todo := fillSegs (segsOfSpans s l) data }

/-- ST (R136): checks, then the wait for the entry, then the stamp check; the entry is popped as the write issues. With a count of 0 the
entry is popped and nothing written, after the checks on the operand; then it releases nothing and has no place among the `.sc` accesses
(DESIGN CHOICE, log 241). -/
def store (y : BitVec 4) (h : Handle) (cf b : Reg) (ty : ElemCode) (o sc : BitVec 2) (s : State) : Host.Outcome State Fault Refusal :=
  issue .A y s (fun s => operand s h cf.val [b.val] [] (fun p =>
    let n := runCount s b ty
    if !accepts p ty || decide (runLimit ty < n) then .raise (illegal .A s)
    else if !p.obj.inBounds p.crd (max 1 n) then .raise (p.outOfBounds true)
    else
      let l := p.run n true
      (checkSpans s [p] l).act s (fun _ => popSq s (fun _ _ =>
        stampGate s o false l (fun s => popSq s (fun t v =>
          .retire (if n = 0 then t else issueWrite t p l o sc (storeBytes ty v n))))))))

/-- ST of 8-bit elements (R136). -/
def execASt8 (y : BitVec 4) (h : Handle) (cf b : Reg) (ty : ElemCode) (o sc : BitVec 2) (s : State) :
    Host.Outcome State Fault Refusal := store y h cf b ty o sc s

/-- ST of 16-bit elements (R136). -/
def execASt16 (y : BitVec 4) (h : Handle) (cf b : Reg) (ty : ElemCode) (o sc : BitVec 2) (s : State) :
    Host.Outcome State Fault Refusal := store y h cf b ty o sc s

/-- ST of 32-bit elements (R136). -/
def execASt32 (y : BitVec 4) (h : Handle) (cf b : Reg) (ty : ElemCode) (o sc : BitVec 2) (s : State) :
    Host.Outcome State Fault Refusal := store y h cf b ty o sc s

/-- ST of 64-bit elements (R136). -/
def execASt64 (y : BitVec 4) (h : Handle) (cf b : Reg) (ty : ElemCode) (o sc : BitVec 2) (s : State) :
    Host.Outcome State Fault Refusal := store y h cf b ty o sc s

/-- What LDT and STT accept: a unit innermost stride, and for 1-bit objects a multiple of 8 (R137). -/
def sliceOk (p : Operand) : Bool :=
  p.obj.space != 4 && p.obj.innerStride == 1 && (elemBits p.obj.ty != 1 || p.crd.getD (p.obj.rank - 1) 0 % 8 == 0)

/-- LDT (R137). -/
def execALdt (y : BitVec 4) (q : LqNum) (h : Handle) (cf : Reg) (s : State) : Host.Outcome State Fault Refusal :=
  issue .A y s (fun s => operand s h cf.val [] [] (fun p =>
    if !sliceOk p then .raise (illegal .A s)
    else if !p.obj.inBounds p.crd 1 then .raise (p.outOfBounds false)
    else
      let l : List Span := [⟨p, p.va, p.sliceBytes, false⟩]
      (checkSpans s [p] l).act s (fun _ =>
        match lqWait s.core q 1 with
        | some w => .block s w
        | none =>
          let segs := segsOfSpans s l
          stampGate s 0 (readHeld s 0 0 [p.obj.space] segs none) l (fun s =>
            let f := { aFlight s (.ldt q.val (s.core.loadQueue q).tail) with
              ready := s.now + latency p.obj.space, after := orderAfter s 0 0 [p.obj.space], spaces := [p.obj.space]
              hnd := hndWord p.hnd (some p.obj), va := p.va, todo := segs }
            .retire (issueRead (s.setCore (s.core.reserve q 1)) f (watchedSpans s l) false)))))

/-- STT (R137). -/
def execAStt (y : BitVec 4) (h : Handle) (cf : Reg) (s : State) : Host.Outcome State Fault Refusal :=
  issue .A y s (fun s => operand s h cf.val [] [] (fun p =>
    if !sliceOk p then .raise (illegal .A s)
    else if !p.obj.inBounds p.crd 1 then .raise (p.outOfBounds true)
    else
      let l : List Span := [⟨p, p.va, p.sliceBytes, true⟩]
      (checkSpans s [p] l).act s (fun _ => popSq s (fun _ _ =>
        stampGate s 0 false l (fun s => popSq s (fun t v =>
          .retire (issueWrite t p l 0 0 ((vecBytes v).take p.sliceBytes))))))))

/-- The region that an object names, judged as R146 gives: declared, of the object's type, and holding the named element;
with the number of the block. -/
def regionOf (s : State) (p : Operand) : Option (Region × Nat) :=
  if (p.obj.space = 2 ∨ p.obj.space = 3) ∧ p.obj.hasReg then
    match s.region? p.obj.region with
    | none => none
    | some g =>
      if g.ty = p.obj.ty ∧ g.base ≤ p.va ∧ p.va < g.base + g.size then some (g, (p.va - g.base) / g.blockBytes) else none
  else none

/-- The bytes of blocks of a region, by virtual address. -/
def blockSpan (p : Operand) (g : Region) (b n : Nat) : Span := ⟨p, g.base + b * g.blockBytes, n * g.blockBytes, false⟩

/-- LDV, with or without the outcome form (R138, R161): entries and the outcome bit are reserved together. Its block's entry is asked
for as it issues, and, where it is checked, is there before the check is answered (R218, R219). -/
def loadBlock (y : BitVec 4) (q : LqNum) (d : Reg) (h : Handle) (cf b : Reg) (o sc : BitVec 2) (outcome : Bool) (s : State) :
    Host.Outcome State Fault Refusal :=
  issue .A y s (fun s => operand s h cf.val [b.val] [d.val] (fun p =>
    match regionOf s p with
    | none => .raise (illegal .A s)
    | some (g, k) =>
      let n := blockEntries g.blockBytes
      if 64 < n then .raise (illegal .A s)
      else if !p.obj.inBounds p.crd 1 then .raise (p.outOfBounds false)
      else
        let l := [blockSpan p g k 1]
        (checkSpans s [p] l).act s (fun _ =>
          if s.core.slipmax.toNat < n then .raise (illegalSequence .A s)
          else if outcome && decide (128 ≤ s.core.bqa.items.length) then .block s (.push 6 1)
          else match lqWait s.core q n with
            | some w => .block s w
            | none =>
              let segs := segsOfSpans s l
              let u := useEntry s g k false
              stampGate u.1 o (readHeld u.1 o sc [p.obj.space] segs (some (g.num, k)) || u.2.isSome) l (fun s =>
                let bit := if outcome then some s.core.bqa.tail else none
                let f := { aFlight s (.ldv q.val (s.core.loadQueue q).tail n g.num k ((s.ra b).setWidth 32) none none bit) with
                  ready := s.now + latency p.obj.space, ord := o, sco := sc, after := orderAfter s o sc [p.obj.space]
                  spaces := [p.obj.space], fill := u.2, reg := destReg d, hnd := hndWord p.hnd (some p.obj), va := p.va, todo := segs }
                let t := s.setCore (s.core.reserve q n)
                let t := if outcome then t.setCore { t.core with bqa := t.core.bqa.push {} } else t
                .retire (issueRead t f (watchedSpans s l) true)))))

/-- LDV (R138). -/
def execALdv (y : BitVec 4) (q : LqNum) (d : Reg) (h : Handle) (cf b : Reg) (o sc : BitVec 2) (s : State) :
    Host.Outcome State Fault Refusal := loadBlock y q d h cf b o sc false s

/-- LDV in its outcome form (R138). -/
def execALdvBqa (y : BitVec 4) (q : LqNum) (d : Reg) (h : Handle) (cf b : Reg) (o sc : BitVec 2) (s : State) :
    Host.Outcome State Fault Refusal := loadBlock y q d h cf b o sc true s

/-- LDA (R139). -/
def loadReg (y : BitVec 4) (d : Reg) (h : Handle) (cf : Reg) (ty : ElemCode) (o sc : BitVec 2) (s : State) :
    Host.Outcome State Fault Refusal :=
  issue .A y s (fun s => operand s h cf.val [] [d.val] (fun p =>
    if !accepts p ty then .raise (illegal .A s)
    else if !p.obj.inBounds p.crd 1 then .raise (p.outOfBounds false)
    else
      let l := p.run 1 false
      (checkSpans s [p] l).act s (fun _ =>
        let segs := segsOfSpans s l
        stampGate s o (readHeld s o sc [p.obj.space] segs none) l (fun s =>
          let f := { aFlight s (.lda ty) with
            ready := s.now + latency p.obj.space, ord := o, sco := sc, after := orderAfter s o sc [p.obj.space]
            spaces := [p.obj.space], reg := destReg d, hnd := hndWord p.hnd (some p.obj), va := p.va, todo := segs }
          .retire (issueRead s f (watchedSpans s l) true)))))

/-- LDA of 8-bit elements (R139). -/
def execALda8 (y : BitVec 4) (d : Reg) (h : Handle) (cf : Reg) (ty : ElemCode) (o sc : BitVec 2) (s : State) :
    Host.Outcome State Fault Refusal := loadReg y d h cf ty o sc s

/-- LDA of 16-bit elements (R139). -/
def execALda16 (y : BitVec 4) (d : Reg) (h : Handle) (cf : Reg) (ty : ElemCode) (o sc : BitVec 2) (s : State) :
    Host.Outcome State Fault Refusal := loadReg y d h cf ty o sc s

/-- LDA of 32-bit elements (R139). -/
def execALda32 (y : BitVec 4) (d : Reg) (h : Handle) (cf : Reg) (ty : ElemCode) (o sc : BitVec 2) (s : State) :
    Host.Outcome State Fault Refusal := loadReg y d h cf ty o sc s

/-- LDA of 64-bit elements (R139). -/
def execALda64 (y : BitVec 4) (d : Reg) (h : Handle) (cf : Reg) (ty : ElemCode) (o sc : BitVec 2) (s : State) :
    Host.Outcome State Fault Refusal := loadReg y d h cf ty o sc s

/-- STA (R139). -/
def storeReg (y : BitVec 4) (h : Handle) (cf b : Reg) (ty : ElemCode) (o sc : BitVec 2) (s : State) :
    Host.Outcome State Fault Refusal :=
  issue .A y s (fun s => operand s h cf.val [b.val] [] (fun p =>
    if !accepts p ty then .raise (illegal .A s)
    else if !p.obj.inBounds p.crd 1 then .raise (p.outOfBounds true)
    else
      let l := p.run 1 true
      (checkSpans s [p] l).act s (fun _ =>
        stampGate s o false l (fun s => .retire (issueWrite s p l o sc (leBytes (elemBytes ty) (s.ra b).toNat))))))

/-- STA of 8-bit elements (R139). -/
def execASta8 (y : BitVec 4) (h : Handle) (cf b : Reg) (ty : ElemCode) (o sc : BitVec 2) (s : State) :
    Host.Outcome State Fault Refusal := storeReg y h cf b ty o sc s

/-- STA of 16-bit elements (R139). -/
def execASta16 (y : BitVec 4) (h : Handle) (cf b : Reg) (ty : ElemCode) (o sc : BitVec 2) (s : State) :
    Host.Outcome State Fault Refusal := storeReg y h cf b ty o sc s

/-- STA of 32-bit elements (R139). -/
def execASta32 (y : BitVec 4) (h : Handle) (cf b : Reg) (ty : ElemCode) (o sc : BitVec 2) (s : State) :
    Host.Outcome State Fault Refusal := storeReg y h cf b ty o sc s

/-- STA of 64-bit elements (R139). -/
def execASta64 (y : BitVec 4) (h : Handle) (cf b : Reg) (ty : ElemCode) (o sc : BitVec 2) (s : State) :
    Host.Outcome State Fault Refusal := storeReg y h cf b ty o sc s

end Sys2Proof.Machine
end

