-- ==== Sys2Proof/Machine/Atomic.lean ====
section
/-! DEFINITION. Atomics, ASCAT and the near-memory atomics (R151–R153, R157, R158, R213, R323, R324), FENCE and WAITA (R154–R156). -/
namespace Sys2Proof.Machine

/-! ### The arithmetic (R152) -/

/-- A signed or floating-point minimum or maximum of two elements (R152). -/
def pickElem (ty : ElemCode) (max : Bool) (a b : Nat) : Nat :=
  if ty = 5 then
    let x := ofFp32 (BitVec.ofNat 32 a)
    let y := ofFp32 (BitVec.ofNat 32 b)
    match (if max then pickMax x y else pickMin x y) with
    | none => 0x7FC00000
    | some true => a
    | some false => b
  else
    let w := elemBits ty
    let x := (BitVec.ofNat w a).toInt
    let y := (BitVec.ofNat w b).toInt
    if max then (if x < y then b else a) else if y < x then b else a

/-- The new value of an element of `w` bits; none where ACAS fails. -/
def atomNew (op : AtomOp) (ty : ElemCode) (old v x : Nat) : Option Nat :=
  match op with
  | .add => some (if ty = 5 then (rn32 (Num.add 0 (ofFp32 (BitVec.ofNat 32 old)) (ofFp32 (BitVec.ofNat 32 v)))).toNat
      else (old + v) % 2 ^ elemBits ty)
  | .min => some (pickElem ty false old v)
  | .max => some (pickElem ty true old v)
  | .and => some (old &&& v)
  | .or => some (old ||| v)
  | .xor => some (old ^^^ v)
  | .xchg => some v
  | .cas => if old = v then some x else none

/-- A register narrowed to an element (R152). -/
def narrowTo (ty : ElemCode) (x : Word) : Word := BitVec.ofNat 64 (x.toNat % 2 ^ elemBits ty)

/-! ### Issue -/

/-- AADD to ACAS (R151, R152): `d` is the register of a returning atomic. -/
def atomic (op : AtomOp) (y : BitVec 4) (d : Option Reg) (h : Handle) (cf b x : Reg) (ty : ElemCode) (o sc : BitVec 2) (s : State) :
    Host.Outcome State Fault Refusal :=
  issue .A y s (fun s => operand s h cf.val [b.val, x.val] (d.map (·.val)).toList (fun p =>
    if p.obj.space = 4 ∨ p.obj.space = 5 ∨ elemBits p.obj.ty ≠ elemBits ty then .raise (illegal .A s)
    else if !p.obj.inBounds p.crd 1 then .raise (p.outOfBounds true)
    else
      let l := p.run 1 true
      (checkSpans s [p] l).act s (fun _ =>
        let es := (segsOfSpans s l).map (fun g => ⟨g.key, narrowTo ty (s.ra b), narrowTo ty (s.ra x)⟩)
        .retire (s.begin { aFlight s (.atomic op ty es none) with
          ord := o, sco := sc, after := engineAfter s o sc [p.obj.space], write := true, spaces := [p.obj.space], dups := dupsOf s l
          reg := d.bind destReg, hnd := hndWord p.hnd (some p.obj), va := p.va }))))

/-- AADD of INT32 (R152). -/
def execAAaddI32 (y : BitVec 4) (h : Handle) (cf b : Reg) (o sc : BitVec 2) (s : State) : Host.Outcome State Fault Refusal :=
  atomic .add y none h cf b 0 2 o sc s

/-- AADD of INT64 (R152). -/
def execAAaddI64 (y : BitVec 4) (h : Handle) (cf b : Reg) (o sc : BitVec 2) (s : State) : Host.Outcome State Fault Refusal :=
  atomic .add y none h cf b 0 3 o sc s

/-- AADD of FP32 (R152). -/
def execAAaddF32 (y : BitVec 4) (h : Handle) (cf b : Reg) (o sc : BitVec 2) (s : State) : Host.Outcome State Fault Refusal :=
  atomic .add y none h cf b 0 5 o sc s

/-- AMIN (R152). -/
def execAAmin (y : BitVec 4) (h : Handle) (cf b : Reg) (ty : ElemCode) (o sc : BitVec 2) (s : State) : Host.Outcome State Fault Refusal :=
  atomic .min y none h cf b 0 ty o sc s

/-- AMAX (R152). -/
def execAAmax (y : BitVec 4) (h : Handle) (cf b : Reg) (ty : ElemCode) (o sc : BitVec 2) (s : State) : Host.Outcome State Fault Refusal :=
  atomic .max y none h cf b 0 ty o sc s

/-- AAND (R152). -/
def execAAand (y : BitVec 4) (h : Handle) (cf b : Reg) (ty : ElemCode) (o sc : BitVec 2) (s : State) : Host.Outcome State Fault Refusal :=
  atomic .and y none h cf b 0 ty o sc s

/-- AOR (R152). -/
def execAAor (y : BitVec 4) (h : Handle) (cf b : Reg) (ty : ElemCode) (o sc : BitVec 2) (s : State) : Host.Outcome State Fault Refusal :=
  atomic .or y none h cf b 0 ty o sc s

/-- AXOR (R152). -/
def execAAxor (y : BitVec 4) (h : Handle) (cf b : Reg) (ty : ElemCode) (o sc : BitVec 2) (s : State) : Host.Outcome State Fault Refusal :=
  atomic .xor y none h cf b 0 ty o sc s

/-- AFADD of INT32 (R152). -/
def execAAfaddI32 (y : BitVec 4) (d : Reg) (h : Handle) (cf b : Reg) (o sc : BitVec 2) (s : State) : Host.Outcome State Fault Refusal :=
  atomic .add y (some d) h cf b 0 2 o sc s

/-- AFADD of INT64 (R152). -/
def execAAfaddI64 (y : BitVec 4) (d : Reg) (h : Handle) (cf b : Reg) (o sc : BitVec 2) (s : State) : Host.Outcome State Fault Refusal :=
  atomic .add y (some d) h cf b 0 3 o sc s

/-- AFADD of FP32 (R152). -/
def execAAfaddF32 (y : BitVec 4) (d : Reg) (h : Handle) (cf b : Reg) (o sc : BitVec 2) (s : State) : Host.Outcome State Fault Refusal :=
  atomic .add y (some d) h cf b 0 5 o sc s

/-- AXCHG (R152). -/
def execAAxchg (y : BitVec 4) (d : Reg) (h : Handle) (cf b : Reg) (ty : ElemCode) (o sc : BitVec 2) (s : State) :
    Host.Outcome State Fault Refusal := atomic .xchg y (some d) h cf b 0 ty o sc s

/-- ACAS (R152). -/
def execAAcas (y : BitVec 4) (d : Reg) (h : Handle) (cf b x : Reg) (ty : ElemCode) (o sc : BitVec 2) (s : State) :
    Host.Outcome State Fault Refusal := atomic .cas y (some d) h cf b x ty o sc s

/-- The operand of a lane of ASCAT: the named one with its innermost coordinate moved by the index (R153). -/
def Operand.shifted (p : Operand) (i : Nat) : Operand :=
  let c := p.crd.set (p.obj.rank - 1) (p.crd.getD (p.obj.rank - 1) 0 + i)
  { p with crd := c, va := p.obj.addr c }

/-- ASCAT (R127, R153): it waits for its two entries before it judges its targets; with a count of 0 it has none, and the element that it
names is judged (DEDUCED, log 226). -/
def execAAscat (y : BitVec 4) (h : Handle) (cf b : Reg) (ty : ElemCode) (s : State) : Host.Outcome State Fault Refusal :=
  issue .A y s (fun s => operand s h cf.val [b.val] [] (fun p =>
    let n := (s.ra b).toNat
    if p.obj.space ≠ 1 ∨ elemBits p.obj.ty ≠ elemBits ty ∨ 64 < n then .raise (illegal .A s)
    else match s.core.sq.items with
      | idx :: val :: _ =>
        let t := s.setCore { s.core with sq := s.core.sq.dropN 2 }
        let ops := (List.range n).map (fun i => p.shifted (idx.toList.getD i 0).toNat)
        match (if n = 0 then [p] else ops).find? (fun q => !q.obj.inBounds q.crd 1) with
        | some q => .raise (q.outOfBounds true)
        | none =>
          let l := ops.flatMap (fun q => q.run 1 true)
          (checkSpans s [p] l).act s (fun _ =>
            if n = 0 then .retire t
            else
              let es := (segsOfSpans s l).zipIdx.map (fun e => ⟨e.1.key, zext (val.toList.getD e.2 0), 0⟩)
              .retire (t.begin { aFlight s (.atomic .add ty es none) with
                after := engineAfter s 0 0 [1], write := true, spaces := [1], hnd := hndWord p.hnd (some p.obj), va := p.va }))
      | _ => .block s (.pop 4 2)))

/-- NMADD, NMMIN and NMMAX (R157). -/
def nearMemory (op : AtomOp) (y : BitVec 4) (h : Handle) (cf b : Reg) (ty : ElemCode) (s : State) : Host.Outcome State Fault Refusal :=
  issue .A y s (fun s => operand s h cf.val [b.val] [] (fun p =>
    let n := if b = 0 then 64 else (s.ra b).toNat
    if p.obj.space ≠ 3 ∨ elemBits p.obj.ty ≠ elemBits ty ∨ 64 < n then .raise (illegal .A s)
    else if !p.obj.inBounds p.crd (max 1 n) then .raise (p.outOfBounds true)
    else
      let l := (List.range n).flatMap (fun i => (p.shifted i).run 1 true)
      (checkSpans s [p] l).act s (fun _ => popSq s (fun t v =>
        let es := (segsOfSpans s l).zipIdx.map (fun e => ⟨e.1.key, zext (v.toList.getD e.2 0), 0⟩)
        .retire (if n = 0 then t else t.begin { aFlight s (.nm op ty es none) with
          after := engineAfter s 0 0 [3], write := true, spaces := [3], dups := dupsOf s l, hnd := hndWord p.hnd (some p.obj), va := p.va })))))

/-- NMADD of INT32 (R157). -/
def execANmaddI32 (y : BitVec 4) (h : Handle) (cf b : Reg) (s : State) : Host.Outcome State Fault Refusal := nearMemory .add y h cf b 2 s

/-- NMADD of FP32 (R157). -/
def execANmaddF32 (y : BitVec 4) (h : Handle) (cf b : Reg) (s : State) : Host.Outcome State Fault Refusal := nearMemory .add y h cf b 5 s

/-- NMMIN (R157). -/
def execANmmin (y : BitVec 4) (h : Handle) (cf b : Reg) (ty : ElemCode) (s : State) : Host.Outcome State Fault Refusal :=
  nearMemory .min y h cf b ty s

/-- NMMAX (R157). -/
def execANmmax (y : BitVec 4) (h : Handle) (cf b : Reg) (ty : ElemCode) (s : State) : Host.Outcome State Fault Refusal :=
  nearMemory .max y h cf b ty s

/-! ### Commit -/

/-- The operation on whose behalf an atomic performs: for one that a core of this device has sent to this device's own number, that
operation (R232, R363). -/
def Flight.issuer (f : Flight) (s : State) : Flight :=
  match f.origin with
  | some o => if o.1 = s.devid then (s.flight? o.2.2).getD f else f
  | none => f

/-- An atomic that has performed on all its elements is over: it acquires, and writes aD (R129, R152, R232); where its element could
not be read, what aD holds is free (R324; DESIGN CHOICE, log 4). -/
def finishAtomic (s : State) (f : Flight) : State :=
  let s := acquireOf s (f.issuer s)
  match f.job with
  | .atomic _ ty _ v | .nm _ ty _ v =>
    if f.origin.isSome then endFlight s { f with got := match v with | some x => leBytes (elemBytes ty) x.toNat | none => [] }
    else endFlight (match v with | some x => setAddr s f.core f.reg (registerOfElem ty x.toNat) | none => spoilReg s f ty) f
  | _ => endFlight s f

/-- The operation of a job on elements. -/
def atomOpOf : Job → AtomOp
  | .atomic o _ _ _ | .nm o _ _ _ => o
  | _ => .add

/-- A job with these elements left, and the value read of one; near-memory operations return none. -/
def Job.after (j : Job) (rest : List Elem) (v : Option Word) : Job :=
  match j with
  | .atomic o t _ _ => .atomic o t rest v
  | .nm o t _ _ => .nm o t rest none
  | j => j

/-- The first element of some for which a test holds, and the others. -/
def takeElem (p : Elem → Bool) : List Elem → Option (Elem × List Elem)
  | [] => none
  | e :: r => if p e then some (e, r) else (takeElem p r).map (fun q => (q.1, e :: q.2))

/-- An operation on elements ends when it has no element and no echo left; it then leaves its units' queues. -/
def unitEnd (s : State) (f : Flight) : State :=
  if f.job.elems.isEmpty && !s.echoes.any (fun e => e.op == f.id) then
    finishAtomic { s with units := s.units.filter (fun u => u.op != f.id) } f
  else s

/-- One element of an operation in one commit step at its port, outside the archive (R151–R153): the release effect, the old value,
the new one unless the element cannot be read or ACAS fails. -/
def commitElem (s : State) (f : Flight) (e : Elem) (rest : List Elem) : State :=
  let r := releaseOf s f
  let n := elemBytes f.job.elemType
  let old := r.1.word e.key n
  let bad := r.1.poisoned e.key n
  let c := match (if bad then none else atomNew (atomOpOf f.job) f.job.elemType old e.v.toNat e.x.toNat) with
    | none => (r.1, false)
    | some v => commitAt r.1 e.key (leBytes n v)
  let f := { r.2 with job := f.job.after rest (if bad then none else some (BitVec.ofNat 64 old)),
                      error := if bad || c.2 then some ((f.error).getD (eccAt f e.key)) else f.error }
  unitEnd (c.1.putFlight f) f

/-- ATOMIC_COMMIT: the next element of an atomic or ASCAT, in one commit step at its port (R151–R153); a near-memory operation too
where its page has moved to NEAR. -/
def execAtomicCommit (op : Nat) (s : State) : Host.Outcome State Fault Refusal :=
  match s.flight? op with
  | none => .next s
  | some f => match takeElem (fun e => spaceOfKey e.key != 3) f.job.elems with
    | none => .next s
    | some (e, rest) => .next (if mayPerform s f && f.updateMay s.now (s.blockAt e.key) then withSlot s (s.blockAt e.key) (fun s => commitElem s f e rest) else s)

/-! ### The near-memory atomic unit (R213, R320, R323, R324) -/

/-- Work of an operation that is still to do at a unit of a chip. -/
def worksAt (s : State) (u : UnitEntry) : Bool :=
  match s.flight? u.op with
  | none => false
  | some f => match u.kind with
    | .atomic => f.job.elems.any (fun e => spaceOfKey e.key == 3 && chipOf e.key == u.chip)
    | _ => match f.job with
      | .embag _ _ _ _ _ _ _ _ (some p) _ _ => p.left.contains u.chip
      | .kvatt _ _ _ _ _ _ _ _ (some p) _ _ => p.left.contains u.chip
      | _ => false

/-- The queue of a unit: the operations that have reached it and still have work there, in arrival order (R320). -/
def unitQueue (s : State) (chip : Nat) (kind : UnitKind) : List UnitEntry :=
  s.units.filter (fun u => u.chip == chip && u.kind == kind && worksAt s u)

/-- An operation has reached a unit. -/
def atUnit (s : State) (u : UnitEntry) : Bool := s.units.contains u

/-- A reduction from another device that has arrived before this operation, on one element with it, is still held at the die-side port:
they reach the unit in arrival order (R328). -/
def heldBefore (s : State) (u : UnitEntry) : Bool :=
  match s.flight? u.op with
  | none => false
  | some f => f.origin.isSome && s.flights.any (fun g => g.origin.isSome && decide (g.id < f.id) && !s.units.contains { u with op := g.id } &&
      f.job.elems.any (fun e => g.job.elems.any (fun x => decide (x.key < e.key + elemBytes f.job.elemType) && decide (e.key < x.key + elemBytes g.job.elemType))))

/-- A unit takes one more operation: its queue of 64 has room (R320). -/
def unitRoom (s : State) (u : UnitEntry) : Bool := decide ((unitQueue s u.chip u.kind).length < 64) && !heldBefore s u

/-- An operation reaches a unit, if its queue has room; else the die-side port holds it (R320). -/
def joinUnit (s : State) (u : UnitEntry) : State := if unitRoom s u then { s with units := s.units ++ [u] } else s

/-- The unit's operation is the first of its queue. -/
def unitHead (s : State) (u : UnitEntry) : Bool := (unitQueue s u.chip u.kind).head? == some u

/-- An operation goes on at a unit: it reaches it, or, when it is the first there, acts. -/
def atHead (s : State) (u : UnitEntry) (k : State → State) : State :=
  if !atUnit s u then joinUnit s u else if unitHead s u then k s else s

/-- What `atHead` would do is to act, or to take a free place. -/
def unitMay (s : State) (u : UnitEntry) : Bool :=
  if atUnit s u then unitHead s u else unitRoom s u

/-- Pending echoes that hold a new value at a chip (R323). -/
def pendingEchoes (s : State) (chip : Nat) : Nat := (s.echoes.filter (fun e => e.chip == chip && !e.new.isEmpty)).length

/-- A byte as the last pending echo that holds it leaves it, if one does (R323). -/
def echoByte (s : State) (k : Nat) : Option Byte :=
  (s.echoes.reverse.find? (fun e => !e.new.isEmpty && decide (e.key ≤ k) && decide (k < e.key + e.new.length))).bind (fun e => e.new[k - e.key]?)

/-- The latest value of an element in the unit's order: its pending bytes, or the committed ones (R323). -/
def latestBytes (s : State) (key n : Nat) : List Byte :=
  (List.range n).map (fun i => (echoByte s (key + i)).getD (Memory.get s.mem (key + i)))

/-- A byte of an element that its update reads from the chip's memory is uncorrectable. -/
def elemBad (s : State) (key n : Nat) : Bool := (List.range n).any (fun i => (echoByte s (key + i)).isNone && s.poisoned (key + i) 1)

/-- Send an echo of an element. -/
def sendEcho (s : State) (chip op key n : Nat) (old new : List Byte) : State :=
  { s with echoes := s.echoes ++ [{ id := s.nextId, chip := chip, op := op, key := key, len := n, old := old, new := new, since := s.now }], nextId := s.nextId + 1 }

/-- The unit updates one element, in one read-modify-write at the chip: an undigested element commits there, one of a digested block
is held until its echo is applied; a failing ACAS waits for the echo that it depends on (R213, R323, R324). -/
def updateElem (s : State) (f : Flight) (e : Elem) (rest : List Elem) : State :=
  let chip := chipOf e.key
  let n := elemBytes f.job.elemType
  let old := leNat (latestBytes s e.key n)
  let g := { f with job := f.job.after rest (some (BitVec.ofNat 64 old)) }
  if elemBad s e.key n then
    let r := releaseOf s { f with job := f.job.after rest none, error := some ((f.error).getD (eccAt f e.key)) }
    unitEnd (r.1.putFlight r.2) r.2
  else match atomNew (atomOpOf f.job) f.job.elemType old e.v.toNat e.x.toNat with
    | none =>
      if s.echoAt e.key n then sendEcho (s.putFlight g) chip f.id e.key n [] []
      else
        let r := releaseOf s g
        unitEnd (r.1.putFlight r.2) r.2
    | some v =>
      if (s.blockAt e.key).isSome then sendEcho (s.putFlight g) chip f.id e.key n (leBytes n old) (leBytes n v)
      else
        let r := releaseOf s g
        unitEnd ((commitBytes r.1 e.key (leBytes n v)).putFlight r.2) r.2

/-- NM_UNIT_UPDATE: an element of what an operation on ARCH has left goes on: the operation reaches the unit of its chip, or the unit,
whose first operation it is, updates the element. The elements of one operation go in no promised order (DEDUCED, log 245);
a full pending-echo table stalls the unit (R320, R323). -/
def execNmUnitUpdate (u : UnitTurn) (s : State) : Host.Outcome State Fault Refusal :=
  match s.flight? u.op with
  | none => .next s
  | some f => match f.job.elems[u.part]? with
    | none => .next s
    | some e =>
      if spaceOfKey e.key ≠ 3 ∨ !mayPerform s f then .next s
      else .next (atHead s ⟨chipOf e.key, .atomic, u.op⟩ (fun s =>
        if 512 ≤ pendingEchoes s (chipOf e.key) then s else updateElem s f e (f.job.elems.eraseIdx u.part)))

/-- No earlier echo of the chip goes to the same block, and none concerns a byte of the same element (R213). -/
def echoFirst (s : State) (e : Echo) : Bool :=
  (s.echoes.takeWhile (fun x => x.id != e.id)).all (fun x =>
    !(x.chip == e.chip && ((decide (x.key < e.key + e.len) && decide (e.key < x.key + x.len)) || (match s.blockAt x.key, s.blockAt e.key with
      | some (g, b), some (h, c) => g.num == h.num && b == c
      | _, _ => false))))

/-- An echo takes effect: data, entry and version change in one step. -/
def applyEcho (s : State) (e : Echo) : State :=
  let s := { s with echoes := s.echoes.filter (fun x => x.id != e.id) }
  match s.flight? e.op with
  | none => if e.new.isEmpty then s else (commitAt s e.key e.new).1
  | some f =>
    let r := releaseOf s f
    let c := if e.new.isEmpty then (r.1, false) else commitAt r.1 e.key e.new
    let f := { r.2 with error := if c.2 then some ((f.error).getD (eccAt f e.key)) else f.error }
    unitEnd (c.1.putFlight f) f

/-- The block of an echo's update; an echo of a failing ACAS updates none. -/
def Echo.block (s : State) (e : Echo) : Option (Region × Nat) := if e.new.isEmpty then none else s.blockAt e.key

/-- An echo may take effect: it is the first of its block and element, its page is not migrating, and its update has had its least
time (R213, R214, R218). -/
def echoMay (s : State) (e : Echo) : Bool :=
  echoFirst s e && (e.new.isEmpty || !s.migratingAt e.key e.len) && ((e.block s).isNone || decide (e.since + hitCycles ≤ s.now))

/-- ECHO_APPLY: the die-side archive port applies an echo, unless its page is migrating: then it waits for the new port (R213, R214, R323,
R330). -/
def execEchoApply (id : Nat) (s : State) : Host.Outcome State Fault Refusal :=
  match s.echoes.find? (fun e => e.id == id) with
  | none => .next s
  | some e => .next (if echoMay s e then withSlot s (e.block s) (fun s => applyEcho s e) else s)

/-! ### Fences (R109, R154, R158, R163) -/

/-- FENCE of the A-stream (R109, R128, R154). -/
def execAFence (y : BitVec 4) (o sc : BitVec 2) (s : State) : Host.Outcome State Fault Refusal :=
  issue .A y s (fun s => awaitOps .A 0x54 s (fenceOps s o sc) (fun s =>
    reportAny s (if isRel o then [0, 32] else []) (
      let s := if isRel o then s.release s.core.num else s
      .retire (if isAcq o then s.acquire s.core.num else s))))

/-- An NMADD, NMMIN or NMMAX. -/
def Job.isNm : Job → Bool
  | .nm _ _ _ _ => true
  | _ => false

/-- A fabric operation: PUT, GET, RADD, RFADD, RCAS or a collective (R163). -/
def Job.isFabric : Job → Bool
  | .put _ _ => true
  | .get _ _ => true
  | .remoteAtomic _ => true
  | .collective _ => true
  | _ => false

/-- NMFENCE (R158). -/
def execANmfence (y : BitVec 4) (s : State) : Host.Outcome State Fault Refusal :=
  issue .A y s (fun s => awaitOps .A 0x74 s (s.opsWhere (fun f => f.core == s.core.num && f.job.isNm)) (fun s =>
    reportAny s [32] (.retire s)))

/-- FFENCE (R163): it waits until every fabric operation before it has been acknowledged. -/
def execAFfence (y : BitVec 4) (s : State) : Host.Outcome State Fault Refusal :=
  issue .A y s (fun s => awaitOps .A 0x87 s (s.opsWhere (fun f => f.core == s.core.num && f.job.isFabric)) (fun s =>
    reportAny s [33] (.retire s)))

/-! ### WAITA (R155, R156) -/

/-- Take an entry in the grove's watch table: with 64 taken, the oldest is evicted and its waiter wakes (R156). -/
def watchSector (s : State) (sector : Nat) : State :=
  let g := groveOf s.core.num
  let mine := s.watch.filter (fun w => w.grove == g && !w.woken)
  let w := match mine with
    | [] => s.watch
    | e :: _ => if 64 ≤ mine.length then s.watch.map (fun x => if x = e then { x with woken := true } else x) else s.watch
  { s with watch := w ++ [{ grove := g, core := s.core.num, sector := sector }] }

/-- WAITA (R155). -/
def execAWaita (y : BitVec 4) (h : Handle) (cf : Reg) (s : State) : Host.Outcome State Fault Refusal :=
  issue .A y s (fun s => operand s h cf.val [] [] (fun p =>
    if p.obj.space ≠ 1 ∧ p.obj.space ≠ 2 ∧ p.obj.space ≠ 6 then .raise (illegal .A s)
    else if !p.obj.inBounds p.crd 1 then .raise (p.outOfBounds false)
    else
      let l := p.run 1 false
      (checkSpans s [p] l).act s (fun _ =>
        let sector := ((segsOfSpans s l).head?.map (·.key)).getD 0 / 32
        let w : Wait := .waita (p.va / 32 * 32) sector
        let gone := match s.core.lastRead with
          | none => false
          | some r => (r.lost && r.sectors.isEmpty) || (r.sectors.contains sector && (r.lost || r.written.contains sector))
        if s.core.a.woken || gone then .retire s
        else if s.watch.any (fun e => e.core == s.core.num) then .block s w
        else .block (watchSector s sector) w)))

/-- No waiter of a grove has woken in this cycle: at most one does (R156). -/
def wakeMay (s : State) (grove : Nat) : Bool :=
  !s.cores.any (fun k => groveOf k.num == grove && k.a.woken && k.a.status == .running && decide (s.now ≤ k.a.ready))

/-- WAITA_WAKE: the next waiter of a grove whose sector has been written, or whose entry was evicted, goes on to retire (R156). -/
def execWaitaWake (grove : Nat) (s : State) : Host.Outcome State Fault Refusal :=
  match s.watch.find? (fun w => w.grove == grove && w.woken && wakeMay s grove) with
  | none => .next s
  | some w =>
    let t := { s with watch := s.watch.filter (fun x => x != w) }
    .next (t.onCore w.core (fun k => match k.pending, k.a.status with
      | none, .waiting (.waita _ _) _ => { k with a := { k.a.run s.now with woken := true } }
      | _, _ => k))

end Sys2Proof.Machine
end

