-- ==== Sys2Proof/Machine/XScalar.lean ====
section
/-! DEFINITION. The X-stream's scalar work, flags, branches, votes and queues (R169–R175, R193). -/
namespace Sys2Proof.Machine

/-- xD := a op b (R169). -/
def aluX (o : Alu) (y : BitVec 4) (d a b : Reg) (s : State) : Host.Outcome State Fault Refusal :=
  issue .X y s (fun s => .retire (s.wx d (aluOp o (s.rx a) (s.rx b))))

/-- A comparison into a flag, signed (R170). -/
def cmpX (o : Alu) (y : BitVec 4) (d : CFlag) (a b : Reg) (s : State) : Host.Outcome State Fault Refusal :=
  issue .X y s (fun s => .retire (s.wflag d (aluOp o (s.rx a) (s.rx b) == 1)))

/-- ADD of the X-stream (R169). -/
def execXAdd (y : BitVec 4) (d a b : Reg) (s : State) : Host.Outcome State Fault Refusal := aluX .add y d a b s

/-- SUB of the X-stream (R169). -/
def execXSub (y : BitVec 4) (d a b : Reg) (s : State) : Host.Outcome State Fault Refusal := aluX .sub y d a b s

/-- AND of the X-stream (R169). -/
def execXAnd (y : BitVec 4) (d a b : Reg) (s : State) : Host.Outcome State Fault Refusal := aluX .and y d a b s

/-- OR of the X-stream (R169). -/
def execXOr (y : BitVec 4) (d a b : Reg) (s : State) : Host.Outcome State Fault Refusal := aluX .or y d a b s

/-- XOR of the X-stream (R169). -/
def execXXor (y : BitVec 4) (d a b : Reg) (s : State) : Host.Outcome State Fault Refusal := aluX .xor y d a b s

/-- SHL of the X-stream (R169). -/
def execXShl (y : BitVec 4) (d a b : Reg) (s : State) : Host.Outcome State Fault Refusal := aluX .shl y d a b s

/-- SHR of the X-stream (R169). -/
def execXShr (y : BitVec 4) (d a b : Reg) (s : State) : Host.Outcome State Fault Refusal := aluX .shr y d a b s

/-- SRA of the X-stream (R169). -/
def execXSra (y : BitVec 4) (d a b : Reg) (s : State) : Host.Outcome State Fault Refusal := aluX .sra y d a b s

/-- MUL of the X-stream (R169). -/
def execXMul (y : BitVec 4) (d a b : Reg) (s : State) : Host.Outcome State Fault Refusal := aluX .mul y d a b s

/-- MIN of the X-stream (R169). -/
def execXMin (y : BitVec 4) (d a b : Reg) (s : State) : Host.Outcome State Fault Refusal := aluX .min y d a b s

/-- MAX of the X-stream (R169). -/
def execXMax (y : BitVec 4) (d a b : Reg) (s : State) : Host.Outcome State Fault Refusal := aluX .max y d a b s

/-- ADDI of the X-stream (R169). -/
def execXAddi (y : BitVec 4) (d a : Reg) (i : BitVec 32) (s : State) : Host.Outcome State Fault Refusal :=
  issue .X y s (fun s => .retire (s.wx d (s.rx a + sext i)))

/-- LI of the X-stream (R169). -/
def execXLi (y : BitVec 4) (d : Reg) (i : BitVec 32) (s : State) : Host.Outcome State Fault Refusal :=
  issue .X y s (fun s => .retire (s.wx d (sext i)))

/-- LUI of the X-stream: (xD << 32) OR ZEXT(IMM32) (R169). -/
def execXLui (y : BitVec 4) (d : Reg) (i : BitVec 32) (s : State) : Host.Outcome State Fault Refusal :=
  issue .X y s (fun s => .retire (s.wx d (s.rx d <<< 32 ||| zext i)))

/-- CMPEQ (R170). -/
def execXCmpeq (y : BitVec 4) (d : CFlag) (a b : Reg) (s : State) : Host.Outcome State Fault Refusal := cmpX .seq y d a b s

/-- CMPLT (R170). -/
def execXCmplt (y : BitVec 4) (d : CFlag) (a b : Reg) (s : State) : Host.Outcome State Fault Refusal := cmpX .slt y d a b s

/-- CMPLE (R170). -/
def execXCmple (y : BitVec 4) (d : CFlag) (a b : Reg) (s : State) : Host.Outcome State Fault Refusal := cmpX .sle y d a b s

/-- Write a branch target register. -/
def State.wbt (s : State) (r : BtReg) (x : Word) : State := s.setCore { s.core with bt := s.core.bt.set r x }

/-- BTGT with a label: pc + 8 × SEXT(IMM32), unchecked (R171). -/
def execXBtgt (y : BitVec 4) (d : BtReg) (o : BitVec 32) (s : State) : Host.Outcome State Fault Refusal :=
  issue .X y s (fun s => .retire (s.wbt d (branchTarget .X s (sext o))))

/-- BTGT with a register, unchecked (R171). -/
def execXBtgtReg (y : BitVec 4) (d : BtReg) (a : Reg) (s : State) : Host.Outcome State Fault Refusal :=
  issue .X y s (fun s => .retire (s.wbt d (s.rx a)))

/-- The opcodes of a BX slot that R58 forbids: BX, LOOP and END. -/
def slotForbidden (w : Nat) : Bool :=
  let op := (opField .X).get w
  op == 0x15 || op == 0x16 || op == 0x1C

/-- R58's checks on the two slots of the BX at pc. -/
def bxSlotsOk (s : State) : Bool :=
  let pc := s.core.x.pc.toNat
  let ends := fun (a : Nat) => s.core.x.loops.any (fun e => e.stop.toNat == a)
  decide (pc + 24 ≤ imemBytes .X) &&
    !(s.core.wordAt .X (pc + 8)).testBit 51 && !(s.core.wordAt .X (pc + 16)).testBit 51 &&
    !slotForbidden (s.core.wordAt .X (pc + 8)) && !slotForbidden (s.core.wordAt .X (pc + 16)) &&
    !ends pc && !ends (pc + 8) && !ends (pc + 16)

/-- BX (R172): the flag and the target are read now; the transfer follows the second slot (R58). -/
def execXBx (y : BitVec 4) (qual : BitVec 4) (ca : CFlag) (tb : BtReg) (s : State) : Host.Outcome State Fault Refusal :=
  issue .X y s (fun s =>
    if s.core.x.bx.isSome || !bxSlotsOk s then .raise (illegalSequence .X s)
    else
      let taken := s.core.flags[ca] == (qual == 1)
      if taken && !targetOk .X s.core.bt[tb] then .raise (illegal .X s)
      else .goTo (s.setStream .X { s.core.x with bx := some ⟨s.core.bt[tb], taken, 2⟩ }) (s.core.x.pc + 8) s.core.x.loops)

/-- LOOP of the X-stream (R173). -/
def execXLoop (y : BitVec 4) (a : Reg) (e : BitVec 32) (s : State) : Host.Outcome State Fault Refusal :=
  issue .X y s (fun s => loopAct .X s e.toNat (s.rx a))

/-- A vote into a flag, recorded as a mask on a recording tape with `.tape` (R174). -/
def voteX (y : BitVec 4) (qual : BitVec 4) (d : CFlag) (a : PReg) (vote : Word → Bool) (s : State) : Host.Outcome State Fault Refusal :=
  issue .X y s (fun s =>
    let t := s.wflag d (vote (s.rp a))
    if qual = 1 ∧ s.core.tape.mode = 1 then record t s (maskRecord (s.rp a)) else .retire t)

/-- VANY (R174). -/
def execXVany (y : BitVec 4) (qual : BitVec 4) (d : CFlag) (a : PReg) (s : State) : Host.Outcome State Fault Refusal :=
  voteX y qual d a (fun p => p != 0) s

/-- VALL (R174). -/
def execXVall (y : BitVec 4) (qual : BitVec 4) (d : CFlag) (a : PReg) (s : State) : Host.Outcome State Fault Refusal :=
  voteX y qual d a (fun p => p == BitVec.allOnes 64) s

/-- PCNT (R174). -/
def execXPcnt (y : BitVec 4) (d : Reg) (a : PReg) (s : State) : Host.Outcome State Fault Refusal :=
  issue .X y s (fun s => .retire (s.wx d (BitVec.ofNat 64 (popCount (s.rp a)))))

/-- NOP of the X-stream (R193). -/
def execXNop (y : BitVec 4) (s : State) : Host.Outcome State Fault Refusal := issue .X y s (fun s => .retire s)

/-- VPOP (R175). -/
def execXVpop (y : BitVec 4) (d : VReg) (q : LqNum) (s : State) : Host.Outcome State Fault Refusal :=
  issue .X y s (fun s => popLq s q (fun s v => .retire (s.wv d v)))

/-- VPOPS: lane 0 of the entry into every lane (R175). -/
def execXVpops (y : BitVec 4) (d : VReg) (q : LqNum) (s : State) : Host.Outcome State Fault Refusal :=
  issue .X y s (fun s => popLq s q (fun s v => .retire (s.wv d (Vector.replicate 64 v[0]))))

/-- VPUSH (R175). -/
def execXVpush (y : BitVec 4) (a : VReg) (s : State) : Host.Outcome State Fault Refusal :=
  issue .X y s (fun s => pushSq s (s.rv a))

/-- XPUSH (R175). -/
def execXXpush (y : BitVec 4) (a : Reg) (s : State) : Host.Outcome State Fault Refusal :=
  issue .X y s (fun s =>
    if 32 ≤ s.core.vq.items.length then .block s (.push 5 1)
    else .retire (s.setCore { s.core with vq := s.core.vq.push (s.rx a) }))

/-- OPOP (R175). -/
def execXOpop (y : BitVec 4) (d : CFlag) (s : State) : Host.Outcome State Fault Refusal :=
  issue .X y s (fun s => popOutcome s 6 s.core.bqa (fun s => .block s (.pop 6 1))
    (fun s q b => .retire ((s.setCore { s.core with bqa := q }).wflag d b)))

/-- OPUSH of the X-stream (R175, R32). -/
def execXOpush (y : BitVec 4) (a : CFlag) (s : State) : Host.Outcome State Fault Refusal :=
  issue .X y s (fun s =>
    if 128 ≤ s.core.bqx.items.length then .block s (.push 7 1)
    else .retire (s.setCore { s.core with bqx := s.core.bqx.push ⟨some s.core.flags[a], s.now, none⟩ }))

end Sys2Proof.Machine
end

