-- ==== Sys2Proof/Machine/XVector.lean ====
section
/-! DEFINITION. The X-stream's vector instructions (R165–R168, R176–R189). -/
namespace Sys2Proof.Machine

/-! ### Packed form and merging (R165, R166) -/

/-- The element width of a packed type (R165). -/
def packedWidth (ty : ElemCode) : Nat :=
  match ty.toNat with
  | 0 => 8
  | 1 => 16
  | 4 => 16
  | _ => 32

/-- Element e of a lane, as a number below 2^w. -/
def laneElem (w : Nat) (l : Lane) (e : Nat) : Nat := (l.toNat >>> (w * e)) % 2 ^ w

/-- The elements of a lane, element 0 first. -/
def laneElems (w : Nat) (l : Lane) : List Nat := (List.range (32 / w)).map (laneElem w l)

/-- A lane from its elements, element 0 first. -/
def laneOf (w : Nat) : List Nat → Nat
  | [] => 0
  | e :: r => e % 2 ^ w + 2 ^ w * laneOf w r

/-- Apply an operation to each element of three lanes. -/
def mapLane (w : Nat) (f : Nat → Nat → Nat → Nat) (a b c : Lane) : Lane :=
  BitVec.ofNat 32 (laneOf w ((List.range (32 / w)).map (fun e => f (laneElem w a e) (laneElem w b e) (laneElem w c e))))

/-- Lanes whose predicate bit is set take the new value, the others keep the old one (R166, merging). -/
def merge (p : Word) (old new : Vec) : Vec := Vector.ofFn (fun i => if p.getLsbD i.val then new[i] else old[i])

/-- The lane-by-lane image of three vectors. -/
def mapVec (f : Lane → Lane → Lane → Lane) (a b c : Vec) : Vec := Vector.ofFn (fun i => f (a.get i) (b.get i) (c.get i))

/-- A merging instruction that writes vD (R166). -/
def mergeX (y : BitVec 4) (d : VReg) (g : PReg) (new : State → Vec) (s : State) : Host.Outcome State Fault Refusal :=
  issue .X y s (fun s => .retire (s.wv d (merge (s.rp g) (s.rv d) (new s))))

/-! ### Integer arithmetic (R176) -/

/-- The integer operations of R176. -/
inductive VInt where
  | add | sub | mul | mulh | and | or | xor | shl | shr | sra | min | max | abs
  deriving DecidableEq, Repr

/-- R176 on elements of width w; n is b mod w. -/
def vintOp (o : VInt) (w a b : Nat) : Nat :=
  let x := BitVec.ofNat w a
  let z := BitVec.ofNat w b
  let n := b % w
  match o with
  | .add => (x + z).toNat
  | .sub => (x - z).toNat
  | .mul => (x * z).toNat
  | .mulh => (BitVec.ofInt w (x.toInt * z.toInt / 2 ^ w)).toNat
  | .and => (x &&& z).toNat
  | .or => (x ||| z).toNat
  | .xor => (x ^^^ z).toNat
  | .shl => (x <<< n).toNat
  | .shr => (x >>> n).toNat
  | .sra => (x.sshiftRight n).toNat
  | .min => if x.toInt ≤ z.toInt then a else b
  | .max => if x.toInt ≤ z.toInt then b else a
  | .abs => (BitVec.ofInt w x.toInt.natAbs).toNat

/-- A vector integer instruction (R176). -/
def vint (o : VInt) (y : BitVec 4) (d a b : VReg) (g : PReg) (ty : ElemCode) (s : State) : Host.Outcome State Fault Refusal :=
  mergeX y d g (fun s => mapVec (mapLane (packedWidth ty) (fun p q _ => vintOp o (packedWidth ty) p q)) (s.rv a) (s.rv b) (s.rv b)) s

/-- VADD (R176). -/
def execXVadd (y : BitVec 4) (d a b : VReg) (g : PReg) (ty : ElemCode) (s : State) : Host.Outcome State Fault Refusal :=
  vint .add y d a b g ty s

/-- VSUB (R176). -/
def execXVsub (y : BitVec 4) (d a b : VReg) (g : PReg) (ty : ElemCode) (s : State) : Host.Outcome State Fault Refusal :=
  vint .sub y d a b g ty s

/-- VMUL (R176). -/
def execXVmul (y : BitVec 4) (d a b : VReg) (g : PReg) (ty : ElemCode) (s : State) : Host.Outcome State Fault Refusal :=
  vint .mul y d a b g ty s

/-- VMULH (R176). -/
def execXVmulh (y : BitVec 4) (d a b : VReg) (g : PReg) (ty : ElemCode) (s : State) : Host.Outcome State Fault Refusal :=
  vint .mulh y d a b g ty s

/-- VAND (R176). -/
def execXVand (y : BitVec 4) (d a b : VReg) (g : PReg) (ty : ElemCode) (s : State) : Host.Outcome State Fault Refusal :=
  vint .and y d a b g ty s

/-- VOR (R176). -/
def execXVor (y : BitVec 4) (d a b : VReg) (g : PReg) (ty : ElemCode) (s : State) : Host.Outcome State Fault Refusal :=
  vint .or y d a b g ty s

/-- VXOR (R176). -/
def execXVxor (y : BitVec 4) (d a b : VReg) (g : PReg) (ty : ElemCode) (s : State) : Host.Outcome State Fault Refusal :=
  vint .xor y d a b g ty s

/-- VSHL (R176). -/
def execXVshl (y : BitVec 4) (d a b : VReg) (g : PReg) (ty : ElemCode) (s : State) : Host.Outcome State Fault Refusal :=
  vint .shl y d a b g ty s

/-- VSHR (R176). -/
def execXVshr (y : BitVec 4) (d a b : VReg) (g : PReg) (ty : ElemCode) (s : State) : Host.Outcome State Fault Refusal :=
  vint .shr y d a b g ty s

/-- VSRA (R176). -/
def execXVsra (y : BitVec 4) (d a b : VReg) (g : PReg) (ty : ElemCode) (s : State) : Host.Outcome State Fault Refusal :=
  vint .sra y d a b g ty s

/-- VMIN (R176). -/
def execXVmin (y : BitVec 4) (d a b : VReg) (g : PReg) (ty : ElemCode) (s : State) : Host.Outcome State Fault Refusal :=
  vint .min y d a b g ty s

/-- VMAX (R176). -/
def execXVmax (y : BitVec 4) (d a b : VReg) (g : PReg) (ty : ElemCode) (s : State) : Host.Outcome State Fault Refusal :=
  vint .max y d a b g ty s

/-- VABS (R176). -/
def execXVabs (y : BitVec 4) (d a : VReg) (g : PReg) (ty : ElemCode) (s : State) : Host.Outcome State Fault Refusal :=
  vint .abs y d a a g ty s

/-! ### Floating point (R168, R177) -/

/-- The operations of R177. -/
inductive VFloat where
  | add | sub | mul | fma | fms | fnma | fnms | min | max | abs | neg | div | sqrt | rcp | exp2 | log2 | tanh | sigm
  deriving DecidableEq, Repr

/-- VFMIN and VFMAX keep the bits of the operand they take. -/
def pickCode (f : Fmt) (c : Option Bool) (a b : Nat) : Nat :=
  match c with
  | none => f.nan
  | some true => a
  | some false => b

/-- R177 on element codes, rounded once in the mode. -/
def vfloatOp (o : VFloat) (f : Fmt) (rnd a b c : Nat) : Nat :=
  let x := decodeFloat f a
  let z := decodeFloat f b
  let u := decodeFloat f c
  let r := roundTo f rnd
  match o with
  | .add => r (x.add rnd z)
  | .sub => r (x.add rnd z.neg)
  | .mul => r (x.mul z)
  | .fma => r ((x.mul z).add rnd u)
  | .fms => r ((x.mul z).add rnd u.neg)
  | .fnma => r ((x.mul z).neg.add rnd u)
  | .fnms => r ((x.mul z).neg.add rnd u.neg)
  | .min => pickCode f (pickMin x z) a b
  | .max => pickCode f (pickMax x z) a b
  | .abs => if x.isNan then f.nan else if x.isNeg then r x.neg else a
  | .neg => if x.isNan then f.nan else r x.neg
  | .div => r (x.div z)
  | .sqrt => r x.sqrt
  | .rcp => r ((Num.fin false 1 0 false).div x)
  | .exp2 => r x.exp2
  | .log2 => r x.log2
  | .tanh => r x.tanh
  | .sigm => r x.sigm

/-- A vector floating-point instruction (R177). -/
def vfloat (o : VFloat) (y : BitVec 4) (d a b c : VReg) (g : PReg) (ty : ElemCode) (rnd : BitVec 2) (s : State) : Host.Outcome State Fault Refusal :=
  mergeX y d g (fun s => mapVec (mapLane (packedWidth ty) (vfloatOp o (fmtOf ty) rnd.toNat)) (s.rv a) (s.rv b) (s.rv c)) s

/-- VFADD (R177). -/
def execXVfadd (y : BitVec 4) (d a b : VReg) (g : PReg) (ty : ElemCode) (rnd : BitVec 2) (s : State) : Host.Outcome State Fault Refusal :=
  vfloat .add y d a b b g ty rnd s

/-- VFSUB (R177). -/
def execXVfsub (y : BitVec 4) (d a b : VReg) (g : PReg) (ty : ElemCode) (rnd : BitVec 2) (s : State) : Host.Outcome State Fault Refusal :=
  vfloat .sub y d a b b g ty rnd s

/-- VFMUL (R177). -/
def execXVfmul (y : BitVec 4) (d a b : VReg) (g : PReg) (ty : ElemCode) (rnd : BitVec 2) (s : State) : Host.Outcome State Fault Refusal :=
  vfloat .mul y d a b b g ty rnd s

/-- VFMIN (R177). -/
def execXVfmin (y : BitVec 4) (d a b : VReg) (g : PReg) (ty : ElemCode) (rnd : BitVec 2) (s : State) : Host.Outcome State Fault Refusal :=
  vfloat .min y d a b b g ty rnd s

/-- VFMAX (R177). -/
def execXVfmax (y : BitVec 4) (d a b : VReg) (g : PReg) (ty : ElemCode) (rnd : BitVec 2) (s : State) : Host.Outcome State Fault Refusal :=
  vfloat .max y d a b b g ty rnd s

/-- VFDIV (R177). -/
def execXVfdiv (y : BitVec 4) (d a b : VReg) (g : PReg) (ty : ElemCode) (rnd : BitVec 2) (s : State) : Host.Outcome State Fault Refusal :=
  vfloat .div y d a b b g ty rnd s

/-- VFMA, one rounding (R177). -/
def execXVfma (y : BitVec 4) (d a b vc : VReg) (g : PReg) (ty : ElemCode) (rnd : BitVec 2) (s : State) : Host.Outcome State Fault Refusal :=
  vfloat .fma y d a b vc g ty rnd s

/-- VFMS, one rounding (R177). -/
def execXVfms (y : BitVec 4) (d a b vc : VReg) (g : PReg) (ty : ElemCode) (rnd : BitVec 2) (s : State) : Host.Outcome State Fault Refusal :=
  vfloat .fms y d a b vc g ty rnd s

/-- VFNMA, one rounding (R177). -/
def execXVfnma (y : BitVec 4) (d a b vc : VReg) (g : PReg) (ty : ElemCode) (rnd : BitVec 2) (s : State) : Host.Outcome State Fault Refusal :=
  vfloat .fnma y d a b vc g ty rnd s

/-- VFNMS, one rounding (R177). -/
def execXVfnms (y : BitVec 4) (d a b vc : VReg) (g : PReg) (ty : ElemCode) (rnd : BitVec 2) (s : State) : Host.Outcome State Fault Refusal :=
  vfloat .fnms y d a b vc g ty rnd s

/-- VFABS (R177). -/
def execXVfabs (y : BitVec 4) (d a : VReg) (g : PReg) (ty : ElemCode) (rnd : BitVec 2) (s : State) : Host.Outcome State Fault Refusal :=
  vfloat .abs y d a a a g ty rnd s

/-- VFNEG (R177). -/
def execXVfneg (y : BitVec 4) (d a : VReg) (g : PReg) (ty : ElemCode) (rnd : BitVec 2) (s : State) : Host.Outcome State Fault Refusal :=
  vfloat .neg y d a a a g ty rnd s

/-- VFSQRT (R177). -/
def execXVfsqrt (y : BitVec 4) (d a : VReg) (g : PReg) (ty : ElemCode) (rnd : BitVec 2) (s : State) : Host.Outcome State Fault Refusal :=
  vfloat .sqrt y d a a a g ty rnd s

/-- VFRCP (R177). -/
def execXVfrcp (y : BitVec 4) (d a : VReg) (g : PReg) (ty : ElemCode) (rnd : BitVec 2) (s : State) : Host.Outcome State Fault Refusal :=
  vfloat .rcp y d a a a g ty rnd s

/-- VFEXP2 (R177). -/
def execXVfexp2 (y : BitVec 4) (d a : VReg) (g : PReg) (ty : ElemCode) (rnd : BitVec 2) (s : State) : Host.Outcome State Fault Refusal :=
  vfloat .exp2 y d a a a g ty rnd s

/-- VFLOG2 (R177). -/
def execXVflog2 (y : BitVec 4) (d a : VReg) (g : PReg) (ty : ElemCode) (rnd : BitVec 2) (s : State) : Host.Outcome State Fault Refusal :=
  vfloat .log2 y d a a a g ty rnd s

/-- VFTANH (R177). -/
def execXVftanh (y : BitVec 4) (d a : VReg) (g : PReg) (ty : ElemCode) (rnd : BitVec 2) (s : State) : Host.Outcome State Fault Refusal :=
  vfloat .tanh y d a a a g ty rnd s

/-- VFSIGM (R177). -/
def execXVfsigm (y : BitVec 4) (d a : VReg) (g : PReg) (ty : ElemCode) (rnd : BitVec 2) (s : State) : Host.Outcome State Fault Refusal :=
  vfloat .sigm y d a a a g ty rnd s

/-! ### Compares, predicates and selection (R178–R180) -/

/-- A predicate from a test of each lane, over the lanes that another selects (R166, zeroing). -/
def predOf (p : Word) (f : Fin 64 → Bool) : Word :=
  BitVec.ofNat 64 ((List.finRange 64).foldl (fun n i => if p.getLsbD i.val && f i then n + 2 ^ i.val else n) 0)

/-- VCMP (R178). -/
def execXVcmp (y : BitVec 4) (qual : BitVec 4) (d : PReg) (a b : VReg) (g : PReg) (_ty : ElemCode) (s : State) : Host.Outcome State Fault Refusal :=
  issue .X y s (fun s => .retire (s.wp d (predOf (s.rp g) (fun i => laneCond qual.toNat (s.rv a)[i] (s.rv b)[i]))))

/-- VFCMP (R178): −0 equals +0; a NaN makes `.ne` true and every other condition false. -/
def execXVfcmp (y : BitVec 4) (qual : BitVec 4) (d : PReg) (a b : VReg) (g : PReg) (_ty : ElemCode) (s : State) : Host.Outcome State Fault Refusal :=
  issue .X y s (fun s => .retire (s.wp d (predOf (s.rp g) (fun i =>
    floatCond qual.toNat ((ofFp32 (s.rv a)[i]).cmp (ofFp32 (s.rv b)[i]))))))

/-- PAND (R179). -/
def execXPand (y : BitVec 4) (d a b : PReg) (s : State) : Host.Outcome State Fault Refusal :=
  issue .X y s (fun s => .retire (s.wp d (s.rp a &&& s.rp b)))

/-- POR (R179). -/
def execXPor (y : BitVec 4) (d a b : PReg) (s : State) : Host.Outcome State Fault Refusal :=
  issue .X y s (fun s => .retire (s.wp d (s.rp a ||| s.rp b)))

/-- PXOR (R179). -/
def execXPxor (y : BitVec 4) (d a b : PReg) (s : State) : Host.Outcome State Fault Refusal :=
  issue .X y s (fun s => .retire (s.wp d (s.rp a ^^^ s.rp b)))

/-- PNOT (R179). -/
def execXPnot (y : BitVec 4) (d a : PReg) (s : State) : Host.Outcome State Fault Refusal :=
  issue .X y s (fun s => .retire (s.wp d (~~~(s.rp a))))

/-- VSEL: lanes of vA where pG is set, of vB elsewhere (R180). -/
def execXVsel (y : BitVec 4) (d a b : VReg) (g : PReg) (s : State) : Host.Outcome State Fault Refusal :=
  issue .X y s (fun s => .retire (s.wv d (merge (s.rp g) (s.rv b) (s.rv a))))

/-! ### Conversions in lane form (R165, R181–R183) -/

/-- The code of a lane-form element (R165). -/
def laneCode (ty : ElemCode) (l : Lane) : Nat :=
  if isBinary8 ty then l.toNat % 256
  else match ty.toNat with
    | 0 => l.toNat % 256
    | 1 => l.toNat % 65536
    | 4 => l.toNat / 65536
    | _ => l.toNat

/-- A lane that holds an element of a type in lane form (R165, R135). -/
def laneForm (ty : ElemCode) (code : Nat) : Lane :=
  if isBinary8 ty then BitVec.ofNat 32 (code % 256)
  else match ty.toNat with
    | 0 => (BitVec.ofNat 8 code).signExtend 32
    | 1 => (BitVec.ofNat 16 code).signExtend 32
    | 4 => BitVec.ofNat 32 (code * 65536)
    | _ => BitVec.ofNat 32 code

/-- VCVTI's target value (R181): none is FP_OVERFLOW. -/
def toInteger (w rnd pol : Nat) (x : Num) : Option Nat :=
  let lo : Int := -(2 ^ (w - 1) : Nat)
  let hi : Int := (2 ^ (w - 1) : Nat) - 1
  match x with
  | .nan => if pol = 0 then some 0 else none
  | .inf neg => if pol = 0 then some (BitVec.ofInt w (if neg then lo else hi)).toNat else none
  | .fin neg m e t =>
    let k := roundInt rnd neg m e t
    if k < lo then (if pol = 0 then some (BitVec.ofInt w lo).toNat else none)
    else if hi < k then (if pol = 0 then some (BitVec.ofInt w hi).toNat else none)
    else some (BitVec.ofInt w k).toNat

/-- The lowest selected lane whose conversion overflows (R182). -/
def firstOverflow (p : Word) (f : Fin 64 → Option Nat) : Option Nat :=
  ((List.finRange 64).find? (fun i => p.getLsbD i.val && (f i).isNone)).map (·.val)

/-- A conversion of each selected lane (R181–R183): an overflow under `.trap` writes no lane and names the lowest. -/
def convertX (y : BitVec 4) (d : VReg) (g : PReg) (ty : ElemCode) (f : State → Fin 64 → Option Nat) (s : State) : Host.Outcome State Fault Refusal :=
  issue .X y s (fun s =>
    match firstOverflow (s.rp g) (f s) with
    | some lane => .raise { cause := .fpOverflow, aux0 := BitVec.ofNat 64 lane }
    | none => .retire (s.wv d (Vector.ofFn (fun i =>
        if (s.rp g).getLsbD i.val then laneForm ty ((f s i).getD 0) else (s.rv d)[i]))))

/-- VCVTF (R181). -/
def execXVcvtf (y : BitVec 4) (d a : VReg) (src : ElemCode) (g : PReg) (ty : ElemCode) (pol rnd : BitVec 2) (s : State) : Host.Outcome State Fault Refusal :=
  convertX y d g ty (fun s i => convert (fmtOf ty) rnd.toNat pol.toNat (elemNum src (laneCode src (s.rv a)[i]))) s

/-- VCVTI (R181). -/
def execXVcvti (y : BitVec 4) (d a : VReg) (src : ElemCode) (g : PReg) (ty : ElemCode) (pol rnd : BitVec 2) (s : State) : Host.Outcome State Fault Refusal :=
  convertX y d g ty (fun s i => toInteger (elemBits ty) rnd.toNat pol.toNat (elemNum src (laneCode src (s.rv a)[i]))) s

/-- The BF16 scale of a lane: bits [31:16] of lane i div 32 (R183). -/
def scaleOf (v : Vec) (i : Fin 64) : Num := decodeFloat bf16 (laneCode 4 (v.toList.getD (i.val / 32) 0))

/-- VQNT: divide and convert with one rounding (R183). -/
def execXVqnt (y : BitVec 4) (d a b : VReg) (g : PReg) (ty : ElemCode) (pol rnd : BitVec 2) (s : State) : Host.Outcome State Fault Refusal :=
  convertX y d g ty (fun s i => convert (fmtOf ty) rnd.toNat pol.toNat ((ofFp32 (s.rv a)[i]).div (scaleOf (s.rv b) i))) s

/-- VDQNT (R183). -/
def execXVdqnt (y : BitVec 4) (d a b : VReg) (g : PReg) (ty : ElemCode) (s : State) : Host.Outcome State Fault Refusal :=
  mergeX y d g (fun s => Vector.ofFn (fun i =>
    rn32 ((decodeFloat (fmtOf ty) (laneCode ty (s.rv a)[i])).mul (scaleOf (s.rv b) i)))) s

/-! ### Permutes (R184) -/

/-- VBCAST (R184). -/
def execXVbcast (y : BitVec 4) (d : VReg) (a : Reg) (g : PReg) (ty : ElemCode) (s : State) : Host.Outcome State Fault Refusal :=
  mergeX y d g (fun s =>
    let w := packedWidth ty
    Vector.replicate 64 (BitVec.ofNat 32 (laneOf w (List.replicate (32 / w) (s.rx a).toNat)))) s

/-- VSHUF (R184). -/
def execXVshuf (y : BitVec 4) (d a b : VReg) (g : PReg) (s : State) : Host.Outcome State Fault Refusal :=
  mergeX y d g (fun s => Vector.ofFn (fun i =>
    let k := (s.rv b)[i]
    if k.getLsbD 31 then 0 else (s.rv a).toList.getD (k.toNat % 64) 0)) s

/-- VROT (R184). -/
def execXVrot (y : BitVec 4) (d a : VReg) (g : PReg) (n : BitVec 6) (s : State) : Host.Outcome State Fault Refusal :=
  mergeX y d g (fun s => Vector.ofFn (fun i => (s.rv a).toList.getD ((i.val + n.toNat) % 64) 0)) s

/-- VEXTR: sign-extended for INT32, zero-extended for FP32 (R184). -/
def execXVextr (y : BitVec 4) (d : Reg) (a : VReg) (ty : ElemCode) (n : BitVec 6) (s : State) : Host.Outcome State Fault Refusal :=
  issue .X y s (fun s =>
    let l := (s.rv a)[n.toFin]
    .retire (s.wx d (if ty = 2 then sext l else zext l)))

/-- VINS (R184). -/
def execXVins (y : BitVec 4) (d : VReg) (a : Reg) (_ty : ElemCode) (n : BitVec 6) (s : State) : Host.Outcome State Fault Refusal :=
  issue .X y s (fun s => .retire (s.wv d ((s.rv d).set n.toFin ((s.rx a).setWidth 32))))

/-- VCOMP (R184). -/
def execXVcomp (y : BitVec 4) (d a : VReg) (g : PReg) (s : State) : Host.Outcome State Fault Refusal :=
  issue .X y s (fun s => .retire (s.wv d (vecOfLanes (activeLanes (s.rv a) (s.rp g)))))

/-- Set bits of a predicate below a lane. -/
def bitsBelow (p : Word) (i : Nat) : Nat := ((List.range i).filter (fun j => p.getLsbD j)).length

/-- VEXP (R184). -/
def execXVexp (y : BitVec 4) (d a : VReg) (g : PReg) (s : State) : Host.Outcome State Fault Refusal :=
  issue .X y s (fun s => .retire (s.wv d (Vector.ofFn (fun i =>
    if (s.rp g).getLsbD i.val then (s.rv a).toList.getD (bitsBelow (s.rp g) i.val) 0 else 0))))

/-! ### Reductions (R185, R186) -/

/-- The elements of the selected lanes in ascending order (R166). -/
def selectedElems (ty : ElemCode) (v : Vec) (p : Word) : List Nat :=
  (activeLanes v p).flatMap (laneElems (packedWidth ty))

/-- The signed value of an integer element. -/
def signedElem (ty : ElemCode) (e : Nat) : Int := (BitVec.ofNat (packedWidth ty) e).toInt

/-- VRSUM (R185). -/
def execXVrsum (y : BitVec 4) (d : Reg) (a : VReg) (g : PReg) (ty : ElemCode) (s : State) : Host.Outcome State Fault Refusal :=
  issue .X y s (fun s => .retire (s.wx d (BitVec.ofInt 64
    ((selectedElems ty (s.rv a) (s.rp g)).foldl (fun n e => n + signedElem ty e) 0))))

/-- One level of VRFSUM's tree: pairs in ascending order (R186). -/
def sumPairs (rnd : Nat) : List Nat → List Nat
  | a :: b :: r => roundTo fp32 rnd ((decodeFloat fp32 a).add rnd (decodeFloat fp32 b)) :: sumPairs rnd r
  | l => l

/-- VRFSUM's tree, `n` levels (R186). -/
def sumTree (rnd : Nat) : Nat → List Nat → Nat
  | 0, l => l.headD 0
  | n + 1, l => sumTree rnd n (sumPairs rnd l)

/-- VRFSUM (R186). -/
def execXVrfsum (y : BitVec 4) (d : Reg) (a : VReg) (g : PReg) (ty : ElemCode) (rnd : BitVec 2) (s : State) : Host.Outcome State Fault Refusal :=
  issue .X y s (fun s =>
    let leaves := (List.finRange 64).flatMap (fun i =>
      let l := if (s.rp g).getLsbD i.val then (s.rv a)[i] else 0
      if ty = 4 then [l.toNat % 65536 * 65536, l.toNat / 65536 * 65536] else [l.toNat])
    .retire (s.wx d (BitVec.ofNat 64 (sumTree rnd.toNat (if ty = 4 then 7 else 6) leaves))))

/-- The greatest or least element of the selected lanes (R185): `max` tells which. -/
def extremum (max : Bool) (ty : ElemCode) (es : List Nat) : Word :=
  if isFloat ty then
    let f := fmtOf ty
    let start := infCode f max
    let r := es.foldl (fun n e =>
      let c := if max then pickMax (decodeFloat f n) (decodeFloat f e) else pickMin (decodeFloat f n) (decodeFloat f e)
      pickCode f c n e) start
    if ty = 4 then BitVec.ofNat 64 (r * 65536) else BitVec.ofNat 64 r
  else
    let w := packedWidth ty
    let least : Int := -(2 ^ (w - 1) : Nat)
    let greatest : Int := (2 ^ (w - 1) : Nat) - 1
    BitVec.ofInt 64 (es.foldl (fun n e =>
      let k := signedElem ty e
      if max then (if n ≤ k then k else n) else (if k ≤ n then k else n)) (if max then least else greatest))

/-- VRMAX (R185). -/
def execXVrmax (y : BitVec 4) (d : Reg) (a : VReg) (g : PReg) (ty : ElemCode) (s : State) : Host.Outcome State Fault Refusal :=
  issue .X y s (fun s => .retire (s.wx d (extremum true ty (selectedElems ty (s.rv a) (s.rp g)))))

/-- VRMIN (R185). -/
def execXVrmin (y : BitVec 4) (d : Reg) (a : VReg) (g : PReg) (ty : ElemCode) (s : State) : Host.Outcome State Fault Refusal :=
  issue .X y s (fun s => .retire (s.wx d (extremum false ty (selectedElems ty (s.rv a) (s.rp g)))))

/-! ### Sort, segmented sum, selection (R187–R189) -/

/-- The order of FP32 keys: −0 < +0, and all NaNs equal, after +∞ (R187). -/
def floatBefore (a b : Lane) : Bool :=
  let x := ofFp32 a
  let z := ofFp32 b
  if x.isNan then false else if z.isNan then true else x.below z

/-- Key a comes strictly before key b in ascending order (R187). -/
def keyBefore (ty : ElemCode) (a b : Lane) : Bool := if ty = 2 then decide (a.toInt < b.toInt) else floatBefore a b

/-- Insert after every pair whose key does not come after the new key: a stable order. -/
def insertPair (before : Lane → Lane → Bool) (p : Lane × Lane) : List (Lane × Lane) → List (Lane × Lane)
  | [] => [p]
  | q :: r => if before p.1 q.1 then p :: q :: r else q :: insertPair before p r

/-- The selected pairs in a stable order of their keys. -/
def sortPairs (before : Lane → Lane → Bool) (l : List (Lane × Lane)) : List (Lane × Lane) :=
  l.foldl (fun acc p => insertPair before p acc) []

/-- vD and vD+1 of an even D. -/
def State.wvPair (s : State) (d : VReg) (u v : Vec) : State := (s.wv d u).wv (d + 1) v

/-- VSORTK (R187). -/
def execXVsortk (y : BitVec 4) (d a b : VReg) (g : PReg) (ty : ElemCode) (s : State) : Host.Outcome State Fault Refusal :=
  issue .X y s (fun s =>
    let ps := sortPairs (keyBefore ty) ((activeLanes (s.rv a) (s.rp g)).zip (activeLanes (s.rv b) (s.rp g)))
    .retire (s.wvPair d (vecOfLanes (ps.map (·.1))) (vecOfLanes (ps.map (·.2)))))

/-- R188's running sums over the selected lanes: lane, key, value. A NaN that starts a run is the canonical one (R257). -/
def segSums (ty : ElemCode) : Option (Lane × Lane) → List (Nat × Lane × Lane) → List (Nat × Lane)
  | _, [] => []
  | prev, (i, k, v) :: r =>
    let first := if ty = 2 then v else rn32 (ofFp32 v)
    let acc := match prev with
      | none => first
      | some (k', acc) => if k' = k then (if ty = 2 then acc + v else rn32 ((ofFp32 acc).add 0 (ofFp32 v))) else first
    (i, acc) :: segSums ty (some (k, acc)) r

/-- VSEGSUM (R188). -/
def execXVsegsum (y : BitVec 4) (d a b : VReg) (g : PReg) (ty : ElemCode) (s : State) : Host.Outcome State Fault Refusal :=
  mergeX y d g (fun s =>
    let sel := (List.finRange 64).filterMap (fun i =>
      if (s.rp g).getLsbD i.val then some (i.val, (s.rv a)[i], (s.rv b)[i]) else none)
    let sums := segSums ty none sel
    Vector.ofFn (fun i => ((sums.find? (fun p => p.1 == i.val)).map (·.2)).getD 0)) s

/-- VTOPK (R189): descending keys, equal keys from the lower lane first. -/
def execXVtopk (y : BitVec 4) (d a : VReg) (g : PReg) (ty : ElemCode) (k : BitVec 6) (s : State) : Host.Outcome State Fault Refusal :=
  issue .X y s (fun s =>
    let sel := (List.finRange 64).filterMap (fun i =>
      if (s.rp g).getLsbD i.val then some ((s.rv a)[i], BitVec.ofNat 32 i.val) else none)
    let top := (sortPairs (fun p q => keyBefore ty q p) sel).take (k.toNat + 1)
    .retire (s.wvPair d (vecOfLanes (top.map (·.1)))
      (Vector.ofFn (fun i => (top.map (·.2)).getD i.val 0xFFFFFFFF#32))))

end Sys2Proof.Machine
end

