-- ==== Sys2Proof/Machine/Matrix.lean ====
section
/-! DEFINITION. Tiles, accumulators and the matrix engine (R103, R258–R283), and END of the X-stream (R194). -/
namespace Sys2Proof.Machine

/-! ### Shape records (R265, R266) -/

def recType (w : Word) : ElemCode := w.setWidth 6
def recRows (w : Word) : Nat := bits w 6 7
def recCols (w : Word) : Nat := bits w 13 13
def recSpn (w : Word) : Nat := bits w 26 5
def recScl (w : Word) : Bool := w.getLsbD 31

/-- ROWS and the reserved bits, for every register (R266). -/
def recCommon (w : Word) : Bool := decide (bits w 32 32 = 0) && decide (1 ≤ recRows w) && decide (recRows w ≤ 64) && decide (1 ≤ recCols w)

/-- A valid record of a tile (R266). -/
def tileRecordOk (w : Word) : Bool :=
  let ty := recType w
  let c := recCols w
  recCommon w &&
    (if recScl w then isBinary8 ty && decide (recSpn w = 0) && decide (c % 32 = 0) && decide (c ≤ 448)
     else if recSpn w = 0 then
       (if ty = 7 then decide (c % 8 = 0) && decide (c ≤ 4096)
        else (ty == 0 || ty == 4 || isBinary8 ty) && decide (c ≤ 512 / elemBytes ty))
     else isBinary8 ty && [1, 2, 4, 8, 16].contains (recSpn w) && decide (c % 32 = 0) && decide (c ≤ 512))

/-- A valid record of an accumulator (R266). -/
def accRecordOk (w : Word) : Bool :=
  recCommon w && (recType w == 2 || recType w == 5) && decide (recCols w ≤ 64) && decide (recSpn w = 0) && !recScl w

/-- W: the bytes of each row that instructions read and write (R266). -/
def rowFootprint (w : Word) : Nat :=
  let c := recCols w
  if recScl w then 448 + 2 * c / 32
  else if recSpn w = 0 then c * elemBits (recType w) / 8
  else 256 + (c * recSpn w * 5 + 255) / 256

/-- The bytes of a row that an operation reads, as ranges: first byte, end. What lies between the values and the indices of a sparse
row, or between the elements and the scales of a scaled one, is never read (R267, R268). -/
def rowReads (w : Word) : List (Nat × Nat) :=
  let c := recCols w
  if recScl w then [(0, c), (448, 448 + 2 * (c / 32))]
  else if recSpn w = 0 then [(0, rowFootprint w)]
  else [(0, c * recSpn w / 32), (256, rowFootprint w)]

/-- TSHAPE (R103): a record that is not valid for its register raises ILLEGAL. -/
def execCTshape (y : BitVec 4) (t : BitVec 4) (a : Reg) (s : State) : Host.Outcome State Fault Refusal :=
  issue .C y s (fun s =>
    if (if t.toNat < 8 then tileRecordOk (s.rs a) else accRecordOk (s.rs a)) then
      .retire (s.setCore { s.core with shapes := s.core.shapes.set (Fin.ofNat 12 t.toNat) (s.rs a) })
    else .raise (illegal .C s))

/-- The record of a tile, of an accumulator. -/
def Core.tileRec (k : Core) (t : TReg) : Word := k.shapes[Fin.ofNat 12 t.val]
def Core.accRec (k : Core) (z : ZReg) : Word := k.shapes[Fin.ofNat 12 (8 + z.val)]

/-! ### Rows (R264) -/

/-- Half h of row r of a tile. -/
def Core.halfRow (k : Core) (t : TReg) (r h : Nat) : Vec := k.tiles[t][Fin.ofNat 128 (2 * r + h)]
/-- The 512 bytes of a row. -/
def Core.rowBytes (k : Core) (t : TReg) (r : Nat) : List Byte := vecBytes (k.halfRow t r 0) ++ vecBytes (k.halfRow t r 1)
def Core.setHalfRow (k : Core) (t : TReg) (r h : Nat) (v : Vec) : Core :=
  { k with tiles := k.tiles.set t (k.tiles[t].set (Fin.ofNat 128 (2 * r + h)) v) }
/-- Row r of an accumulator. -/
def Core.accRow (k : Core) (z : ZReg) (r : Nat) : Vec := k.accs[z][Fin.ofNat 64 r]
def Core.setAccRow (k : Core) (z : ZReg) (r : Nat) (v : Vec) : Core :=
  { k with accs := k.accs.set z (k.accs[z].set (Fin.ofNat 64 r) v) }

/-- SHAPE_MISMATCH (R287): DETAIL is the place of the failed condition in its rule's list (DEDUCED, log 20). -/
def shapeTrap (detail : Nat) (rec row : Word) : TrapInfo :=
  { cause := .shapeMismatch, detail := BitVec.ofNat 8 detail, aux0 := rec, aux1 := row }

/-- The checks of R279 on a row operand of a tile; a record of 0, which has no row at all, is its own condition (DEDUCED, log 20). -/
def tileRowFault (rec x : Word) : Option TrapInfo :=
  if rec = 0 then some (shapeTrap 4 rec x)
  else if bits x 7 57 ≠ 0 then some (shapeTrap 1 rec x)
  else if recRows rec ≤ bits x 0 6 then some (shapeTrap 2 rec x)
  else if bits x 6 1 = 1 ∧ rowFootprint rec ≤ 256 then some (shapeTrap 3 rec x)
  else none

/-- The checks of R281 on a row operand of an accumulator, a record of 0 as for a tile (DEDUCED, log 20). -/
def accRowFault (rec x : Word) : Option TrapInfo :=
  if rec = 0 then some (shapeTrap 3 rec x)
  else if bits x 6 58 ≠ 0 then some (shapeTrap 1 rec x)
  else if recRows rec ≤ bits x 0 6 then some (shapeTrap 2 rec x)
  else none

/-- Bytes of a half-row that a record covers (R279). -/
def halfBytes (rec : Word) (h : Nat) : Nat := min (256 * h + 256) (rowFootprint rec) - 256 * h

/-! ### Waits and latches of the X-stream (R274, R275) -/

/-- Accepted operations that read a tile and have not completed. -/
def Core.tileOps (k : Core) (t : TReg) : List MatOp := k.matrix.filter (fun o => o.ta == t || o.tb == some t)
/-- Outstanding writers of an accumulator. -/
def Core.accOps (k : Core) (z : ZReg) : List MatOp := k.matrix.filter (fun o => o.z == z)

def withTile (s : State) (t : TReg) (k : Act) : Act := if (s.core.tileOps t).isEmpty then k else .block s (.tileReaders t.val)
def withAcc (s : State) (z : ZReg) (k : Act) : Act := if (s.core.accOps z).isEmpty then k else .block s (.accumulator z.val)

/-- What reports the latch of an accumulator (R275): its delivery clears the latch. -/
def latchTrap (z : ZReg) (l : Latch) : TrapInfo := { l.info with issue := issueWord l.pc, aux1 := l.count, clears := 1 + z.val }

/-- An instruction that names an accumulator reports its latch first (R275). -/
def withLatch (s : State) (z : ZReg) (k : Act) : Act :=
  match s.core.latches[z] with
  | some l => .raise (latchTrap z l)
  | none => k

/-! ### Moving tiles and accumulators (R279–R282) -/

/-- TLD (R279). -/
def execXTld (y : BitVec 4) (d : TReg) (q : LqNum) (a : Reg) (s : State) : Host.Outcome State Fault Refusal :=
  issue .X y s (fun s =>
    let rec' := s.core.tileRec d
    let r := bits (s.rx a) 0 6
    let h := bits (s.rx a) 6 1
    match tileRowFault rec' (s.rx a) with
    | some t => .raise t
    | none => withTile s d (popLq s q (fun t v =>
        let n := halfBytes rec' h
        .retire (t.setCore (t.core.setHalfRow d r h (vecOfBytes ((vecBytes v).take n ++ (vecBytes (t.core.halfRow d r h)).drop n)))))))

/-- TST (R279). -/
def execXTst (y : BitVec 4) (ta : TReg) (b : Reg) (s : State) : Host.Outcome State Fault Refusal :=
  issue .X y s (fun s =>
    let h := bits (s.rx b) 6 1
    match tileRowFault (s.core.tileRec ta) (s.rx b) with
    | some t => .raise t
    | none => pushSq s (vecOfBytes ((vecBytes (s.core.halfRow ta (bits (s.rx b) 0 6) h)).take (halfBytes (s.core.tileRec ta) h))))

/-- TZERO (R280). -/
def execXTzero (y : BitVec 4) (d : TReg) (s : State) : Host.Outcome State Fault Refusal :=
  issue .X y s (fun s => withTile s d
    (.retire (s.setCore { s.core with tiles := s.core.tiles.set d (Vector.replicate 128 Vec.zero) })))

/-- TMOVV: bytes beyond W as they stand (R282). -/
def execXTmovv (y : BitVec 4) (d : VReg) (ta : TReg) (b : Reg) (s : State) : Host.Outcome State Fault Refusal :=
  issue .X y s (fun s =>
    match tileRowFault (s.core.tileRec ta) (s.rx b) with
    | some t => .raise t
    | none => .retire (s.wv d (s.core.halfRow ta (bits (s.rx b) 0 6) (bits (s.rx b) 6 1))))

/-- ZLD (R281). -/
def execXZld (y : BitVec 4) (d : ZReg) (q : LqNum) (a : Reg) (s : State) : Host.Outcome State Fault Refusal :=
  issue .X y s (fun s => withLatch s d
    (match accRowFault (s.core.accRec d) (s.rx a) with
      | some t => .raise t
      | none => withAcc s d (popLq s q (fun t v =>
          let r := bits (s.rx a) 0 6
          let c := recCols (s.core.accRec d)
          .retire (t.setCore (t.core.setAccRow d r (Vector.ofFn (fun i => if i.val < c then v[i] else (t.core.accRow d r)[i]))))))))

/-- The elements of an accumulator row that its record covers, zero in the rest (R281, R282). -/
def accRowOut (k : Core) (z : ZReg) (r : Nat) : Vec :=
  Vector.ofFn (fun i => if i.val < recCols (k.accRec z) then (k.accRow z r)[i] else 0)

/-- ZST (R281). -/
def execXZst (y : BitVec 4) (za : ZReg) (b : Reg) (s : State) : Host.Outcome State Fault Refusal :=
  issue .X y s (fun s => withLatch s za
    (match accRowFault (s.core.accRec za) (s.rx b) with
      | some t => .raise t
      | none => withAcc s za (pushSq s (accRowOut s.core za (bits (s.rx b) 0 6)))))

/-- ZZERO (R280). -/
def execXZzero (y : BitVec 4) (d : ZReg) (s : State) : Host.Outcome State Fault Refusal :=
  issue .X y s (fun s => withLatch s d (withAcc s d
    (.retire (s.setCore { s.core with accs := s.core.accs.set d (Vector.replicate 64 Vec.zero) }))))

/-- ZMOVV (R282). -/
def execXZmovv (y : BitVec 4) (d : VReg) (za : ZReg) (b : Reg) (s : State) : Host.Outcome State Fault Refusal :=
  issue .X y s (fun s => withLatch s za
    (match accRowFault (s.core.accRec za) (s.rx b) with
      | some t => .raise t
      | none => withAcc s za (.retire (s.wv d (accRowOut s.core za (bits (s.rx b) 0 6))))))

/-! ### Format words and shapes (R269–R272) -/

def fmtA (f : Word) : ElemCode := f.setWidth 6
def fmtB (f : Word) : ElemCode := (f >>> 6).setWidth 6
def fmtScale (f : Word) : Nat := bits f 12 2
def fmtRnd (f : Word) : Nat := bits f 14 2
def fmtPol (f : Word) : Nat := bits f 16 2

/-- R270, by opcode. -/
def formatOk (op : Nat) (f : Word) : Bool :=
  decide (bits f 18 46 = 0) &&
    (match op with
     | 0x90 | 0x95 => isBinary8 (fmtA f) && isBinary8 (fmtB f) && decide (fmtScale f = 0)
     | 0x91 => fmtA f == 0 && fmtB f == 0 && decide (fmtScale f = 0)
     | 0x92 => fmtA f == 4 && fmtB f == 4 && decide (fmtScale f = 0)
     | 0x93 => isBinary8 (fmtA f) && isBinary8 (fmtB f) && decide (fmtScale f = 1)
     | 0x94 => isBinary8 (fmtA f) && isBinary8 (fmtB f) && decide (fmtScale f = 2)
     | 0x96 | 0x97 => fmtA f == 7 && fmtB f == 7 && decide (fmtScale f = 0)
     | _ => ((isBinary8 (fmtA f) && isBinary8 (fmtB f)) || (fmtA f == 4 && fmtB f == 4)) && decide (fmtScale f = 0))

/-- The accumulator type of R270. -/
def accType (op : Nat) : ElemCode := if op = 0x91 ∨ op = 0x96 ∨ op = 0x97 then 2 else 5

/-- R272: the condition that fails, by its place in the list, and the record that fails it (DEDUCED, log 20). -/
def shapeFault (op : Nat) (f rz ra : Word) (rb : Option Word) : Option (Nat × Word) :=
  let dense := fun (r : Word) => decide (recSpn r = 0) && !recScl r
  if rz = 0 then some (1, rz) else if ra = 0 then some (1, ra) else if rb = some 0 then some (1, 0)
  else if recType ra ≠ fmtA f then some (2, ra)
  else if (match rb with | some b => recType b != fmtB f | none => false) then some (2, rb.getD 0)
  else if recType rz ≠ accType op then some (2, rz)
  else if (if op = 0x95 then recSpn ra = 0 else if op = 0x93 then !recScl ra else !dense ra) then some (3, ra)
  else if (match rb with | some b => (if op = 0x93 then !recScl b else !dense b) | none => false) then some (3, rb.getD 0)
  else match rb with
    | some b =>
      if recCols ra ≠ recCols b then some (4, b)
      else if recRows rz ≠ recRows ra ∨ recCols rz ≠ recRows b then some (4, rz)
      else if op = 0x94 ∧ 512 < recCols ra then some (5, ra)
      else none
    | none =>
      if recRows rz ≠ recRows ra ∨ recCols rz ≠ 1 then some (6, rz)
      else if (if isBinary8 (recType ra) then 256 else 128) < recCols ra then some (6, ra)
      else none

/-- A matrix instruction (R271): its checks in order, the wait for acceptance, acceptance. -/
def matrixIssue (op : Nat) (y : BitVec 4) (d : ZReg) (ta : TReg) (tb : Option TReg) (vecs : State → List Vec) (wd : Option (BitVec 16))
    (s : State) : Host.Outcome State Fault Refusal :=
  issue .X y s (fun s => withLatch s d
    (let rz := s.core.accRec d
     let ra := s.core.tileRec ta
     let rb := tb.map s.core.tileRec
     match s.core.fq.items with
     | [] => .raise { cause := .fqUnderflow, aux0 := s.core.fq.seqWord }
     | f :: _ =>
       if !formatOk op f then .raise (illegal .X s)
       else match shapeFault op f rz ra rb with
         | some (n, r) => .raise (shapeTrap n r 0)
         | none =>
           if 4 ≤ (s.core.matrix.filter (fun o => o.started.isNone)).length then .block s (.matrixAccept op)
           else
             let o : MatOp := {
               op := op, z := d, ta := ta, tb := tb, word := BitVec.ofNat 64 (s.core.wordAt .X s.core.x.pc.toNat)
               ext := BitVec.ofNat 64 (s.core.extAt .X s.core.x.pc.toNat), pc := s.core.x.pc, fmt := f, gen := s.core.gen
               shapeZ := rz, shapeA := ra, shapeB := rb.getD 0, vecs := vecs s, accepted := s.now
               bound := boundCycles (wd.getD 0) }
             .retire (s.setCore { s.core with fq := s.core.fq.drop, matrix := s.core.matrix ++ [o] })))

/-- MMA (R276). -/
def execXMma (y : BitVec 4) (d : ZReg) (ta tb : TReg) (wd : Option (BitVec 16)) (s : State) : Host.Outcome State Fault Refusal :=
  matrixIssue 0x90 y d ta (some tb) (fun _ => []) wd s

/-- MMAI (R276). -/
def execXMmai (y : BitVec 4) (d : ZReg) (ta tb : TReg) (wd : Option (BitVec 16)) (s : State) : Host.Outcome State Fault Refusal :=
  matrixIssue 0x91 y d ta (some tb) (fun _ => []) wd s

/-- MMAH (R276). -/
def execXMmah (y : BitVec 4) (d : ZReg) (ta tb : TReg) (wd : Option (BitVec 16)) (s : State) : Host.Outcome State Fault Refusal :=
  matrixIssue 0x92 y d ta (some tb) (fun _ => []) wd s

/-- MMAB form 1: scales in the rows (R277). -/
def execXMmab1 (y : BitVec 4) (d : ZReg) (ta tb : TReg) (wd : Option (BitVec 16)) (s : State) : Host.Outcome State Fault Refusal :=
  matrixIssue 0x93 y d ta (some tb) (fun _ => []) wd s

/-- MMAB form 2: scales in a vector pair, read at acceptance (R277). -/
def execXMmab2 (y : BitVec 4) (d : ZReg) (ta tb : TReg) (vc : VReg) (wd : Option (BitVec 16)) (s : State) : Host.Outcome State Fault Refusal :=
  matrixIssue 0x94 y d ta (some tb) (fun s => [s.rv vc, s.rv (vc + 1)]) wd s

/-- MMAS (R276). -/
def execXMmas (y : BitVec 4) (d : ZReg) (ta tb : TReg) (wd : Option (BitVec 16)) (s : State) : Host.Outcome State Fault Refusal :=
  matrixIssue 0x95 y d ta (some tb) (fun _ => []) wd s

/-- MMAX (R276). -/
def execXMmax (y : BitVec 4) (d : ZReg) (ta tb : TReg) (wd : Option (BitVec 16)) (s : State) : Host.Outcome State Fault Refusal :=
  matrixIssue 0x96 y d ta (some tb) (fun _ => []) wd s

/-- MMAN (R276). -/
def execXMman (y : BitVec 4) (d : ZReg) (ta tb : TReg) (wd : Option (BitVec 16)) (s : State) : Host.Outcome State Fault Refusal :=
  matrixIssue 0x97 y d ta (some tb) (fun _ => []) wd s

/-- MMV: the vector is read at acceptance (R278). -/
def execXMmv (y : BitVec 4) (d : ZReg) (ta : TReg) (b : VReg) (wd : Option (BitVec 16)) (s : State) : Host.Outcome State Fault Refusal :=
  matrixIssue 0x98 y d ta none (fun s => [s.rv b]) wd s

/-! ### What the engine computes (R258–R262, R267, R268, R276–R278) -/

/-- Element k of a row of elements of a type. -/
def rowElem (ty : ElemCode) (row : List Byte) (k : Nat) : Nat :=
  if ty = 7 then ((row.getD (k / 8) 0).getLsbD (k % 8)).toNat
  else if ty = 4 then leNat ((row.drop (2 * k)).take 2)
  else (row.getD k 0).toNat

/-- The position of stored value j of a sparse row: bits 5j to 5j + 4 from byte 256 (R267). -/
def sparseIndex (row : List Byte) (j : Nat) : Nat := leNat ((row.drop (256 + 5 * j / 8)).take 2) >>> (5 * j % 8) % 32

/-- The pairs of elements that form the products of chunk c. -/
def chunkPairs (o : MatOp) (a b : List Byte) (c : Nat) : List (Nat × Nat) :=
  let k := recCols o.shapeA
  let n := recSpn o.shapeA
  if n = 0 then
    (List.range (min 32 (k - 32 * c))).map (fun i => (rowElem (fmtA o.fmt) a (32 * c + i), rowElem (fmtB o.fmt) b (32 * c + i)))
  else
    (List.range n).map (fun v => (rowElem (fmtA o.fmt) a (c * n + v), rowElem (fmtB o.fmt) b (32 * c + sparseIndex a (c * n + v))))

def Num.isInf : Num → Bool
  | .inf _ => true
  | _ => false

/-- An exact product; with a binary8 zero it is +0 (R261). -/
def product (b8 : Bool) (x z : Num) : Num := let p := x.mul z; if b8 && p.isZero then .fin false 0 0 false else p

/-- One chunk of R258 with its scales (R259), rounded once; none where the policy traps. -/
def chunkFloat (rnd pol : Nat) (acc : Lane) (ps : List Num) (scale : Option (Num × Num)) : Option Lane :=
  let a := ofFp32 acc
  let all := a :: ps
  if all.any Num.isNan || (all.any (fun x => x.isInf && x.isNeg) && all.any (fun x => x.isInf && !x.isNeg)) then some 0x7FC00000
  else
    let sum := ps.foldl (Num.add 0) (.fin false 0 0 false)
    let p := match scale with
      | none => sum
      | some (x, z) => (x.mul z).mul sum
    let t := a.add 0 p
    if t.isZero then
      some (if rnd = 3 || all.all (fun x => x.isZero && x.isNeg) then 0x80000000 else 0)
    else (convert fp32 rnd pol t).map (BitVec.ofNat 32)

/-- A signed 8-bit element. -/
def int8 (c : Nat) : Int := (BitVec.ofNat 8 c).toInt

/-- SAT of R7 to INT32. -/
def sat32 (x : Int) : Int := max (-2147483648) (min 2147483647 x)

/-- One chunk of R262: the result and whether it saturated. -/
def chunkInt (op : Nat) (acc : Int) (ps : List (Nat × Nat)) : Int × Bool :=
  let t := ps.foldl (fun (u : Int) p => u + (match op with
    | 0x91 => int8 p.1 * int8 p.2
    | 0x96 => if p.1 = p.2 then 0 else 1
    | _ => if p.1 = 1 ∧ p.2 = 1 then 1 else 0)) acc
  (sat32 t, sat32 t != t)

/-- The scales of chunk c, for row bytes a and b (R268, R277). -/
def chunkScale (o : MatOp) (a b : List Byte) (c : Nat) : Option (Num × Num) :=
  let sc := fun (l : List Byte) (at_ : Nat) => decodeFloat bf16 (leNat ((l.drop at_).take 2))
  match o.op with
  | 0x93 => some (sc a (448 + 2 * c), sc b (448 + 2 * c))
  | 0x94 => some (sc (vecBytes (o.vecs.getD 0 Vec.zero)) (2 * c), sc (vecBytes (o.vecs.getD 1 Vec.zero)) (2 * c))
  | _ => none

/-- The chunks of an operation. -/
def chunkCount (o : MatOp) : Nat := (recCols o.shapeA + 31) / 32

/-- One element of the result and whether it saturated; none on a trapping overflow. -/
def matrixElem (o : MatOp) (acc : Lane) (a b : List Byte) : Option (Lane × Bool) :=
  (List.range (chunkCount o)).foldl (fun (r : Option (Lane × Bool)) c => match r with
    | none => none
    | some (x, sat) =>
      let ps := chunkPairs o a b c
      if accType o.op = 2 then
        let q := chunkInt o.op x.toInt ps
        some (BitVec.ofInt 32 q.1, sat || q.2)
      else
        let b8 := isBinary8 (fmtA o.fmt)
        let ns := ps.map (fun p => product b8 (elemNum (fmtA o.fmt) p.1) (elemNum (fmtB o.fmt) p.2))
        (chunkFloat (fmtRnd o.fmt) (fmtPol o.fmt) x ns (chunkScale o a b c)).map (fun l => (l, sat))) (some (acc, false))

/-- Row j of the B operand: of its tile, or the vector of MMV. -/
def matrixB (k : Core) (o : MatOp) (j : Nat) : List Byte :=
  match o.tb with
  | some t => k.rowBytes t j
  | none => vecBytes (o.vecs.getD 0 Vec.zero)

/-- The elements of the result by row and column (R276, R278). -/
def matrixResult (k : Core) (o : MatOp) : List (Nat × Nat × Option (Lane × Bool)) :=
  (List.range (recRows o.shapeZ)).flatMap (fun i =>
    let a := k.rowBytes o.ta i
    (List.range (recCols o.shapeZ)).map (fun j =>
      (i, j, matrixElem o ((k.accRow o.z i).toList.getD j 0) a (matrixB k o j))))

/-- Write elements of an accumulator. -/
def Core.writeAcc (k : Core) (z : ZReg) (l : List (Nat × Nat × Lane)) : Core :=
  l.foldl (fun (k : Core) p => k.setAccRow z p.1 ((k.accRow z p.1).set (Fin.ofNat 64 p.2.1) p.2.2)) k

/-- Set the latch of an accumulator. -/
def Core.latch (k : Core) (z : ZReg) (l : Latch) : Core := { k with latches := k.latches.set z (some l) }

/-- Accepted operations on an accumulator among the first `i`. -/
def Core.opsBefore (k : Core) (z : ZReg) (i : Nat) : Nat := (k.matrix.take i).countP (fun o => o.z == z)

/-- What becomes of the latch of an accumulator as an operation on it, which stood behind `before` others on it, ends with an
effect or an error (R275). One accepted before the failing operation is no later one: it has its effect, and if it fails too, the
latch is its own, the other among those counted (DEDUCED, log 233). -/
def nextLatch (l : Option Latch) (before : Nat) (pc : Word) : Option TrapInfo → Option Latch
  | none => l.map (fun l => { l with earlier := l.earlier - 1 })
  | some t => some { info := t, pc := pc, count := (match l with | some l => l.count + 1 | none => 0), earlier := before }

/-- An operation fails: the latch (R275). -/
def Core.failMatrix (k : Core) (i : Nat) (o : MatOp) (t : TrapInfo) : Core :=
  { k with latches := k.latches.set o.z (nextLatch k.latches[o.z] (k.opsBefore o.z i) o.pc (some t)) }

/-- An operation whose place in the list was `i` comes later than the one that set the accumulator's latch (R275). -/
def Core.voids (k : Core) (i : Nat) (o : MatOp) : Option Latch :=
  k.latches[o.z].filter (fun l => decide (l.earlier ≤ k.opsBefore o.z i))

/-- The operation that was the oldest completes (R273, R275): its result and ISAT, an error that sets the latch, or, under a latch,
no effect and one more counted. -/
def completeMatrix (k : Core) (o : MatOp) : Core :=
  match k.voids 0 o, o.struck with
  | some l, _ => k.latch o.z { l with count := l.count + 1 }
  | none, some u => k.failMatrix 0 o { cause := .eccUncorrectable, aux0 := BitVec.ofNat 64 u }
  | none, none =>
    let r := matrixResult k o
    match r.find? (fun p => p.2.2.isNone) with
    | some p => k.failMatrix 0 o { cause := .fpOverflow, aux0 := BitVec.ofNat 64 (p.1 * 64 + p.2.1) }
    | none =>
      let k := k.writeAcc o.z (r.map (fun p => (p.1, p.2.1, (p.2.2.getD (0, false)).1)))
      { k with
        isat := k.isat || r.any (fun p => (p.2.2.getD (0, false)).2)
        latches := k.latches.set o.z (nextLatch k.latches[o.z] 0 o.pc none) }

/-- Cycles that an operation keeps the engine busy (R283). -/
def busyCycles (o : MatOp) : Nat :=
  let c := chunkCount o
  max 1 (match o.op with
    | 0x92 => 8 * c
    | 0x95 => if recSpn o.shapeA ≤ 8 then (c + 1) / 2 else c
    | 0x96 | 0x97 => (c + 7) / 8
    | 0x98 => c
    | _ => 2 * c)

/-- The engine starts its next operation: the first not started, in the cycle after its acceptance or when the engine is free
(R283); it starts none while a save holds it (R296, R300). -/
def startMatrix (now : Nat) (k : Core) : List MatOp → Option (List MatOp × Nat)
  | [] => none
  | o :: r =>
    match o.started with
    | some _ => (startMatrix now k r).map (fun p => (o :: p.1, p.2))
    | none =>
      if o.accepted < now ∧ k.engineFree ≤ now then
        some ({ o with started := some (now + busyCycles o + 12) } :: r, now + busyCycles o)
      else none

/-- A hard pre-emption has stopped the member, and its engine starts nothing more (R296). -/
def Core.engineStopped (k : Core) : Bool :=
  k.hardStop && k.banks.isEmpty && k.pending.isNone && (match k.c.status with | .stopped _ | .ended => true | _ => false)

/-- MATRIX_OP_START (R283). -/
def execMatrixOpStart (s : State) : Host.Outcome State Fault Refusal :=
  if s.core.engineHeld || s.core.engineStopped then .next s
  else match startMatrix s.now s.core s.core.matrix with
    | none => .next s
    | some (l, free) => .next (s.setCore { s.core with matrix := l, engineFree := free })

/-- A started operation completes within its command bound (R39). -/
def MatOp.inTime (o : MatOp) : Bool := match o.started with | some t => decide (t ≤ o.accepted + o.bound) | none => false

/-- MATRIX_OP_COMPLETE (R273, R275, R283): the oldest operation, once its cycle has come; one whose cycle lies past its command
bound never completes, but is abandoned (R39). -/
def execMatrixOpComplete (s : State) : Host.Outcome State Fault Refusal :=
  match s.core.matrix with
  | [] => .next s
  | o :: r =>
    match o.started with
    | none => .next s
    | some t =>
      if t ≤ s.now ∧ o.inTime then .next (s.setCore (completeMatrix { s.core with matrix := r } o)) else .next s

/-- An operation outlives its command bound (R39, R275): it is abandoned; the elements it covers hold values the spec leaves
open, and the latch takes WATCHDOG. Under a latch it has no effect and is counted. -/
def abandonMatrix (s : State) (i : Nat) (o : MatOp) : State :=
  let k := { s.core with matrix := s.core.matrix.eraseIdx i }
  match k.voids i o with
  | some l => s.setCore (k.latch o.z { l with count := l.count + 1 })
  | none =>
    let cells := (List.range (recRows o.shapeZ)).flatMap (fun r => (List.range (recCols o.shapeZ)).map (fun c => (r, c)))
    let l := cells.zipIdx.map (fun p => (p.1.1, p.1.2, BitVec.ofNat 32 (Config.freeBits (s.fresh + p.2))))
    let k := (k.writeAcc o.z l).failMatrix i o
      { cause := .watchdog, detail := 7, aux0 := BitVec.ofNat 64 (64 + o.z.val), aux2 := BitVec.ofNat 64 o.bound }
    { s.setCore k with fresh := s.fresh + cells.length }

/-- The first accepted operation of the core in focus whose bound has passed without its completion (R39): its place and
itself. -/
def expiredMatrix (s : State) : Option (Nat × MatOp) :=
  (s.core.matrix.zipIdx.find? (fun p => decide (p.1.accepted + p.1.bound < s.now) && !p.1.inTime)).map (fun p => (p.2, p.1))

/-! ### END of the X-stream (R194, R338) -/

/-- The first accumulator with a latch, reported at END (R275). -/
def reportLatches (s : State) (k : Act) : Act :=
  match (List.finRange 4).find? (fun z => s.core.latches[z].isSome) with
  | some z => withLatch s z k
  | none => k

/-- END of the X-stream: its matrix operations have completed and its tape writes, with the header that ends a recording,
have committed; what is unreported is raised first (R194, R275, R338). -/
def execXEnd (y : BitVec 4) (s : State) : Host.Outcome State Fault Refusal :=
  issue .X y s (fun s =>
    match endRecording s with
    | .error e => .raise e
    | .ok t =>
      let left := t.still (tapeOps t)
      if !left.isEmpty || !t.core.matrix.isEmpty then
        .block (t.setStream .X { t.core.x with awaited := some left }) (.commits 0x1C left)
      else reportLatches t (reportFirst t 34 (whenRoom .X y t
        (.finish (if t.core.tape.mode = 1 then t.setTape { t.core.tape with mode := 0 } else t)))))

end Sys2Proof.Machine
end

