-- ==== Sys2Proof/Machine/Copies.lean ====
section
/-! DEFINITION. The copies of the copy engine: CPY, CPY2D, CPYX and the transform chain (R76, R140–R145). -/
namespace Sys2Proof.Machine

/-! ### Naming two objects (R126, R140) -/

/-- Checks 1 to 3 of R126 on two operands, each check on both before the next. -/
def named2 (s : State) (h1 : Handle) (c1 : Nat) (h2 : Handle) (c2 : Nat) : Except TrapInfo (Shape × Shape) :=
  let past := fun (h : Handle) (c : Nat) => match s.core.handle h.val with | none => false | some o => decide (32 < c + o.rank)
  if past h1 c1 || past h2 c2 then .error (illegal .A s)
  else if (s.core.handle h1.val).isNone then (useHandle s.core h1.val).map (fun o => (o, o))
  else if (s.core.handle h2.val).isNone then (useHandle s.core h2.val).map (fun o => (o, o))
  else match useHandle s.core h1.val, useHandle s.core h2.val with
    | .ok a, .ok b => .ok (a, b)
    | .error t, _ => .error t
    | _, .error t => .error t

/-- The operand of an object at its coordinate registers (R125). -/
def operandAt (s : State) (h : Handle) (c : Nat) (o : Shape) : Operand := ⟨h.val, o, coords s c o.rank, o.addr (coords s c o.rank)⟩

/-! ### Rows (R140) -/

/-- Bytes from one row to the next: the stride of the dimension next to the innermost. -/
def rowStep (o : Shape) : Nat := o.strides.getD (o.rank - 2) 0 * elemBits o.ty / 8

/-- The byte ranges of `h` rows of `w` bytes. -/
def rowSpans (p : Operand) (w h : Nat) (write : Bool) : List Span :=
  if w = 0 then [] else (List.range h).map (fun r => ⟨p, p.va + r * rowStep p.obj, w, write⟩)

/-- All the rows lie in the object's element footprint. -/
def inFootprint (p : Operand) (w h : Nat) : Bool :=
  decide (w * h = 0) || decide (p.va + (h - 1) * rowStep p.obj + w ≤ p.obj.base + p.obj.footprint)

/-- Pair the places written with the places read. The first argument bounds the pieces. -/
def zipSegs : Nat → List Seg → List Seg → List Seg
  | 0, _, _ => []
  | _, [], _ => []
  | _, _, [] => []
  | n + 1, d :: ds, q :: qs =>
    let m := min d.len q.len
    let rest := fun (g : Seg) (l : List Seg) => if g.len = m then l else { g with key := g.key + m, len := g.len - m } :: l
    { key := d.key, len := m, src := some q.key } :: zipSegs n (rest d ds) (rest q qs)

/-- Some bytes of two lists of places are the same physical bytes. -/
def overlaps (a b : List Seg) : Bool := a.any (fun x => b.any x.meets)

/-! ### The transform chain (R141, R142) -/

/-- What a step sees: the length in bytes, the element type and the extents. -/
structure Stage where
  len : Nat
  ty : ElemCode
  dims : List Nat
  deriving DecidableEq, Repr, Inhabited

/-- The product of extents. -/
def extent (l : List Nat) : Nat := l.foldl (· * ·) 1

/-- Dense row-major strides: each is the product of the extents after it. -/
def denseFrom : List Nat → List Nat → Bool
  | [], _ => true
  | _ :: ds, t :: ts => t == extent ds && denseFrom ds ts
  | _, [] => false

/-- Exchange two extents. -/
def exchangeDims (l : List Nat) (a b : Nat) : List Nat := (l.set a (l.getD b 0)).set b (l.getD a 0)

/-- A target type code is one of the integers. -/
def integerType (ty : ElemCode) : Bool := decide (ty.toNat < 4)

/-- What a step makes of what it sees; none where its required input is missing, which raises ILLEGAL (R141, R256). -/
def stageAfter (o : Shape) (crd : List Nat) (g : Stage) (x : Nat) : Option Stage :=
  let a := stepArg x
  match stepOp x with
  | 1 => if g.len % 256 = 0 then some { g with len := g.len / 256 * (o.padsz * 32) } else none
  | 2 => if g.len % (o.padsz * 32) = 0 then some { g with len := g.len / (o.padsz * 32) * 256 } else none
  | 3 =>
    if crd.all (· == 0) && denseFrom (o.dims.take o.rank) o.strides && g.len * 8 == extent g.dims * elemBits g.ty then
      some { g with dims := exchangeDims g.dims (a % 8) (a / 8 % 8) }
    else none
  | 4 =>
    let t := BitVec.ofNat 6 a
    if elemBits g.ty = 1 ∨ g.len % elemBytes g.ty ≠ 0 ∨ (integerType t ∧ a / 64 % 4 = 2) then none
    else some { g with len := g.len / elemBytes g.ty * elemBytes t, ty := t }
  | 5 =>
    let row := g.dims.getD (o.rank - 1) 0 * elemBits g.ty
    if crd.getD (o.rank - 1) 0 ≠ 0 ∨ g.len * 8 % row ≠ 0 ∨ a < g.dims.getD (o.rank - 1) 0 then none
    else some { g with len := (g.len * 8 / row * a * elemBits g.ty + 7) / 8, dims := g.dims.set (o.rank - 1) a }
  | _ => some g

/-- The steps of a chain. -/
def Shape.steps (o : Shape) : List Nat := o.xforms.takeWhile (· != 0)

/-- What the chain gives of `len` bytes; none where CPYX raises ILLEGAL. -/
def chainOut (o : Shape) (crd : List Nat) (len : Nat) : Option Stage :=
  o.steps.foldl (fun (g : Option Stage) x => g.bind (fun g => stageAfter o crd g x)) (some ⟨len, o.ty, o.dims.take o.rank⟩)

/-- Bits of bytes, lowest first. -/
def bitsOfBytes (l : List Byte) : List Bool := l.flatMap (fun b => (List.range 8).map (fun i => b.getLsbD i))

/-- Bytes of bits, filled with zeros. -/
def bytesOfBits (l : List Bool) : List Byte :=
  (List.range ((l.length + 7) / 8)).map (fun k =>
    BitVec.ofNat 8 ((List.range 8).foldl (fun acc i => acc + (if l.getD (8 * k + i) false then 2 ^ i else 0)) 0))

/-- The elements of bytes. -/
def elemsOf (w : Nat) (l : List Byte) : List Nat :=
  if w = 1 then (bitsOfBytes l).map Bool.toNat else (chunks l.length (w / 8) l).map leNat

/-- The bytes of elements. -/
def bytesOfElems (w : Nat) (l : List Nat) : List Byte :=
  if w = 1 then bytesOfBits (l.map (· != 0)) else l.flatMap (leBytes (w / 8))

/-- A block compressed into `pad` units of 32 bytes (R142); none for PAD_OVERFLOW. -/
def packBlock (pad : Nat) (b : List Byte) : Option (List Byte) :=
  let nz := b.filter (· != 0)
  if pad * 32 - 32 < nz.length then none
  else
    let out := bytesOfBits (b.map (· != 0)) ++ nz
    some (out ++ List.replicate (pad * 32 - out.length) 0)

/-- Put the stored bytes at the set bits of a mask. -/
def spread : List Bool → List Byte → List Byte
  | [], _ => []
  | true :: m, b :: l => b :: spread m l
  | true :: m, [] => 0 :: spread m []
  | false :: m, l => 0 :: spread m l

/-- A padded block restored to 256 bytes (R142); none for PAD_OVERFLOW. -/
def unpackBlock (pad : Nat) (b : List Byte) : Option (List Byte) :=
  let mask := bitsOfBytes (b.take 32)
  if pad * 32 - 32 < mask.countP id then none else some (spread mask (b.drop 32))

/-- The results before the first failure, and where that is. -/
def mapUntil {α β : Type} (f : α → Option β) : Nat → List α → List β × Option Nat
  | _, [] => ([], none)
  | i, x :: r => match f x with
    | none => ([], some i)
    | some y => let p := mapUntil f (i + 1) r; (y :: p.1, p.2)

/-- The position in row-major order of the exchanged shape's element: its coordinates, exchanged, in the old shape. -/
def sourceIndex (dims : List Nat) (a b j : Nat) : Nat :=
  let out := exchangeDims dims a b
  let crd := (List.range out.length).map (fun k => j / extent (out.drop (k + 1)) % out.getD k 1)
  let old := exchangeDims crd a b
  (List.range dims.length).foldl (fun acc k => acc + old.getD k 0 * extent (dims.drop (k + 1))) 0

/-- The conversion of one element (R255, R181); none for FP_OVERFLOW. -/
def convertElem (src dst : ElemCode) (rnd pol c : Nat) : Option Nat :=
  if integerType dst then toInteger (elemBits dst) rnd pol (elemNum src c) else convert (fmtOf dst) rnd pol (elemNum src c)

/-- One step on bytes: its output, and the group that fails, with bytes to a group. -/
def runStep (o : Shape) (g : Stage) (x : Nat) (l : List Byte) : List Byte × Option (Cause × Nat) :=
  let a := stepArg x
  match stepOp x with
  | 1 =>
    let p := mapUntil (packBlock o.padsz) 0 ((chunks l.length 256 l).filter (fun b => b.length == 256))
    (p.1.flatten, p.2.map (fun i => (.padOverflow, 256 * i)))
  | 2 =>
    let w := o.padsz * 32
    let p := mapUntil (unpackBlock o.padsz) 0 ((chunks l.length w l).filter (fun b => b.length == w))
    (p.1.flatten, p.2.map (fun i => (.padOverflow, w * i)))
  | 3 =>
    let w := elemBits g.ty
    let es := elemsOf w l
    if es.length < extent g.dims then ([], none)
    else (bytesOfElems w ((List.range (extent g.dims)).map (fun j => es.getD (sourceIndex g.dims (a % 8) (a / 8 % 8) j) 0)), none)
  | 4 =>
    let t := BitVec.ofNat 6 a
    let w := elemBytes g.ty
    let p := mapUntil (convertElem g.ty t (a / 256 % 4) (a / 64 % 4)) 0 (elemsOf (elemBits g.ty) (l.take (l.length / w * w)))
    (bytesOfElems (elemBits t) p.1, p.2.map (fun i => (.fpOverflow, w * i)))
  | 5 =>
    let w := elemBits g.ty
    let n := g.dims.getD (o.rank - 1) 0
    let es := elemsOf w l
    (bytesOfElems w ((List.range (es.length / n)).flatMap (fun r => (es.drop (r * n)).take n ++ List.replicate (a - n) 0)), none)
  | _ => (l, none)

/-- The chain on bytes: the output, cut before what a failing step or its input misses, and the failure that cuts it, with its
place as a fraction of the length that the failing step sees. -/
def runChain (o : Shape) : List Nat → Stage → List Byte → Option (Cause × Nat × Nat) → List Byte × Option (Cause × Nat × Nat)
  | [], _, l, e => (l, e)
  | x :: r, g, l, e =>
    let p := runStep o g x l
    runChain o r ((stageAfter o (List.replicate o.rank 0) g x).getD g) p.1
      (match p.2 with | some (c, i) => some (c, i, g.len) | none => e)

/-! ### The bytes of a copy -/

/-- The bytes before the first uncorrectable one, among some places (R381). -/
def cleanBytes (s : State) (l : List Seg) : Nat :=
  if s.poison.isEmpty && s.deadChips.isEmpty then segBytes l
  else ((l.flatMap (fun g => (List.range g.len).map (g.key + ·))).takeWhile (fun k => !s.poisoned k 1)).length

/-- The first `n` bytes of some segments. -/
def takeSegs : Nat → List Seg → List Seg
  | _, [] => []
  | n, g :: r => if n = 0 then [] else if g.len ≤ n then g :: takeSegs (n - g.len) r else [{ g with len := n, data := g.data.take n }]

/-- The places that some segments read. -/
def sourcesOf (l : List Seg) : List Seg := l.filterMap (fun g => g.src.map (fun k => { key := k, len := g.len }))

/-- What a failed chain reports (R287): the source address of the failing block and the bytes written before it. -/
def chainError (f : Flight) (len written : Nat) (e : Cause × Nat × Nat) : TrapInfo :=
  if e.1 = .padOverflow then
    let va := BitVec.ofNat 64 (f.va + e.2.1 * len / e.2.2)
    { cause := .padOverflow, addr := va, hnd := f.hnd, aux0 := va, aux1 := BitVec.ofNat 64 written }
  else { cause := e.1, addr := BitVec.ofNat 64 f.va, hnd := f.hnd }

/-- The engine reads the whole source of a CPYX and runs the chain: what is left to do is to write the output. -/
def prepare (s : State) (f : Flight) : Flight :=
  match f.job with
  | .copy w (some (o, segs)) =>
    let n := cleanBytes s segs
    let l := (segs.flatMap (fun g => s.bytes g.key g.len)).take n
    let p := runChain o o.steps ⟨segBytes segs, o.ty, o.dims.take o.rank⟩ l none
    let todo := takeSegs p.1.length f.todo
    { f with job := .copy w none, todo := fillSegs todo p.1,
             error := match p.2 with
               | some e => some (chainError f (segBytes segs) p.1.length e)
               | none => if n < segBytes segs then some (eccAt f (((sourcesOf f.todo).head?.map (·.key)).getD ((segs.head?.map (·.key)).getD 0))) else f.error }
  | _ => f

/-- A copy whose source is in a watched space reads it in the step of its check (R236). -/
def captureCopy (s : State) (f : Flight) : Flight :=
  match f.job with
  | .copy _ (some _) => prepare s f
  | _ =>
    let srcs := sourcesOf f.todo
    let n := cleanBytes s srcs
    let todo := (takeSegs n f.todo).map (fun g => { g with data := g.bytesOf s, src := none })
    { f with todo := todo, error := if n < segBytes srcs then some (eccAt f ((srcs.head?.map (·.key)).getD 0)) else f.error }

/-! ### Issue (R127, R140, R143, R144) -/

/-- The copies of the core in focus that hold a slot (R143). -/
def copySlots (s : State) : Nat := (s.flights.filter (fun f => f.core == s.core.num && !f.orphan && f.job.counts)).length

/-- A copy issues on its token: without an outstanding writer the register is set to 0 (R144). -/
def startToken (s : State) (tok : ShortReg) : State :=
  if (s.writers tok.val).isEmpty then s.wa (Fin.ofNat 32 tok.val) 0 else s

/-- The token of a copy. -/
def tokenReg (tok : ShortReg) : Option Nat := if tok = 0 then none else some tok.val

/-- The key ranges that count in the pages' in-flight counts (R311). -/
def heldOf (l : List Seg) : List (Nat × Nat) := l.map (fun g => (g.key, g.len))

/-- Check 4 on the operands of a copy of `w` bytes in each of `h` rows (R140, R141). -/
def copyRefused (s : State) (rows chain : Bool) (d q : Operand) (w h : Nat) : Bool :=
  let out := if chain then (chainOut q.obj q.crd (w * h)) else some ⟨w * h, q.obj.ty, []⟩
  match out with
  | none => true
  | some g =>
    decide (2 ^ 40 ≤ w * h) || d.obj.space == 4 || q.obj.space == 4 || !d.obj.plain || (!chain && !q.obj.plain) ||
      (chain && g.ty != d.obj.ty) || (rows && (decide (d.obj.rank < 2) || decide (q.obj.rank < 2))) ||
      overlaps (segsOfSpans s (if rows then rowSpans q w h false else rowSpans q (w * h) 1 false))
        (segsOfSpans s (if rows then rowSpans d w h true else rowSpans d g.len 1 true))

/-- CPY, CPY2D and CPYX (R140, R141): `rows` for CPY2D, `chain` for CPYX. Each of the checks 5 to 8 goes to the source, then to the
destination (DESIGN CHOICE, log 123). -/
def copy (opcode : Nat) (rows chain : Bool) (y : BitVec 4) (tok : ShortReg) (hd : Handle) (dcf : ShortReg) (hs : Handle) (scf : ShortReg)
    (len : ShortReg) (wd : BitVec 16) (s : State) : Host.Outcome State Fault Refusal :=
  issue .A y s (fun s =>
    match named2 s hd dcf.val hs scf.val with
    | .error t => .raise t
    | .ok (od, os) =>
      withRegs s (coordRegs dcf.val od.rank ++ coordRegs scf.val os.rank ++ (if rows then [len.val, len.val + 1] else [len.val])) []
        (withToken s tok.val (
          let d := operandAt s hd dcf.val od
          let q := operandAt s hs scf.val os
          let w := (s.ra (Fin.ofNat 32 len.val)).toNat
          let h := if rows then (s.ra (Fin.ofNat 32 (len.val + 1))).toNat else 1
          let n := if chain then ((chainOut os q.crd w).map (·.len)).getD 0 else w
          let reads := rowSpans q w h false
          let writes := rowSpans d n h true
          if copyRefused s rows chain d q w h then .raise (illegal .A s)
          else if !q.obj.inBounds q.crd 1 || !inFootprint q w h then .raise (q.outOfBounds false)
          else if !d.obj.inBounds d.crd 1 || !inFootprint d n h then .raise (d.outOfBounds true)
          else (checkSpans s [q, d] (reads ++ writes)).act s (fun _ =>
            if w * h = 0 then .retire (startToken s tok)
            else if 128 ≤ copySlots s then .block s (.copySlot opcode)
            else
              let spaces := [os.space, od.space]
              stampGate s 0 (!(orderAfter s 0 0 spaces).isEmpty) (reads ++ writes) (fun s =>
                let src := segsOfSpans s reads
                let dst := segsOfSpans s writes
                let f := { aFlight s (.copy 0 (if chain then some (os, src) else none)) with
                  ready := s.now + latency os.space, expires := some (s.now + boundCycles wd), after := orderAfter s 0 0 spaces
                  watched := watchedSpans s writes, write := true, spaces := spaces, dups := dupsOf s writes, held := heldOf src ++ heldOf dst, reg := tokenReg tok
                  hnd := hndWord q.hnd (some os), va := q.va
                  todo := if chain then dst else zipSegs (dst.length + src.length) dst src }
                .retire ((startToken s tok).begin (if watchedSpans s reads then captureCopy s f else f)))))))

/-- CPY (R140). -/
def execACpy (y : BitVec 4) (tok : ShortReg) (hd : Handle) (dcf : ShortReg) (hs : Handle) (scf len : ShortReg) (wd : BitVec 16) (s : State) :
    Host.Outcome State Fault Refusal := copy 0x48 false false y tok hd dcf hs scf len wd s

/-- CPY2D (R140). -/
def execACpy2d (y : BitVec 4) (tok : ShortReg) (hd : Handle) (dcf : ShortReg) (hs : Handle) (scf len : ShortReg) (wd : BitVec 16) (s : State) :
    Host.Outcome State Fault Refusal := copy 0x49 true false y tok hd dcf hs scf len wd s

/-- CPYX (R141). -/
def execACpyx (y : BitVec 4) (tok : ShortReg) (hd : Handle) (dcf : ShortReg) (hs : Handle) (scf len : ShortReg) (wd : BitVec 16) (s : State) :
    Host.Outcome State Fault Refusal := copy 0x4A false true y tok hd dcf hs scf len wd s

end Sys2Proof.Machine
end

