-- ==== Sys2Proof/Machine/Archive.lean ====
section
/-! DEFINITION. The gather-and-pool and the attention units of the archive chips: EMBAG, KVATT and their partials
(R159–R161, R317–R322, R325–R330). -/
namespace Sys2Proof.Machine

/-! ### Issue -/

/-- What EMBAG accepts of its table and its bag list (R159, R318). -/
def embagOk (t l : Shape) : Bool :=
  t.space == 3 && t.rank == 2 && (t.ty == 4 || t.ty == 5) && decide (t.dims.getD 1 0 ≤ 64) && t.strides.getD 1 0 == 1 &&
    t.base % 256 == 0 && t.strides.getD 0 0 * elemBytes t.ty % 256 == 0 &&
    l.ty == 3 && l.rank == 1 && decide (l.space ≤ 3)

/-- What KVATT accepts of its cache, its coordinates and its block table (R325). -/
def kvattOk (c l : Shape) (crd : List Nat) (n : Nat) : Bool :=
  let d := c.dims.getD 1 0
  let w := c.strides.getD 0 0 * 2
  c.space == 3 && c.rank == 2 && c.ty == 4 && crd.all (· == 0) && d % 2 == 0 && decide (2 ≤ d) && decide (d ≤ 512) &&
    c.strides.getD 1 0 == 1 && decide (d ≤ c.strides.getD 0 0) && decide (w ≤ 1024) && w == 2 ^ w.log2 &&
    c.base % 1024 == 0 && c.dims.getD 0 0 % 16 == 0 && l.ty == 2 && l.rank == 1 && l.space != 4 && decide (1 ≤ n) && decide (n ≤ 1048576)

/-- The joint reservation of EMBAG and KVATT (R161). -/
def reserveAll (s : State) (q : LqNum) (n : Nat) (k : Act) : Act :=
  if s.core.slipmax.toNat < n then .raise (illegalSequence .A s)
  else match lqWait s.core q n with
    | some w => .block s w
    | none => k

/-- EMBAG (R159). -/
def execAEmbag (y : BitVec 4) (q : LqNum) (ha : Handle) (acf : ShortReg) (hb : Handle) (bcf n : ShortReg) (s : State) :
    Host.Outcome State Fault Refusal :=
  issue .A y s (fun s =>
    match named2 s ha acf.val hb bcf.val with
    | .error t => .raise t
    | .ok (oa, ob) =>
      withRegs s (coordRegs acf.val oa.rank ++ coordRegs bcf.val ob.rank ++ [n.val]) [] (
        let a := operandAt s ha acf.val oa
        let b := operandAt s hb bcf.val ob
        let k := (s.ra (Fin.ofNat 32 n.val)).toNat
        if !embagOk oa ob || decide (k = 0) || decide (64 < k) then .raise (illegal .A s)
        else if !oa.inBounds a.crd 1 then .raise (a.outOfBounds false)
        else if !ob.inBounds b.crd 1 then .raise (b.outOfBounds false)
        else (checkSpans s [a, b] (b.run 1 false)).act s (fun _ =>
          reserveAll s q k (
            let f := { aFlight s (.embag q.val (s.core.loadQueue q).tail oa (a.crd.getD 0 0) (a.crd.getD 1 0) ob (b.crd.getD 0 0) k none
                false (hndWord hb.val (some ob))) with
              after := engineAfter s 0 0 [3, ob.space], spaces := [3, ob.space], hnd := hndWord ha.val (some oa), va := a.va }
            .retire ((s.setCore (s.core.reserve q k)).begin f)))))

/-- The BF16 elements of the query: two to a lane (R160). -/
def queryElems (l : List Vec) (d : Nat) : List (BitVec 16) :=
  (l.flatMap (fun (v : Vec) => v.toList.flatMap (fun (x : Lane) => [x.setWidth 16, (x >>> 16).setWidth 16]))).take d

/-- KVATT (R160): its query entries are popped as its entries are reserved (R161). -/
def execAKvatt (y : BitVec 4) (q : LqNum) (ha : Handle) (acf : ShortReg) (hb : Handle) (bcf n : ShortReg) (s : State) :
    Host.Outcome State Fault Refusal :=
  issue .A y s (fun s =>
    match named2 s ha acf.val hb bcf.val with
    | .error t => .raise t
    | .ok (oa, ob) =>
      withRegs s (coordRegs acf.val oa.rank ++ coordRegs bcf.val ob.rank ++ [n.val, n.val + 1]) [] (
        let a := operandAt s ha acf.val oa
        let b := operandAt s hb bcf.val ob
        let k := (s.ra (Fin.ofNat 32 n.val)).toNat
        let d := oa.dims.getD 1 0 / 2
        let first := b.crd.getD 0 0
        let pops := (d + 127) / 128
        let entries := (d + 63) / 64 + 1
        if !kvattOk oa ob a.crd k then .raise (illegal .A s)
        else if !ob.inBounds b.crd 1 then .raise (b.outOfBounds false)
        else (checkSpans s [a, b] (b.run (min ((k + 15) / 16) (ob.innerDim - first)) false)).act s (fun _ =>
          if s.core.slipmax.toNat < entries then .raise (illegalSequence .A s)
          else if s.core.sq.items.length < pops then .block s (.pop 4 pops)
          else reserveAll s q entries (
            let f := { aFlight s (.kvatt q.val (s.core.loadQueue q).tail oa ob first k ((s.ra (Fin.ofNat 32 (n.val + 1))).setWidth 32)
                (queryElems (s.core.sq.items.take pops) d) none false (hndWord hb.val (some ob))) with
              after := engineAfter s 0 0 [3, ob.space], spaces := [3, ob.space], hnd := hndWord ha.val (some oa), va := a.va }
            let t := s.setCore { s.core.reserve q entries with sq := s.core.sq.dropN pops }
            .retire (t.begin f)))))

/-! ### Reading the lists -/

/-- Where a core's table places a byte that a unit reads of an object: its key, what strikes the entry, or the wait for a page
that is migrating in (R309, R322). -/
def unitPlace (k : Core) (o : Shape) (hnd : Word) (va : Nat) : Check Nat :=
  let e := lookup k.ltt va
  let aux := pieceAux ⟨va, 1, e⟩ false
  let trap := fun (c : Cause) => Check.trap { cause := c, addr := BitVec.ofNat 64 va, hnd := hnd, aux0 := BitVec.ofNat 64 (va - o.base), aux1 := aux.1, aux2 := aux.2 }
  match e with
  | none => trap .programAddress
  | some (i, e) =>
    if e.space ≠ o.space then trap .programAddress
    else match e.state with
      | .absent => trap .pageAbsent
      | .migratingOut => trap .pageAbsent
      | st =>
        if !e.r then trap .permission
        else if st = .migratingIn then .wait (.migratingIn i)
        else .ok (placeKey k.num e.space (e.place k.num false + (va - e.vbase)))

/-- PROGRAM_ADDRESS of an element that lies beyond an object (R322). -/
def beyond (o : Shape) (hnd : Word) (va : Nat) : TrapInfo :=
  { cause := .programAddress, addr := BitVec.ofNat 64 va, hnd := hnd, aux0 := BitVec.ofNat 64 (va - o.base) }

/-- An element of a list of rank 1 as a number. -/
def listElem (s : State) (k : Core) (o : Shape) (hnd : Word) (i : Nat) : Check Nat :=
  let va := o.addr [i]
  if o.innerDim ≤ i then .trap (beyond o hnd va)
  else match unitPlace k o hnd va with
    | .ok key =>
      if s.poisoned key (elemBytes o.ty) then .trap { cause := .eccUncorrectable, addr := BitVec.ofNat 64 va, hnd := hnd, aux0 := 3 }
      else .ok (s.word key (elemBytes o.ty))
    | .trap t => .trap t
    | .wait w => .wait w

/-- Mark a bag, if it is not yet marked. -/
def Pool.mark (p : Pool) (b : Nat) (t : TrapInfo) : Pool :=
  if p.marks.any (fun m => m.1 == b) then p else { p with marks := p.marks ++ [(b, t)] }

/-- The die reads the bag list (R159): from item `i` of bag `b` on. An item that cannot be read marks its bag and all after it,
whose items it would have delimited. -/
def readBags (s : State) (k : Core) (t : Shape) (hnd : Word) (row col : Nat) (l : Shape) (lh : Word) (bags : Nat) :
    Nat → Nat → Nat → Pool → Check Pool
  | 0, _, _, p => .ok p
  | fuel + 1, i, b, p =>
    if bags ≤ b then .ok p
    else match listElem s k l lh i with
      | .wait w => .wait w
      | .trap e => .ok ((List.range (bags - b)).foldl (fun (p : Pool) j => p.mark (b + j) e) p)
      | .ok x =>
        let r := x % 2 ^ 31 + row
        let next := if x.testBit 31 then b + 1 else b
        let va := t.addr [r, col]
        if t.dims.getD 0 0 ≤ r then readBags s k t hnd row col l lh bags fuel (i + 1) next (p.mark b (beyond t hnd va))
        else match unitPlace k t hnd va with
          | .wait w => .wait w
          | .trap e => readBags s k t hnd row col l lh bags fuel (i + 1) next (p.mark b e)
          | .ok key => readBags s k t hnd row col l lh bags fuel (i + 1) next
              { p with items := p.items ++ [⟨b, va, key, BitVec.ofNat 32 (x / 2 ^ 32), chipOf key⟩] }

/-- The die reads the entries of the block table that a pass needs: token `t` on, with the places of the tokens' rows (R326). -/
def readTokens (s : State) (k : Core) (c : Shape) (hnd : Word) (l : Shape) (lh : Word) (first : Nat) : Nat → Nat → Pass → Check Pass
  | 0, _, p => .ok p
  | fuel + 1, t, p =>
    match listElem s k l lh (first + t / 16) with
    | .wait w => .wait w
    | .trap e => .ok { p with error := some e }
    | .ok page =>
      let va := c.addr [16 * page + t % 16, 0]
      if c.dims.getD 0 0 ≤ 16 * page then .ok { p with error := some (beyond c hnd va) }
      else match unitPlace k c hnd va with
        | .wait w => .wait w
        | .trap e => .ok { p with error := some e }
        | .ok key => readTokens s k c hnd l lh first fuel (t + 1) { p with tokens := p.tokens ++ [⟨va, key, chipOf key⟩] }

/-- The die has still to read the list of an operation, and a page that it has to read is migrating in (R322). -/
def listWaits (s : State) (f : Flight) : Bool :=
  match f.job with
  | .embag _ _ t row col l first bags none _ lh =>
    (match readBags s (s.coreAt f.core) t f.hnd row col l lh bags (l.innerDim + 1) first 0 { items := [], left := [] } with
      | .wait _ => true
      | _ => false)
  | .kvatt _ _ c l first n _ _ none _ lh =>
    (match readTokens s (s.coreAt f.core) c f.hnd l lh first n 0 { tokens := [], left := [] } with
      | .wait _ => true
      | _ => false)
  | _ => false

/-- The chips among some, ascending. -/
def chipsIn (l : List Nat) : List Nat := (List.range 12).filter (fun q => l.contains q)

/-- A unit claims granules of its chip (R328). -/
def claim (s : State) (op chip due : Nat) (keys : List Nat) : State :=
  { s with
    claims := s.claims ++ [{ id := s.nextId, chip := chip, op := op, granules := (keys.map (· / 1024)).eraseDups, due := due }]
    nextId := s.nextId + 1 }

/-! ### Merging (R159, R160, R321, R326) -/

/-- One rounded addition. -/
def add32 (a b : Lane) : Lane := rn32 (Num.add 0 (ofFp32 a) (ofFp32 b))

/-- One rounded multiplication. -/
def mul32 (a b : Lane) : Lane := rn32 (Num.mul (ofFp32 a) (ofFp32 b))

/-- The FP32 values of a row segment: `n` elements at a key. -/
def rowLanes (s : State) (ty : ElemCode) (key n : Nat) : List Lane :=
  (List.range n).map (fun j => rn32 (elemNum ty (s.word (key + j * elemBytes ty) (elemBytes ty))))

/-- One item folded into a partial: one rounding (R159). -/
def foldRow (part row : List Lane) (w : Lane) : List Lane :=
  List.zipWith (fun p x => rn32 (Num.add 0 (ofFp32 p) (Num.mul (ofFp32 w) (ofFp32 x)))) part row

/-- The items of a pool that a chip has still to fold, in ascending position. -/
def Pool.mine (p : Pool) (q : Nat) : List PoolItem := p.items.filter (fun i => i.chip == q)

/-- The partial of a chip for a bag so far: +0 in every lane before its first item (R321). -/
def Pool.part (p : Pool) (q b n : Nat) : List Lane :=
  ((p.parts.find? (fun x => x.1 == q && x.2.1 == b)).map (·.2.2)).getD (List.replicate n 0)

/-- Put the partial of a chip for a bag. -/
def Pool.putPart (p : Pool) (q b : Nat) (l : List Lane) : Pool :=
  { p with parts := p.parts.filter (fun x => !(x.1 == q && x.2.1 == b)) ++ [(q, b, l)] }

/-- ECC_UNCORRECTABLE of the archive (R322). -/
def archiveEcc (va : Nat) (hnd : Word) : TrapInfo := { cause := .eccUncorrectable, addr := BitVec.ofNat 64 va, hnd := hnd, aux0 := 3 }

/-- An item's row cannot be read: a unit of it is uncorrectable, or the link of its chip has failed (R322, R330). -/
def rowBad (s : State) (key len chip : Nat) : Bool := s.poisoned key len || s.deadChips.contains chip

/-- A chip folds its next item: its row segment is read, its bag's partial takes one rounding; an uncorrectable row marks the bag
(R321, R322). -/
def foldItem (s : State) (t : Shape) (hnd : Word) (n : Nat) (p : Pool) (i : PoolItem) : Pool :=
  let p := if rowBad s i.key (n * elemBytes t.ty) i.chip then p.mark i.bag (archiveEcc i.va hnd) else p
  { p.putPart i.chip i.bag (foldRow (p.part i.chip i.bag n) (rowLanes s t.ty i.key n) i.w) with
    items := p.items.erase i, claimed := p.claimed.filter (· != i.chip) }

/-- An entry that carries an error, whose delivery clears its mark (R322). -/
def markedEntry (f : Flight) (q : Nat) (t : TrapInfo) : LqEntry :=
  { data := some Vec.zero, error := some { info := { t with clears := 5 + q }, pc := f.pc } }

/-- The lanes of a bag: the twelve partials in chip order (R159); the lanes of columns that the row does not have are free (DESIGN CHOICE, log 4). -/
def bagLanes (s : State) (t : Shape) (n : Nat) (p : Pool) (b : Nat) : List Lane × State :=
  let out := (List.range 12).foldl (fun (o : List Lane) q =>
    match p.parts.find? (fun x => x.1 == q && x.2.1 == b) with
    | none => o
    | some x => List.zipWith add32 o x.2.2) (List.replicate n 0)
  (List.range (t.dims.getD 1 0 - n)).foldl (fun (a : List Lane × State) _ =>
    let v := a.2.free
    (a.1 ++ [BitVec.ofNat 32 v.1], v.2)) (out, s)

/-- The claim-broken status of an operation is counted in its core's archive status word (R329). -/
def countBroken (s : State) (f : Flight) (broken : Bool) : State :=
  if !broken || f.orphan then s
  else
    let k := hwinKey (dieOf f.core) (0xFF800 + 8 * (f.core % 80))
    commitBytes s k (leBytes 4 (min (s.word k 4 + 1) 0xFFFFFFFF))

/-- An operation of the units is over: it leaves their queues. -/
def leaveUnits (s : State) (op : Nat) : State := { s with units := s.units.filter (fun u => u.op != op) }

/-- All partials of an EMBAG are in: its entries are filled. -/
def finishPool (s : State) (f : Flight) (q : Nat) (seq : BitVec 32) (t : Shape) (n bags : Nat) (p : Pool) (broken : Bool) : State :=
  let r := (List.range bags).foldl (fun (a : List LqEntry × State) b =>
    match p.marks.find? (fun m => m.1 == b) with
    | some m => (a.1 ++ [markedEntry f q m.2], a.2)
    | none =>
      let l := bagLanes a.2 t n p b
      (a.1 ++ [{ data := some (vecOfLanes l.1) }], l.2)) ([], countBroken s f broken)
  leaveUnits ((fillLqs r.2 f.core q seq r.1).dropFlight f.id) f.id

/-- POOL_PARTIAL_RETURN: an EMBAG goes on at a chip. The die first reads the bag list and sends each chip its items. At a chip the
operation reaches the unit; the unit, whose first operation it is, claims the granule of its next row segment, then reads the segment and
folds the item; when all are folded the chip's partials return, and with the last chip's the die merges them (R159, R320–R322, R328). -/
def execPoolPartialReturn (u : UnitTurn) (s : State) : Host.Outcome State Fault Refusal :=
  match s.flight? u.op with
  | none => .next s
  | some f => match f.job with
    | .embag q seq t row col l first bags work broken lh =>
      let n := t.dims.getD 1 0 - col
      let go := fun (s : State) (p : Pool) =>
        if p.left.isEmpty then finishPool s f q seq t n bags p broken
        else s.putFlight { f with job := .embag q seq t row col l first bags (some p) broken lh }
      if !mayPerform s f then .next s
      else match work with
        | none =>
          match readBags s (s.coreAt f.core) t f.hnd row col l lh bags (l.innerDim + 1) first 0 { items := [], left := [] } with
          | .ok p => .next (go s { p with left := chipsIn (p.items.map (·.chip)) })
          | _ => .next s
        | some p =>
          if !p.left.contains u.part then .next s
          else .next (atHead s ⟨u.part, .pool, u.op⟩ (fun s => match p.mine u.part with
            | [] => go s { p with left := p.left.erase u.part }
            | i :: _ =>
              if p.claimed.contains u.part then go s (foldItem s t f.hnd n p i)
              else go (claim s u.op u.part (p.mine u.part).length [i.key]) { p with claimed := u.part :: p.claimed }))
    | _ => .next s

/-- VFMAX on FP32 bits (R177). -/
def max32 (a b : Lane) : Lane :=
  match pickMax (ofFp32 a) (ofFp32 b) with
  | none => 0x7FC00000
  | some true => a
  | some false => b

/-- RN32(exp(a − b)). -/
def expDiff (a b : Lane) : Lane := rn32 (Num.add 0 (ofFp32 a) (ofFp32 b).neg).exp

/-- One token of a pass: (acc, m, l) after it (R326). -/
def tokenStep (c : Lane) (query : List (BitVec 16)) (key value : List Lane) (a : List Lane × Lane × Lane) : List Lane × Lane × Lane :=
  let dotted := (List.zip query key).foldl (fun (t : Num) p =>
    Num.add 0 t (Num.mul (decodeFloat bf16 p.1.toNat) (ofFp32 p.2))) (.fin false 0 0 false)
  let sc := rn32 (Num.mul (ofFp32 c) dotted)
  let m2 := max32 a.2.1 sc
  let low := m2 == 0xFF800000
  let f : Lane := if low then 0x3F800000 else expDiff a.2.1 m2
  let p : Lane := if low then 0 else expDiff sc m2
  (List.zipWith (fun x v => add32 (mul32 x f) (mul32 p v)) a.1 value, m2, add32 (mul32 a.2.2 f) p)

/-- The tokens of a pass that a chip has still to take, in ascending order. -/
def Pass.mine (p : Pass) (q : Nat) : List PassToken := p.tokens.filter (fun t => t.chip == q)

/-- The partial of a chip so far: at its start acc and l are +0 and m is −∞ (R326). -/
def Pass.part (p : Pass) (q d : Nat) : List Lane × Lane × Lane :=
  ((p.parts.find? (fun x => x.1 == q)).map (·.2)).getD (List.replicate d 0, 0xFF800000, 0)

/-- Put the partial of a chip. -/
def Pass.putPart (p : Pass) (q : Nat) (v : List Lane × Lane × Lane) : Pass :=
  { p with parts := p.parts.filter (fun x => x.1 != q) ++ [(q, v)] }

/-- A chip takes its next token; an uncorrectable row is an error of the pass (R322, R326). -/
def takeToken (s : State) (c : Shape) (hnd : Word) (d : Nat) (scale : Lane) (query : List (BitVec 16)) (p : Pass) (t : PassToken) : Pass :=
  let w := d * elemBytes c.ty
  { p.putPart t.chip (tokenStep scale query (rowLanes s c.ty t.key d) (rowLanes s c.ty (t.key + w) d) (p.part t.chip d)) with
    tokens := p.tokens.erase t
    error := if rowBad s t.key (2 * w) t.chip then some (p.error.getD (archiveEcc t.va hnd)) else p.error }

/-- The die merges the partials in chip order (R160): the output, M and L. -/
def mergePass (d : Nat) (p : Pass) : List Lane × Lane × Lane :=
  match (List.range 12).filterMap (fun q => p.parts.find? (fun x => x.1 == q)) with
  | [] => (List.replicate d 0, 0, 0)
  | x :: rest =>
    let m := rest.foldl (fun (m : Lane) y => max32 m y.2.2.1) x.2.2.1
    let r := (x :: rest).foldl (fun (a : List Lane × Lane) y =>
      let f := expDiff y.2.2.1 m
      (List.zipWith (fun o z => add32 o (mul32 z f)) a.1 y.2.1, add32 a.2 (mul32 y.2.2.2 f))) (List.replicate d 0, 0)
    (r.1.map (fun o => rn32 (Num.div (ofFp32 o) (ofFp32 r.2))), m, r.2)

/-- A KVATT is over: its entries are filled, or all marked (R160, R326). -/
def finishPass (s : State) (f : Flight) (q : Nat) (seq : BitVec 32) (d : Nat) (p : Pass) (broken : Bool) : State :=
  let n := (d + 63) / 64 + 1
  let es := match p.error with
    | some t => List.replicate n (markedEntry f q t)
    | none =>
      let r := mergePass d p
      (List.range (n - 1)).map (fun i => { data := some (vecOfLanes ((r.1.drop (64 * i)).take 64)) }) ++
        [{ data := some (vecOfLanes [r.2.1, r.2.2]) }]
  leaveUnits ((fillLqs (countBroken s f broken) f.core q seq es).dropFlight f.id) f.id

/-- ATTENTION_PARTIAL_RETURN: a KVATT goes on at a chip. The die first reads the entries of the block table and sends each chip its
tokens. At a chip the operation reaches the unit; the unit, whose first operation it is, claims every granule of its tokens and starts its
pass, takes them one by one, and then sends the partial; with the last chip's the die merges them (R160, R320, R326, R328). -/
def execAttentionPartialReturn (u : UnitTurn) (s : State) : Host.Outcome State Fault Refusal :=
  match s.flight? u.op with
  | none => .next s
  | some f => match f.job with
    | .kvatt q seq c l first n scale query work broken lh =>
      let d := c.dims.getD 1 0 / 2
      let go := fun (s : State) (p : Pass) =>
        if p.left.isEmpty then finishPass s f q seq d p broken
        else s.putFlight { f with job := .kvatt q seq c l first n scale query (some p) broken lh }
      if !mayPerform s f then .next s
      else match work with
        | none =>
          match readTokens s (s.coreAt f.core) c f.hnd l lh first n 0 { tokens := [], left := [] } with
          | .ok p => .next (go s { p with left := if p.error.isSome then [] else chipsIn (p.tokens.map (·.chip)) })
          | _ => .next s
        | some p =>
          if !p.left.contains u.part then .next s
          else .next (atHead s ⟨u.part, .attention, u.op⟩ (fun s =>
            if p.parts.any (fun x => x.1 == u.part) then match p.mine u.part with
              | [] => go s { p with left := p.left.erase u.part }
              | t :: _ => go s (takeToken s c f.hnd d scale query p t)
            else go (claim s u.op u.part 0 ((p.mine u.part).map (·.key))) (p.putPart u.part (p.part u.part d))))
    | _ => .next s

/-- An uncorrectable error in a partial that has not yet returned marks the bag of an EMBAG, or is an error of the pass of a KVATT
(R322, R326); the address that its record names is free (DESIGN CHOICE, log 4). -/
def strikePartial (s : State) (op chip bag : Nat) : State :=
  match s.flight? op with
  | none => s
  | some f =>
    let v := s.free
    let e := archiveEcc v.1 f.hnd
    match f.job with
    | .embag q seq t row col l first bags (some p) broken lh =>
      if p.left.contains chip && p.parts.any (fun x => x.1 == chip && x.2.1 == bag) then
        v.2.putFlight { f with job := .embag q seq t row col l first bags (some (p.mark bag e)) broken lh }
      else s
    | .kvatt q seq c l first n scale query (some p) broken lh =>
      if p.left.contains chip && p.parts.any (fun x => x.1 == chip) then
        v.2.putFlight { f with job := .kvatt q seq c l first n scale query (some { p with error := some (p.error.getD e) }) broken lh }
      else s
    | _ => s

end Sys2Proof.Machine
end

