-- ==== Sys2Proof/Machine/Fabric.lean ====
section
/-! DEFINITION. PUT, GET and the remote atomics, and what they do at their destination (R162, R163, R328, R363). -/
namespace Sys2Proof.Machine

/-! ### Sending -/

/-- PROGRAM_ADDRESS for a destination without a route that is up (R363): thnd names the device. -/
def noRoute (f : Flight) (va : Nat) (write : Bool) : TrapInfo :=
  { cause := .programAddress, addr := BitVec.ofNat 64 va, hnd := f.hnd, aux0 := BitVec.ofInt 64 ((va : Int) - (f.va : Int)),
    aux1 := if write then 512 else 0 }

/-- The device that thnd names (R286). -/
def deviceOf (hnd : Word) : Nat := bits hnd 32 14

/-- The export table of this device: its valid entries for NEAR and ARCH (R362); one that cannot be read is not valid (DESIGN CHOICE,
log 236). -/
def exportTable (s : State) : List (Nat × Xlat) :=
  (List.range 256).filterMap (fun i => match parseXlat s.ret0 s.ret1 (s.bytes (hwinKey 0 (0xE0000 + 32 * i)) 32) with
    | some (true, e) => if (e.space = 2 ∨ e.space = 3) ∧ !s.poisoned (hwinKey 0 (0xE0000 + 32 * i)) 32 then some (i, e) else none
    | _ => none)

/-- The places of this device that some virtual ranges name through its export table (R363). -/
def exported (s : State) (l : List (Nat × Nat)) : List (Nat × Nat) :=
  (segsOf 0 true (l.flatMap (fun r => piecesOf (exportTable s) r.1 r.2))).map (fun g => (g.key, g.len))

/-- The bytes of a PUT at an address, one packet for each payload. -/
def putChunks (cap va : Nat) (data : List Byte) : List (Nat × List Byte) :=
  (chunks data.length cap data).zipIdx.map (fun p => (va + cap * p.2, p.1))

/-- The packets of a PUT; with `last` the last of them ends it. -/
def putAsks (last : Bool) : List (Nat × List Byte) → List (Nat × Nat × RemoteAsk)
  | [] => []
  | [c] => [(c.1, c.2.length, .put [c] last)]
  | c :: r => (c.1, c.2.length, .put [c] false) :: putAsks last r

/-- The parts of a range for requests of at most `cap` bytes: no 32-byte sector is cut (R243). The first argument bounds the parts. -/
def alignedParts (cap : Nat) : Nat → Nat → Nat → List (Nat × Nat)
  | 0, _, _ => []
  | fuel + 1, va, len =>
    if len = 0 then []
    else let n := min len (cap - va % 32); (va, n) :: alignedParts cap fuel (va + n) (len - n)

/-- Join parts whose neighbours lie in one sector, within the payload of one answer. -/
def joinParts (cap : Nat) : List (Nat × Nat) → List (List (Nat × Nat))
  | [] => []
  | p :: r => match joinParts cap r with
    | (q :: qs) :: gs =>
      if (p.1 + p.2 - 1) / 32 = q.1 / 32 ∧ p.2 + ((q :: qs).map (·.2)).sum ≤ cap then (p :: q :: qs) :: gs else [p] :: (q :: qs) :: gs
    | gs => [p] :: gs

/-- The requests of a GET of some ranges. -/
def getAsks (cap : Nat) (l : List (Nat × Nat)) : List (Nat × Nat × RemoteAsk) :=
  (joinParts cap (l.flatMap (fun r => alignedParts cap (r.2 + 1) r.1 r.2))).map (fun g =>
    (((g.head?).map (·.1)).getD 0, (g.map (·.2)).sum, .get g))

/-- Send accesses of an operation to a device, each with its address and bytes; the sizes that were sent, and the address of the
first that could not be. -/
def sendAsks (s : State) (d core op : Nat) : List (Nat × Nat × RemoteAsk) → State × List Nat × Option Nat
  | [] => (s, [], none)
  | (va, n, a) :: r => match sendPacket s d (.access s.devid core op a) with
    | none => (s, [], some va)
    | some t => let q := sendAsks t d core op r; (q.1, n :: q.2.1, q.2.2)

/-- A PUT, GET or remote atomic without anything outstanding is over: its bytes are added to its token (R144). -/
def endFabric (s : State) (f : Flight) : State :=
  match f.job with
  | .put [] w => if f.todo.isEmpty then endFlight (addToken s f.core f.reg w) f else s
  | _ => s

/-- Tell the destination of a PUT that nothing more of it comes, if it has been sent anything (R39, R128). -/
def closePut (s : State) (f : Flight) : State :=
  match f.job with
  | .put (_ :: _) _ => (sendPacket s (deviceOf f.hnd) (.access s.devid f.core f.id (.put [] true))).getD s
  | _ => s

/-- A PUT reads and sends the bytes of some segments, whose keys name the remote places (R162). What follows an uncorrectable
byte is not sent (R128). With nothing left to send, the last packet ends it. -/
def sendPut (s : State) (f : Flight) (l : List Seg) : State × Flight :=
  match f.job with
  | .put answers w =>
    let srcs := sourcesOf l
    let n := cleanBytes s srcs
    let bad := decide (n < segBytes srcs)
    let d := deviceOf f.hnd
    let cs := (takeSegs n l).flatMap (fun g => putChunks (s.payloadTo d) (g.key - remoteKey 0) (g.bytesOf s))
    let r := sendAsks s d f.core f.id (putAsks (bad || f.todo.isEmpty) cs)
    let g := { f with job := .put (if r.2.1.isEmpty then answers else [answers.sum + r.2.1.sum]) w }
    match r.2.2 with
    | some va => (r.1, { g with job := .put [] w, error := some (f.error.getD (noRoute f va true)), todo := [] })
    | none =>
      if bad then (if cs.isEmpty then closePut r.1 g else r.1,
        { g with error := some (f.error.getD (eccAt f ((srcs.head?.map (·.key)).getD 0))), todo := [] })
      else (r.1, g)
  | _ => (s, f)

/-- The cycle from which the answers to an access to a device can be there: two cut-throughs of 64 cycles (R50). -/
def answerFrom (s : State) (d : Nat) : Nat := if d = s.devid then s.now else s.now + 128

/-- Something of an operation goes out now: the link that carries it, and from when its answers can be there (R50, R363). -/
def Flight.sentNow (f : Flight) (s : State) : Flight :=
  { f with links := (f.links ++ (linkTo s (deviceOf f.hnd)).toList).eraseDups, ready := max f.ready (answerFrom s (deviceOf f.hnd)) }

/-- A core has still to send of an operation to a device that it issued before another: that one must not overtake it (R162). -/
def unsentBefore (s : State) (f : Flight) : Bool :=
  s.flights.any (fun g => decide (g.id < f.id) && g.core == f.core && deviceOf g.hnd == deviceOf f.hnd &&
    (g.unsent.isSome || (!g.todo.isEmpty && (match g.job with | .put _ _ => true | _ => false))))

/-- An operation that has been held back may go out: what it must follow is over, and nothing of its core to the same device is
still to be sent before it (R130, R162, R226). -/
def sendMay (s : State) (f : Flight) : Bool := f.unsent.isSome && (s.still f.after).isEmpty && !unsentBefore s f

/-- An operation goes out (R162, R163): a PUT reads its bytes now, but for those in host memory, whose requests begin; a remote atomic
makes its release. Without a route the error is deferred (R363). -/
def sendOut (s : State) (f : Flight) : State :=
  let g := { f with unsent := none }
  match f.unsent, f.job with
  | some (.put _ _), .put _ _ =>
    if f.atHost then s.putFlight g
    else let p := sendPut s { g.sentNow s with todo := [] } f.todo; endFabric (p.1.putFlight p.2) p.2
  | some (.get l), .get _ w =>
    let d := deviceOf f.hnd
    let r := sendAsks s d f.core f.id (getAsks (s.payloadTo d) l)
    r.1.putFlight { g.sentNow s with
      job := .get r.2.1 w, error := r.2.2.map (fun va => noRoute f va false), todo := takeSegs r.2.1.sum f.todo }
  | some (.atomic op ty va v x back), .remoteAtomic _ =>
    let r := releaseOf s (g.sentNow s)
    let q := sendAsks r.1 (deviceOf f.hnd) f.core f.id [(va, elemBytes ty, .atomic op ty va v x back)]
    match q.2.2 with
    | none => q.1.putFlight r.2
    | some va => endFlight (spoilReg q.1 r.2 ty) { r.2 with error := some (noRoute f va true) }
  | _, _ => s

/-- An operation goes out if it may. -/
def sendIf (s : State) (id : Nat) : State :=
  match s.flight? id with
  | none => s
  | some f => if sendMay s f then sendOut s f else s

/-- Every operation that has been held back and now may goes out, in the order of issue (R162). -/
def sendHeld (s : State) : State :=
  if s.flights.any (fun f => f.unsent.isSome) then s.flights.foldl (fun t f => sendIf t f.id) s else s

/-- A fabric operation issues: it goes out at once, or is held back until it may. -/
def issueFabric (s : State) (f : Flight) : State := sendIf (s.begin f) s.nextId

/-! ### Issue -/

/-- The places of rows of a REMOTE object. -/
def remoteSegs (l : List Span) : List Seg := l.map (fun sp => { key := remoteKey sp.va, len := sp.len })

/-- Check 4 on the operands of PUT or GET: exactly the far side is REMOTE (R162). -/
def fabricRefused (rows put : Bool) (d q : Shape) (n : Nat) : Bool :=
  (d.space == 4) != put || (q.space == 4) != !put || !d.plain || !q.plain || decide (2 ^ 40 ≤ n) ||
    (rows && (decide (d.rank < 2) || decide (q.rank < 2)))

/-- PUT, GET and the strided forms (R162): `rows` for the strided ones. Check 5 goes to the source, then to the destination (DESIGN CHOICE, log 123). A PUT reads and sends once nothing holds it back (R130);
only the scope `.fab` covers them (R229). -/
def fabricCopy (opcode : Nat) (rows put : Bool) (y : BitVec 4) (tok : ShortReg) (hd : Handle) (dcf : ShortReg) (hs : Handle)
    (scf len : ShortReg) (wd : BitVec 16) (s : State) : Host.Outcome State Fault Refusal :=
  issue .A y s (fun s =>
    match named2 s hd dcf.val hs scf.val with
    | .error t => .raise t
    | .ok (od, os) =>
      withRegs s (coordRegs dcf.val od.rank ++ coordRegs scf.val os.rank ++ (if rows then [len.val, len.val + 1] else [len.val])) []
        (withToken s tok.val (
          let d := operandAt s hd dcf.val od
          let q := operandAt s hs scf.val os
          let w := (s.ra (Fin.ofNat 32 len.val)).toNat
          let h := if rows then (s.ra (Fin.ofNat 32 (len.val + 1))).toNat else 1
          let reads := rowSpans q w h false
          let writes := rowSpans d w h true
          let far := if put then d else q
          if fabricRefused rows put od os (w * h) then .raise (illegal .A s)
          else if !os.inBounds q.crd 1 || !inFootprint q w h then .raise (q.outOfBounds false)
          else if !od.inBounds d.crd 1 || !inFootprint d w h then .raise (d.outOfBounds true)
          else (checkSpans s [if put then q else d] (if put then reads else writes)).act s (fun _ =>
            if w * h = 0 then .retire (startToken s tok)
            else if 128 ≤ copySlots s then .block s (.copySlot opcode)
            else
              let src := if put then segsOfSpans s reads else remoteSegs reads
              let dst := if put then remoteSegs writes else segsOfSpans s writes
              .retire (issueFabric (startToken s tok) { aFlight s (if put then .put [] 0 else .get [] 0) with
                expires := some (s.now + boundCycles wd), write := !put, spaces := [4], after := engineAfter s 0 0 [4]
                dups := if put then [] else dupsOf s writes, held := heldOf (if put then src else dst), reg := tokenReg tok
                hnd := hndWord far.hnd (some far.obj), va := far.obj.base, todo := zipSegs (dst.length + src.length) dst src
                unsent := some (if put then .put [] true else .get (reads.map (fun sp => (sp.va, sp.len))))
                far := if put && far.obj.dev == s.devid then exported s (writes.map (fun sp => (sp.va, sp.len))) else [] })))))

/-- PUT (R162). -/
def execAPut (y : BitVec 4) (tok : ShortReg) (hd : Handle) (dcf : ShortReg) (hs : Handle) (scf len : ShortReg) (wd : BitVec 16) (s : State) :
    Host.Outcome State Fault Refusal := fabricCopy 0x80 false true y tok hd dcf hs scf len wd s

/-- PUT2D (R162). -/
def execAPut2d (y : BitVec 4) (tok : ShortReg) (hd : Handle) (dcf : ShortReg) (hs : Handle) (scf len : ShortReg) (wd : BitVec 16) (s : State) :
    Host.Outcome State Fault Refusal := fabricCopy 0x81 true true y tok hd dcf hs scf len wd s

/-- GET (R162). -/
def execAGet (y : BitVec 4) (tok : ShortReg) (hd : Handle) (dcf : ShortReg) (hs : Handle) (scf len : ShortReg) (wd : BitVec 16) (s : State) :
    Host.Outcome State Fault Refusal := fabricCopy 0x82 false false y tok hd dcf hs scf len wd s

/-- GET2D (R162). -/
def execAGet2d (y : BitVec 4) (tok : ShortReg) (hd : Handle) (dcf : ShortReg) (hs : Handle) (scf len : ShortReg) (wd : BitVec 16) (s : State) :
    Host.Outcome State Fault Refusal := fabricCopy 0x83 true false y tok hd dcf hs scf len wd s

/-- RADD, RFADD and RCAS (R163): `d` is the register of a returning one. -/
def remoteAtomic (op : AtomOp) (y : BitVec 4) (d : Option Reg) (h : Handle) (cf b x : Reg) (ty : ElemCode) (o sc : BitVec 2) (s : State) :
    Host.Outcome State Fault Refusal :=
  issue .A y s (fun s => operand s h cf.val [b.val, x.val] (d.map (·.val)).toList (fun p =>
    if p.obj.space ≠ 4 ∨ elemBits p.obj.ty ≠ elemBits ty then .raise (illegal .A s)
    else if !p.obj.inBounds p.crd 1 then .raise (p.outOfBounds true)
    else .retire (issueFabric s { aFlight s (.remoteAtomic ty) with
      ord := o, sco := sc, after := engineAfter s o sc [4], write := true, spaces := [4], reg := d.bind destReg
      hnd := hndWord p.hnd (some p.obj), va := p.obj.base
      unsent := some (.atomic op ty p.va (narrowTo ty (s.ra b)) (narrowTo ty (s.ra x)) d.isSome)
      far := if p.obj.dev == s.devid then exported s [(p.va, elemBytes ty)] else [] })))

/-- RADD (R163). -/
def execARadd (y : BitVec 4) (h : Handle) (cf b : Reg) (ty : ElemCode) (s : State) : Host.Outcome State Fault Refusal :=
  remoteAtomic .add y none h cf b 0 ty 0 2 s

/-- RFADD (R163). -/
def execARfadd (y : BitVec 4) (d : Reg) (h : Handle) (cf b : Reg) (ty : ElemCode) (s : State) : Host.Outcome State Fault Refusal :=
  remoteAtomic .add y (some d) h cf b 0 ty 0 2 s

/-- RCAS (R163). -/
def execARcas (y : BitVec 4) (d : Reg) (h : Handle) (cf b x : Reg) (ty : ElemCode) (o sc : BitVec 2) (s : State) :
    Host.Outcome State Fault Refusal := remoteAtomic .cas y (some d) h cf b x ty o sc s

/-! ### At the destination (R363) -/

/-- What checks 6 to 8 of R126 find in the parts of an access, in their order. -/
def exportFault (ps : List Piece) (write : Bool) : Option TrapInfo :=
  let trap := fun (c : Cause) (p : Piece) =>
    ({ cause := c, addr := BitVec.ofNat 64 p.va, aux1 := (pieceAux p write).1, aux2 := (pieceAux p write).2 } : TrapInfo)
  let find := fun (c : Cause) (t : Xlat → Bool) => (ps.find? (fun p => match p.entry with | none => false | some e => t e.2)).map (trap c)
  match ps.find? (fun p => p.entry.isNone) with
  | some p => some (trap .programAddress p)
  | none => match find .pageAbsent (fun e => decide (e.state = .absent) || decide (e.state = .migratingOut)) with
    | some t => some t
    | none => find .permission (fun e => if write then !e.w else !e.r)

/-- The core number that flights of arriving accesses carry: no core of the module. -/
def noCore : Nat := 1000000

/-- A flight for an access that has arrived. -/
def arrived (src core op : Nat) (job : Job) : Flight := { id := 0, core := noCore, job := job, write := true, origin := some (src, core, op) }

/-- The ranges that an access names, and whether it writes. -/
def RemoteAsk.ranges : RemoteAsk → List (Nat × Nat) × Bool
  | .put l _ => (l.map (fun p => (p.1, p.2.length)), true)
  | .get l => (l, false)
  | .atomic _ ty a _ _ _ => ([(a, elemBytes ty)], true)

/-- The bytes read for a GET go back in answers of at most a frame's payload each (R361). -/
def sendData (s : State) (src op : Nat) (data : List Byte) : State :=
  if data.isEmpty then sendAnswer s src (.answer op true [] none)
  else (chunks data.length (s.payloadTo src) data).foldl (fun t c => sendAnswer t src (.answer op true c none)) s

/-- Perform an access that has arrived, or begin it; none while a page of it is migrating in (R309, R363). A reduction of an element in a
claimed granule waits behind the claim, since the cycle given (R328). -/
def performAsk (s : State) (since src core op : Nat) (ask : RemoteAsk) : Option State :=
  let table := exportTable s
  let ps := ask.ranges.1.flatMap (fun r => piecesOf table r.1 r.2)
  let segs := segsOf 0 ask.ranges.2 ps
  let dups := ps.filterMap (fun p => match p.entry with
    | some (_, e) => if e.rdup && ask.ranges.2 then some (e.space, e.phys, e.size) else none
    | none => none)
  match exportFault ps ask.ranges.2 with
  | some t => some (sendAnswer s src (.answer op false [] (some t)))
  | none =>
    if ps.any (fun p => match p.entry with | some (_, e) => decide (e.state = .migratingIn) | none => false) then none
    else match ask with
      | .put l _ =>
        if segBytes segs = 0 then some (sendAnswer s src (.answer op true [] none))
        else some (s.begin { arrived src core op .store with
          spaces := [2, 3], dups := dups, held := heldOf segs, todo := fillSegs segs (l.flatMap (·.2)) })
      | .get _ =>
        match segs.find? (fun g => s.poisoned g.key g.len) with
        | some g => some (sendAnswer s src (.answer op false [] (some { cause := .eccUncorrectable, aux0 := eccUnit g.key })))
        | none => some (sendData s src op (segs.flatMap (fun g => s.bytes g.key g.len)))
      | .atomic o ty _ v x _ =>
        let key := ((segs.head?).map (·.key)).getD 0
        let claim := s.claims.find? (fun c => spaceOfKey key == 3 && c.chip == chipOf key && c.granules.contains (key / 1024))
        match claim with
        | some c => some { s with claims := s.claims.map (fun (q : Claim) =>
            if q.id = c.id then { q with waiting := q.waiting ++ [⟨since, src, core, op, ask⟩] } else q) }
        | none => some (s.begin { arrived src core op (.atomic o ty [⟨key, v, x⟩] none) with
            spaces := [2, 3], dups := dups, held := [] })

/-- An access of a core of a device has not yet been answered. -/
def stillServing (s : State) (src core : Nat) : Bool :=
  s.flights.any (fun f => match f.origin with | some o => o.1 == src && o.2.1 == core | none => false) ||
    s.claims.any (fun c => c.waiting.any (fun w => w.src == src && w.core == core))

/-- The first packet of a kind among some, and the others. -/
def takePacket (p : Packet → Bool) : List Packet → Option (Packet × List Packet)
  | [] => none
  | x :: r => if p x then some (x, r) else (takePacket p r).map (fun q => (q.1, x :: q.2))

/-- The next access that may be performed: accesses of one core go in the order it issued them (R162). -/
def nextAccess (s : State) : Option (Packet × List Packet) :=
  takePacket (fun p => match p with | .access src core _ _ => !stillServing s src core | _ => false) s.inbox

/-- The bytes of a PUT that have arrived so far. -/
def gathered (s : State) (src core op : Nat) : List (Nat × List Byte) :=
  ((s.gathering.find? (fun g => g.src == src && g.core == core && g.op == op)).map (·.segs)).getD []

/-- What a PUT that was still arriving had brought is no longer kept. -/
def State.endGather (s : State) (src core op : Nat) : State :=
  { s with gathering := s.gathering.filter (fun g => !(g.src == src && g.core == core && g.op == op)) }

/-- The next access takes effect: a packet of a PUT joins those before it, and with its last the PUT is performed as one operation; where
the core has gone on to another operation, what came of its last PUT is performed first (R162, R208, R363). -/
def takeAccess (s : State) (src core op : Nat) (ask : RemoteAsk) (rest : List Packet) : Option State :=
  match s.gathering.find? (fun g => g.src == src && g.core == core && g.op != op) with
  | some g => performAsk (s.endGather src core g.op) s.now src core g.op (.put g.segs true)
  | none =>
    let t := { s with inbox := rest }
    match ask with
    | .put l last =>
      let all := gathered s src core op ++ l
      if last then performAsk (t.endGather src core op) s.now src core op (.put all true)
      else some { t.endGather src core op with gathering := (t.endGather src core op).gathering ++ [⟨src, core, op, all⟩] }
    | a => performAsk t s.now src core op a

/-- REMOTE_ACCESS_ARRIVAL: an access is checked against the export table and performed (R363). -/
def execRemoteAccessArrival (s : State) : Host.Outcome State Fault Refusal :=
  match nextAccess s with
  | some (.access src core op ask, rest) => .next ((takeAccess s src core op ask rest).getD s)
  | _ => .next s

/-! ### Claims (R328) -/

/-- Whether the unit of a claim is done: the row segment is read, or the chip's partial has been sent. -/
def claimOver (s : State) (c : Claim) : Bool :=
  match s.flight? c.op with
  | none => true
  | some f => match f.job with
    | .embag _ _ _ _ _ _ _ _ (some p) _ _ => !p.left.contains c.chip || decide ((p.mine c.chip).length < c.due)
    | .kvatt _ _ _ _ _ _ _ _ (some p) _ _ => !p.left.contains c.chip
    | _ => false

/-- A reduction has waited 50 µs (R328). -/
def Waiting.overdue (w : Waiting) (now : Nat) : Bool := decide (w.since + 42500 ≤ now)

/-- The reductions that waited on a claim are applied, in arrival order: each takes its place in the queue of the chip's unit, or waits on
another claim; one that has waited 50 µs is applied at once, if nothing but a place in the queue holds it back (R328). Those whose page is
now migrating in wait as arrivals do. -/
def applyWaiting : State → List Waiting → State × List Packet
  | s, [] => (s, [])
  | s, w :: r =>
    match performAsk s w.since w.src w.core w.op w.ask with
    | none => let q := applyWaiting s r; (q.1, .access w.src w.core w.op w.ask :: q.2)
    | some t =>
      applyWaiting (match t.flight? s.nextId with
        | none => t
        | some f => match f.job.elems with
          | e :: rest =>
            if spaceOfKey e.key ≠ 3 then t
            else if w.overdue s.now && mayPerform t f && decide (pendingEchoes t (chipOf e.key) < 512) then updateElem t f e rest
            else joinUnit t ⟨chipOf e.key, .atomic, f.id⟩
          | [] => t) r

/-- Claims end: the reductions that waited on them are applied. -/
def endClaims (s : State) (ids : List Nat) : State :=
  let q := applyWaiting { s with claims := s.claims.filter (fun c => !ids.contains c.id) }
    ((s.claims.filter (fun c => ids.contains c.id)).flatMap (·.waiting))
  { q.1 with inbox := q.2 ++ q.1.inbox }

/-- CLAIM_END: a claim's unit is done (R328). -/
def execClaimEnd (claim : Nat) (s : State) : Host.Outcome State Fault Refusal :=
  match s.claims.find? (fun c => c.id == claim) with
  | none => .next s
  | some c => .next (if claimOver s c then endClaims s [c.id] else s)

/-- An operation of the units carries claim-broken status. -/
def Job.breakClaim : Job → Job
  | .embag q n t r c l f b w _ h => .embag q n t r c l f b w true h
  | .kvatt q n c t f k sc qs w _ h => .kvatt q n c t f k sc qs w true h
  | j => j

/-- The chip and granule of the element that an access of another device names, through the export table. -/
def askGranule (s : State) (ask : RemoteAsk) : Option (Nat × Nat) :=
  ((exported s ask.ranges.1).head?).bind (fun p => if spaceOfKey p.1 = 3 then some (chipOf p.1, p.1 / 1024) else none)

/-- The claims that end where reductions of one claim have waited 50 µs: it, and every other on their granules (R328). -/
def overdueClaims (s : State) (c : Claim) : List Nat :=
  let gs := (c.waiting.filter (fun w => w.overdue s.now)).filterMap (fun w => askGranule s w.ask)
  (s.claims.filter (fun q => q.id == c.id || gs.any (fun g => q.chip == g.1 && q.granules.contains g.2))).map (·.id)

/-- CLAIM_TIMEOUT: a reduction has waited 42,500 cycles: it is applied at once, every claim on its granule is broken, and the operations
that held them carry claim-broken status (R328). -/
def execClaimTimeout (claim op : Nat) (s : State) : Host.Outcome State Fault Refusal :=
  match s.claims.find? (fun c => c.id == claim) with
  | none => .next s
  | some c =>
    if c.waiting.any (fun w => w.op == op && w.overdue s.now) then
      let ids := overdueClaims s c
      let ops := (s.claims.filter (fun q => ids.contains q.id)).map (·.op)
      .next (endClaims { s with flights := s.flights.map (fun f => if ops.contains f.id then { f with job := f.job.breakClaim } else f) } ids)
    else .next s

/-! ### Answers (R128, R162, R163) -/

/-- Give bytes that have arrived to the first segments of a GET that wait for theirs. -/
def arriveSegs (l : List Seg) (n : Nat) (d : List Byte) : List Seg :=
  let ready := l.takeWhile (fun g => g.src.isNone)
  let rest := l.drop ready.length
  let now := takeSegs n rest
  let later := (rest.foldl (fun (a : Nat × List Seg) g =>
    if a.1 = 0 then (0, a.2 ++ [g])
    else if g.len ≤ a.1 then (a.1 - g.len, a.2)
    else match g.cut a.1 with | (_, some t) => (0, a.2 ++ [t]) | (_, none) => (0, a.2)) (n, [])).2
  ready ++ (fillSegs now d).map (fun g => { g with src := none }) ++ later

/-- An error that a destination reports, with the issuing object's handle and offset (R286, R287). -/
def returned (f : Flight) (t : TrapInfo) : TrapInfo :=
  { t with hnd := f.hnd, aux0 := if t.cause = .eccUncorrectable then t.aux0 else BitVec.ofInt 64 ((t.addr.toNat : Int) - (f.va : Int)) }

/-- What an answer leaves of a GET: the bytes that it brings, which may be a part of those asked for, wait to be written; after a part that
could not be read nothing further is written (R128). -/
def takeGet (answers : List Nat) (todo : List Seg) (done : Bool) (data : List Byte) : List Nat × List Seg :=
  match answers with
  | [] => ([], todo)
  | n :: rest =>
    if !done then (rest, todo.takeWhile (fun g => g.src.isNone))
    else
      let m := if data.isEmpty then n else min n data.length
      (if m < n then (n - m) :: rest else rest, arriveSegs todo m data)

/-- An answer to an operation of this device; `done` where its destination has performed what was asked (R144, R215). A remote atomic at
another device acquires as its answer comes; one at this device has acquired as it committed (R232). -/
def takeAnswer (s : State) (f : Flight) (done : Bool) (data : List Byte) (err : Option TrapInfo) : State :=
  let e := match f.error with | some e => some e | none => err.map (returned f)
  match f.job with
  | .put (n :: rest) w =>
    let f := { f with job := .put rest (if done then w + n else w), error := e, links := if rest.isEmpty then [] else f.links }
    endFabric (s.putFlight f) f
  | .get answers w =>
    let r := takeGet answers f.todo done data
    s.putFlight { f with job := .get r.1 w, error := e, todo := r.2 }
  | .remoteAtomic ty =>
    let s := if done && deviceOf f.hnd != s.devid then acquireOf s f else s
    endFlight (if data.isEmpty then spoilReg s f ty else setAddr s f.core f.reg (registerOfElem ty (leNat data))) { f with error := e }
  | _ => s

/-- The collective whose packet to a device is acknowledged. -/
def ackedColl (s : State) (src session group num : Nat) : Option Flight :=
  s.flights.find? (fun f => match f.job with
    | .collective c => c.group == group && c.num == num && c.session == session && c.unacked.any (fun u => u.1 == src)
    | _ => false)

/-- A collective's packet to a device has been acknowledged; one that has written its result is then over (R163). -/
def takeAccepted (s : State) (src session group num : Nat) : State :=
  match ackedColl s src session group num with
  | none => s
  | some f => match f.job with
    | .collective c =>
      let c := { c with unacked := c.unacked.eraseP (fun u => u.1 == src) }
      if c.pieces.isEmpty && c.unacked.isEmpty then s.dropFlight f.id else s.putFlight { f with job := .collective c }
    | _ => s

/-- An answer or an acknowledgement that can take effect: of what went to another device, not before its two cut-throughs (R50). -/
def ackReady (s : State) (p : Packet) : Bool :=
  match p with
  | .answer op _ _ _ => (match s.flight? op with | none => true | some f => decide (f.ready ≤ s.now))
  | .accepted src session group num => (match ackedColl s src session group num with
      | none => true
      | some f => src == s.devid || decide (f.issued + 128 ≤ s.now))
  | _ => false

/-- FABRIC_ACK: the next answer or acknowledgement takes effect (R162, R163, R347). -/
def execFabricAck (s : State) : Host.Outcome State Fault Refusal :=
  match takePacket (ackReady s) s.inbox with
  | some (.answer op done data err, rest) =>
    let s := { s with inbox := rest }
    .next (match s.flight? op with | none => s | some f => takeAnswer s f done data err)
  | some (.accepted src session group num, rest) => .next (takeAccepted { s with inbox := rest } src session group num)
  | _ => .next s

end Sys2Proof.Machine
end

