-- ==== Sys2Proof/Machine/Collective.lean ====
section
/-! DEFINITION. Collectives: their wire format, groups, issue, contributions and completion (R164, R344–R348, R364–R368). -/
namespace Sys2Proof.Machine

/-! ### The wire (R346, R367, R368) -/

/-- A power of two. -/
def twoTo (k : Int) : Num := .fin false 1 k false

/-- The magnitude by which R368 ranks an FP32 value: a NaN above every other. -/
def magnitude (x : Lane) : Nat := if (ofFp32 x).isNan then 2 ^ 31 else x.toNat % 2 ^ 31

/-- The positions of the `n` elements of largest magnitude, ascending; ties go to the lower position (R368). -/
def keptOf (n : Nat) (xs : List Lane) : List Nat :=
  let ms := xs.map magnitude
  (List.range xs.length).filter (fun i =>
    decide (((List.range xs.length).filter (fun j => decide (ms.getD i 0 < ms.getD j 0) || (ms.getD i 0 == ms.getD j 0 && decide (j < i)))).length < n))

/-- The exponent of the scale of R346: of the least power of two from 2^−133 to 2^127 that fits every finite element. -/
def wireScale (wire : ElemCode) (xs : List Lane) : Int :=
  let f := fmtOf wire
  let mx := decodeFloat f f.maxIdx
  let ys := (xs.map (fun x => ofFp32 (x &&& 0x7FFFFFFF))).filter (fun (y : Num) => match y with | .fin _ m _ _ => m != 0 | _ => false)
  if ys.isEmpty then 0
  else ((((List.range 261).map (fun (i : Nat) => Int.ofNat i - 133)).find? (fun k => ys.all (fun y => !((Num.mul mx (twoTo k)).below y)))).getD 127)

/-- A code of an element under a scale (R346). -/
def wireCode (wire : ElemCode) (k : Int) (x : Lane) : Nat := (convert (fmtOf wire) 0 0 (Num.mul (ofFp32 x) (twoTo (-k)))).getD 0

/-- The bytes of a run (R346, R368): its scale, its codes, its positions. -/
def encodeRun (wire : ElemCode) (spn : Nat) (xs : List Lane) : List Byte :=
  let ps := if spn = 0 then List.range xs.length else keptOf spn xs
  let vs := ps.map (fun i => xs.getD i 0)
  let k := if isBinary8 wire then wireScale wire vs else 0
  let out := (if isBinary8 wire then leBytes 2 ((convert bf16 0 0 (twoTo k)).getD 0) else []) ++
    vs.flatMap (fun x => leBytes (elemBytes wire) (wireCode wire k x))
  if spn = 0 then out
  else
    let out := out ++ leBytes ((5 * spn + 7) / 8) ((ps.zipIdx.map (fun p => p.1 * 2 ^ (5 * p.2))).sum)
    out ++ List.replicate ((4 - out.length % 4) % 4) 0

/-- Bytes of a run of `n` elements. -/
def runBytes (wire : ElemCode) (spn n : Nat) : Nat :=
  let sc := if isBinary8 wire then 2 else 0
  if spn = 0 then sc + n * elemBytes wire else (sc + spn * elemBytes wire + (5 * spn + 7) / 8 + 3) / 4 * 4

/-- The decoded elements of a run of `n` (R346, R368). -/
def decodeRun (wire : ElemCode) (spn n : Nat) (l : List Byte) : List Lane :=
  let sc := if isBinary8 wire then 2 else 0
  let w := elemBytes wire
  let kept := if spn = 0 then n else spn
  let s := if isBinary8 wire then decodeFloat bf16 (leNat (l.take 2)) else twoTo 0
  let vs := (List.range kept).map (fun i => rn32 (Num.mul (decodeFloat (fmtOf wire) (leNat ((l.drop (sc + i * w)).take w))) s))
  if spn = 0 then vs
  else
    let pos := leNat ((l.drop (sc + kept * w)).take ((5 * spn + 7) / 8))
    ((List.range kept).map (fun i => (pos / 2 ^ (5 * i) % 32, vs.getD i 0))).foldl (fun (out : List Lane) p => out.set p.1 p.2)
      (List.replicate n 0)

/-! ### What members send and take (R164, R367) -/

/-- The elements that member `i` takes of member `j`'s contribution: first, and how many. -/
def partOf (kind m e j i : Nat) : Nat × Nat :=
  match kind with
  | 0 => (0, e)
  | 1 => (i * (e / m), e / m)
  | 2 => (j * (e / m), e / m)
  | _ => (0, if j = 0 then e else 0)

/-- The runs of a contribution that a part of it meets, first and number of elements: run b is elements 32b to 32b + 31, and runs travel
whole (R346, R367; DEDUCED, log 110). -/
def runsOf (p : Nat × Nat) : List Nat :=
  if p.2 = 0 then [] else (List.range ((p.1 + p.2 + 31) / 32 - p.1 / 32)).map (· + p.1 / 32)

/-- Elements of run `b` of a contribution of `e` elements: only the last may have fewer than 32 (R367). -/
def runLen (e b : Nat) : Nat := min 32 (e - 32 * b)

/-- The part that a collective takes of a member. -/
def Coll.part (c : Coll) (j : Nat) : Nat × Nat := partOf c.kind c.m c.count j c.self

/-- The runs that a collective takes of a member. -/
def Coll.wants (c : Coll) (j : Nat) : List Nat := runsOf (c.part j)

/-- The members whose contributions a collective needs (R345). -/
def Coll.needs (c : Coll) : List Nat := if c.kind = 3 then [0] else List.range c.m

/-- A member's contribution has been accepted: every run of it has arrived (R367). -/
def Coll.accepted (c : Coll) (j : Nat) : Bool :=
  match c.parts.find? (fun p => p.sender == j) with
  | none => false
  | some p => (c.wants j).all (fun r => p.runs.any (fun q => q.1 == r))

/-- An element of an accepted contribution. -/
def Coll.elem (c : Coll) (j i : Nat) : Lane :=
  match c.parts.find? (fun p => p.sender == j) with
  | none => 0
  | some p => match p.runs.find? (fun q => q.1 == i / 32) with
    | none => 0
    | some q => q.2.getD (i % 32) 0

/-- Add runs of a member that have arrived. -/
def Coll.take (c : Coll) (j : Nat) (runs : List (Nat × List Lane)) : Coll :=
  if c.parts.any (fun p => p.sender == j) then
    { c with parts := c.parts.map (fun (p : Contribution) => if p.sender = j then
        { p with runs := p.runs ++ runs.filter (fun q => !p.runs.any (fun x => x.1 == q.1)) } else p) }
  else { c with parts := c.parts ++ [⟨j, runs⟩] }

/-! ### Groups and counters (R348, R364, R370) -/

/-- A group by its number. -/
def State.group? (s : State) (n : Nat) : Option Group := s.groups.find? (fun g => g.num == n)

/-- The first byte of a group's description. -/
def groupKey (n : Nat) : Nat := hwinKey 0 (0xC0000 + 32 * n)

/-- GSTATE (R364). -/
def GroupState.code : GroupState → Nat
  | .closed => 0
  | .opening => 1
  | .open => 2
  | .failed => 3

/-- The fields of a description that the device writes (R364). -/
inductive GroupField where
  | session | state | cause | next | low | self
  deriving DecidableEq, Repr

/-- Where a field stands: offset, bytes, value (R364). -/
def Group.field (g : Group) : GroupField → Nat × Nat × Nat
  | .session => (0x0C, 2, g.session)
  | .state => (0x0E, 1, g.state.code)
  | .cause => (0x0F, 1, g.cause)
  | .next => (0x10, 4, g.next)
  | .low => (0x14, 4, g.low)
  | .self => (0x18, 2, g.self)

/-- Replace a group, or put it. -/
def State.keepGroup (s : State) (g : Group) : State :=
  { s with groups := if s.groups.any (fun x => x.num == g.num) then s.groups.map (fun x => if x.num = g.num then g else x) else s.groups ++ [g] }

/-- Put a group, and write the fields that the device sets to its description (R364). -/
def putGroup (s : State) (g : Group) (l : List GroupField) : State :=
  l.foldl (fun (t : State) f => commitBytes t (groupKey g.num + (g.field f).1) (leBytes (g.field f).2.1 (g.field f).2.2)) (s.keepGroup g)

/-- A drop counter with one more, which holds at its greatest value (R348, R370). -/
def oneMore (n : Nat) : Nat := if n = 2 ^ 64 - 1 then n else n + 1

/-- Show a drop counter in die 0's HWIN. What others write there changes only what is read until it next counts (R348, R370). -/
def showDrops (s : State) (off n : Nat) : State := commitBytes s (hwinKey 0 off) (leBytes 8 n)

def countLatePacket (s : State) : State := showDrops { s with drops := { s.drops with late := oneMore s.drops.late } } 0xFFC00 (oneMore s.drops.late)
def countAhead (s : State) : State := showDrops { s with drops := { s.drops with ahead := oneMore s.drops.ahead } } 0xFFC08 (oneMore s.drops.ahead)
def countDup (s : State) : State := showDrops { s with drops := { s.drops with dup := oneMore s.drops.dup } } 0xFFC10 (oneMore s.drops.dup)
def countSess (s : State) : State := showDrops { s with drops := { s.drops with sess := oneMore s.drops.sess } } 0xFFC18 (oneMore s.drops.sess)
def countAuth (s : State) : State := showDrops { s with drops := { s.drops with auth := oneMore s.drops.auth } } 0xFFC20 (oneMore s.drops.auth)

/-- L advances past the numbers that have retired (R344). -/
def advanceLow : Nat → Nat → List Nat → Nat × List Nat
  | 0, low, l => (low, l)
  | n + 1, low, l => if l.contains low then advanceLow n (low + 1) (l.erase low) else (low, l)

/-- An operation of a group retires (R344). -/
def Group.retire (g : Group) (n : Nat) : Group :=
  let r := advanceLow (g.retired.length + 1) g.low (n :: g.retired)
  { g with low := r.1, retired := r.2 }

/-! ### Contributions (R347, R367) -/

/-- The live operation of a group with a number, in the group's session. -/
def liveColl (s : State) (g : Group) (num : Nat) : Option (Flight × Coll) :=
  s.flights.findSome? (fun f => match f.job with
    | .collective c => if c.group = g.num ∧ c.num = num ∧ c.session = g.session ∧ c.mask.isNone then some (f, c) else none
    | _ => none)

/-- Cut the bytes of `n` runs, from run `b` of a contribution on. -/
def cutRuns (c : Coll) : Nat → Nat → List Byte → List (Nat × List Lane)
  | 0, _, _ => []
  | n + 1, b, l =>
    let k := runBytes c.wire c.spn (runLen c.count b)
    (b, decodeRun c.wire c.spn (runLen c.count b) (l.take k)) :: cutRuns c n (b + 1) (l.drop k)

/-- A packet is one that this operation takes from its sender: wire type, SPN, runs and their bytes (R367). -/
def packetFits (c : Coll) (sender : Nat) (wire : ElemCode) (spn first runs : Nat) (data : List Byte) : Bool :=
  let rs := (List.range runs).map (· + first)
  wire == c.wire && spn == c.spn && decide (0 < runs) && rs.all (fun b => (c.wants sender).contains b) &&
    decide (data.length = (rs.map (fun b => runBytes c.wire c.spn (runLen c.count b))).sum)

/-- A contribution packet. -/
def Packet.contributes : Packet → Bool
  | .contribution _ _ _ _ _ _ _ _ _ _ _ _ => true
  | _ => false

/-- The operation number of a contribution packet. -/
def Packet.number : Packet → Nat
  | .contribution _ _ _ n _ _ _ _ _ _ _ _ => n
  | _ => 0

/-- Use a packet for a live operation, or drop it and count it. -/
def usePacket (s : State) (f : Flight) (c : Coll) (p : Packet) : State :=
  match p with
  | .contribution _ _ _ _ sender wire spn first runs _ data _ =>
    if !packetFits c sender wire spn first runs data then countAuth s
    else if c.accepted sender then countDup s
    else s.putFlight { f with job := .collective (c.take sender (cutRuns c runs first data)) }
  | _ => s

/-- Acknowledge a contribution packet (R347). -/
def acknowledge (s : State) (p : Packet) : State :=
  match p with
  | .contribution src session group num _ _ _ _ _ _ _ _ => sendAnswer s src (.accepted s.devid session group num)
  | _ => s

/-- The fate of a contribution packet that an open group's session has reached, before it is acknowledged (R347). No contribution to an
operation that has not issued is accepted yet, for which runs it must carry is judged at the issue (R367): every packet of it is
held (DEDUCED, log 219). -/
def packetFate (s : State) (g : Group) (p : Packet) : State :=
  match p with
  | .contribution _ session _ num sender wire spn first runs _ data whole =>
    if session ≠ g.session then countSess s
    else if !whole ∨ g.m ≤ sender ∨ spn ≠ g.spn then countAuth s
    else if num < g.low ∨ g.retired.contains num then countLatePacket s
    else if g.low + 255 < num then countAhead s
    else match liveColl s g num with
      | some (f, c) => if packetFits c sender wire spn first runs data then usePacket s f c p else countAuth s
      | none => s.keepGroup { g with held := g.held ++ [p] }
  | _ => s

/-- The fate of a contribution packet by the first row of R347 that applies; it is acknowledged once that is decided and counted. -/
def judgePacket (s : State) (p : Packet) : State :=
  match p with
  | .contribution _ _ group _ _ _ _ _ _ _ _ _ =>
    match s.group? group with
    | none => acknowledge (countSess s) p
    | some g =>
      if g.state = .closed ∨ g.state = .failed then acknowledge (countSess s) p
      else if g.state = .opening then s.keepGroup { g with held := g.held ++ [p] }
      else acknowledge (packetFate s g p) p
  | _ => s

/-- CONTRIBUTION_PACKET: the next contribution packet is accepted, held, or dropped and counted (R347). -/
def execContributionPacket (s : State) : Host.Outcome State Fault Refusal :=
  match takePacket Packet.contributes s.inbox with
  | some (p, rest) => .next (judgePacket { s with inbox := rest } p)
  | none => .next s

/-! ### Issue -/

/-- What check 4 refuses of a collective (R164, R364). While its group reopens after a session's last number it waits instead (R366;
DEDUCED, log 220). -/
def collectiveRefused (o : Shape) (kind : Nat) (dline : Bool) (wire : ElemCode) (b x : Nat) (g : Option Group) (e : Nat) : Bool :=
  match g with
  | none => true
  | some g =>
    decide (4096 ≤ b) || (g.state != .open && !g.reopens) || o.ty != 5 || o.rank != 1 || o.innerStride != 1 || !(o.space == 1 || o.space == 2) ||
      (dline && (x == 0 || decide (60000 < x))) ||
      (decide (0 < e) && (decide (2 ^ 24 < e) || ((isBinary8 wire || g.spn != 0) && e % 32 != 0) ||
        ((kind == 1 || kind == 2) && e % g.m != 0)))

/-- The lanes of a contribution as read at issue: an uncorrectable element is a free value (DESIGN CHOICE, log 4). -/
def readLanes (s : State) (l : List Seg) : List Lane × State :=
  let keys := l.flatMap (fun g => (List.range (g.len / 4)).map (fun i => g.key + 4 * i))
  keys.foldl (fun (a : List Lane × State) k =>
    if a.2.poisoned k 4 then let v := a.2.free; (a.1 ++ [BitVec.ofNat 32 v.1], v.2)
    else (a.1 ++ [BitVec.ofNat 32 (a.2.word k 4)], a.2)) ([], s)

/-- The packets of some runs, at most `k` runs to each: first run, runs, bytes. -/
def packRuns (k : Nat) (enc : Nat → List Byte) : Nat → List Nat → List (Nat × Nat × List Byte)
  | 0, _ => []
  | _, [] => []
  | fuel + 1, r :: rs =>
    let now := (r :: rs).take k
    (r, now.length, now.flatMap enc) :: packRuns k enc fuel ((r :: rs).drop k)

/-- Send a collective's packets to one member (R367): whole runs, each packet with the sender's next counter, `sent` of which have left
before; the error of a member without a route. -/
def sendPart (f : Flight) (c : Coll) (xs : List Lane) (sent : Nat) (a : State × Coll × Option TrapInfo) (dst : Nat × Nat) : State × Coll × Option TrapInfo :=
  let s := a.1
  let k := max 1 ((s.payloadTo dst.1 - 32) / runBytes c.wire c.spn 32)
  let rs := runsOf (partOf c.kind c.m c.count c.self dst.2)
  let enc := fun (b : Nat) => encodeRun c.wire c.spn ((xs.drop (32 * b)).take (runLen c.count b))
  (packRuns k enc rs.length rs).foldl (fun (a : State × Coll × Option TrapInfo) p =>
    let no : TrapInfo := { cause := .programAddress, hnd := f.hnd &&& 0xFFFF0000FFFFFFFF ||| BitVec.ofNat 64 (dst.1 * 2 ^ 32) }
    let n := sent + a.2.1.unacked.length
    match sendPacket a.1 dst.1 (.contribution a.1.devid c.session c.group c.num c.self c.wire c.spn p.1 p.2.1 n p.2.2 true) with
    | none => (a.1, a.2.1, some (a.2.2.getD no))
    | some t => (t, { a.2.1 with unacked := a.2.1.unacked ++ [(dst.1, (linkTo a.1 dst.1).getD 0)] }, a.2.2)) (s, a.2.1, a.2.2)

/-- The A-stream's instruction at pc, as its word decodes. -/
def instrAtA (s : State) : Option Instr := (decodeIn rowsA .A (s.core.wordAt .A s.core.a.pc.toNat) 0).toOption

/-- The group register of a collective (R164). -/
def groupReg : Option Instr → Option Reg
  | some (.aAllred _ _ _ _ _ b _ _) => some b
  | some (.aRedscat _ _ _ _ _ b _ _) => some b
  | some (.aAllgath _ _ _ _ _ b _ _) => some b
  | some (.aBcast _ _ _ _ _ b _ _) => some b
  | _ => none

/-- Collectives of the core in focus that are in flight (R164). -/
def collSlots (s : State) : Nat :=
  (s.flights.filter (fun f => f.core == s.core.num && !f.orphan && (match f.job with | .collective c => !c.pieces.isEmpty | _ => false))).length

/-- A collective issues (R344, R345): it takes its number, reads and encodes its own contribution, sends its parts, and takes up
the packets that were held for it. -/
def issueCollective (s : State) (g : Group) (kind e : Nat) (f : Flight) (wire : ElemCode) (deadline : Option Nat)
    (reads writes : List Seg) : State :=
  let own := readLanes s reads
  let bad := reads.find? (fun q => s.poisoned q.key q.len)
  let c : Coll := { group := g.num, kind := kind, num := g.next, session := g.session, m := g.m, self := g.self, spn := g.spn, wire := wire,
                    strict := deadline.isNone, deadline := deadline, pieces := writes, count := e }
  let mine := (c.wants g.self).map (fun b =>
    (b, decodeRun wire g.spn (runLen e b) (encodeRun wire g.spn ((own.1.drop (32 * b)).take (runLen e b)))))
  let c := if kind = 3 ∧ g.self ≠ 0 then c else c.take g.self mine
  let others := (g.members.zipIdx).filter (fun p => p.2 != g.self)
  let r := others.foldl (sendPart f c own.1 g.sent) (own.2, c, bad.map (fun q => eccAt f q.key))
  let held := g.held.filter (fun p => p.number == g.next)
  let f := { f with id := r.1.nextId, write := true, job := .collective r.2.1, error := r.2.2 }
  let t := (putGroup r.1 { g with next := g.next + 1, held := g.held.filter (fun p => !held.contains p),
                                  sent := g.sent + r.2.1.unacked.length } [.next]).begin f
  held.foldl (fun (t : State) p => match t.flight? f.id with
    | some q => (match q.job with | .collective c => usePacket t q c p | _ => t)
    | none => t) t

/-- ALLRED, REDSCAT, ALLGATH and BCAST (R164): `kind` 0 to 3. One that must follow operations of its core waits for them as it waits
for a slot (DEDUCED, log 235). -/
def collective (kind : Nat) (y qual : BitVec 4) (d : Reg) (h : Handle) (cf b x : Reg) (ty : ElemCode) (s : State) :
    Host.Outcome State Fault Refusal :=
  issue .A y s (fun s => operand s h cf.val [b.val, x.val] [d.val] (fun p =>
    let gn := (s.ra b).toNat
    let ms := (s.ra x).toNat
    let dline := qual == 1
    let e := p.obj.innerDim - p.crd.getD 0 0
    match s.group? (gn % 4096) with
    | none => .raise (illegal .A s)
    | some g =>
      if collectiveRefused p.obj kind dline ty gn ms (some g) e then .raise (illegal .A s)
      else if g.closing then .raise (illegalSequence .A s)
      else if !p.obj.inBounds p.crd 1 then .raise (p.outOfBounds true)
      else
        let reads := p.run e false
        let writes := p.run e true
        (checkSpans s [p] (reads ++ writes)).act s (fun _ =>
          if 8 ≤ collSlots s ∨ g.low + 255 < g.next ∨ 2 ^ 31 ≤ g.next ∨ g.state ≠ .open ∨ !(engineAfter s 0 0 [4]).isEmpty then
            .block s (.copySlot (0x88 + kind))
          else
            let dst := segsOfSpans s writes
            let f := { aFlight s .store with
              spaces := [4], dups := dupsOf s writes, held := heldOf dst, reg := destReg d, hnd := hndWord p.hnd (some p.obj), va := p.va }
            .retire (issueCollective s g kind e f ty (if dline then some (s.now + 850000 * ms) else none) (segsOfSpans s reads) dst))))

/-- ALLRED (R164). -/
def execAAllred (y qual : BitVec 4) (d : Reg) (h : Handle) (cf b x : Reg) (ty : ElemCode) (s : State) : Host.Outcome State Fault Refusal :=
  collective 0 y qual d h cf b x ty s

/-- REDSCAT (R164). -/
def execARedscat (y qual : BitVec 4) (d : Reg) (h : Handle) (cf b x : Reg) (ty : ElemCode) (s : State) : Host.Outcome State Fault Refusal :=
  collective 1 y qual d h cf b x ty s

/-- ALLGATH (R164). -/
def execAAllgath (y qual : BitVec 4) (d : Reg) (h : Handle) (cf b x : Reg) (ty : ElemCode) (s : State) : Host.Outcome State Fault Refusal :=
  collective 2 y qual d h cf b x ty s

/-- BCAST (R164). -/
def execABcast (y qual : BitVec 4) (d : Reg) (h : Handle) (cf b x : Reg) (ty : ElemCode) (s : State) : Host.Outcome State Fault Refusal :=
  collective 3 y qual d h cf b x ty s

/-! ### Completion (R164, R345) -/

/-- Segments without their first `n` bytes. -/
def dropSegs : Nat → List Seg → List Seg
  | _, [] => []
  | n, g :: r =>
    if n = 0 then g :: r
    else if g.len ≤ n then dropSegs (n - g.len) r
    else { g with key := g.key + n, len := g.len - n, data := g.data.drop n } :: r

/-- The members whose contributions are used. -/
def Coll.used (c : Coll) : List Nat := c.needs.filter c.accepted

/-- The mask of a completed collective (R164). -/
def Coll.maskOf (c : Coll) : Word :=
  BitVec.ofNat 64 (((if c.strict || (c.kind == 3 && !c.used.isEmpty) then List.range c.m
    else if c.kind = 3 then [c.self] else c.used).map (2 ^ ·)).sum)

/-- The sum of the contributors' elements in ascending member index, with one rounding a step (R164). -/
def Coll.sum (c : Coll) (i : Nat) : Lane := c.used.foldl (fun (acc : Lane) j => add32 acc (c.elem j i)) 0

/-- The elements that a collective writes: first, and their values (R164). -/
def Coll.result (c : Coll) : List (Nat × List Lane) :=
  let n := c.count / c.m
  let slice := fun (f : Nat → Lane) (a n : Nat) => (a, (List.range n).map (fun i => f (a + i)))
  match c.kind with
  | 0 => if c.used.isEmpty then [] else [slice c.sum 0 c.count]
  | 1 => if c.used.isEmpty then [] else [slice c.sum (c.self * n) n]
  | 2 => c.used.map (fun j => slice (c.elem j) (j * n) n)
  | _ => if c.used.isEmpty then [] else [slice (c.elem 0) 0 c.count]

/-- The result's last sector has committed: aD is written, the slot is free, and what is left are acknowledgements (R163, R345). -/
def finishCollective (s : State) (id : Nat) : State :=
  match s.flight? id with
  | none => s
  | some f => match f.job with
    | .collective c =>
      match c.mask with
      | none => s
      | some m =>
        if !f.todo.isEmpty || c.pieces.isEmpty then s
        else
          let t := setAddr s f.core f.reg m
          let t := match (if f.orphan then none else f.error) with
            | none => t
            | some e => t.onCore f.core (fun k => k.defer (f.reg.getD 0) { info := e, pc := f.pc })
          if c.unacked.isEmpty then t.dropFlight id
          else t.putFlight { f with job := .collective { c with pieces := [] }, reg := none, error := none, held := [], write := false }
    | _ => s

/-- A collective completes with the contributions that it has: its number retires, and its result is there to write. -/
def completeCollective (s : State) (f : Flight) (c : Coll) : State :=
  let todo := c.result.flatMap (fun r =>
    fillSegs (takeSegs (4 * r.2.length) (dropSegs (4 * r.1) c.pieces)) (r.2.flatMap (fun x => leBytes 4 x.toNat)))
  let t := s.putFlight { f with todo := todo, job := .collective { c with mask := some c.maskOf } }
  let t := match s.group? c.group with
    | some g => if g.session = c.session ∧ (g.state = .open) then putGroup t (g.retire c.num) [.low] else t
    | none => t
  finishCollective t f.id

/-- COLLECTIVE_COMPLETE: every contribution that a collective needs has been accepted (R345). -/
def execCollectiveComplete (op : Nat) (s : State) : Host.Outcome State Fault Refusal :=
  match s.flight? op with
  | none => .next s
  | some f => match f.job with
    | .collective c => .next (if c.mask.isNone && c.needs.all c.accepted then completeCollective s f c else s)
    | _ => .next s

/-- COLLECTIVE_DEADLINE: a collective's deadline cycle has come (R345). -/
def execCollectiveDeadline (op : Nat) (s : State) : Host.Outcome State Fault Refusal :=
  match s.flight? op with
  | none => .next s
  | some f => match f.job with
    | .collective c => .next (match c.deadline with
        | some t => if c.mask.isNone && decide (t ≤ s.now) then completeCollective s f c else s
        | none => s)
    | _ => .next s

end Sys2Proof.Machine
end

