-- ==== Sys2Proof/Machine/Launch.lean ====
section
/-! DEFINITION. Launch mailboxes, and how a launch ends: done, failed, its cores reset (R12, R294, R351–R354). -/
namespace Sys2Proof.Machine

/-! ### Mailboxes (R351, R353) -/

/-- The first byte of a launch mailbox. -/
def mailboxKey (m : Nat) : Nat := hwinKey 0 (0xF0000 + 128 * m)

/-- The codes of STATE (R353). -/
def LaunchState.code : LaunchState → Nat
  | .waiting => 1
  | .loading => 2
  | .running => 3
  | .suspended => 4

/-- STATUS (R353): state, the refused mark, cause, detail, tag. -/
def statusWord (tag : BitVec 32) (detail cause : Nat) (refused : Bool) (st : Nat) : Nat :=
  st + (if refused then 128 else 0) + cause * 2 ^ 8 + detail % 1024 * 2 ^ 16 + tag.toNat * 2 ^ 32

/-- The dispatcher writes STATUS as one 8-byte write (R353); entering DONE or FAILED sends the mailbox's MSI-X vector (R371). -/
def putStatus (s : State) (m : Nat) (tag : BitVec 32) (detail cause : Nat) (refused : Bool) (st : Nat) : State :=
  let t := commitBytes s (mailboxKey m + 0x70) (leBytes 8 (statusWord tag detail cause refused st))
  if st = 5 ∨ st = 6 then { t with outputs := t.outputs ++ [.msix m] } else t

/-- The launch with a number. -/
def State.launch? (s : State) (id : Nat) : Option Launch := s.launches.find? (fun l => l.id == id)

/-- Replace a launch. -/
def State.putLaunch (s : State) (l : Launch) : State := { s with launches := s.launches.map (fun x => if x.id = l.id then l else x) }

/-- A launch enters a state, which its STATUS shows; REFUSED and its cause stay (R353). -/
def enterState (s : State) (l : Launch) (st : LaunchState) : State :=
  commitBytes (s.putLaunch { l with state := st }) (mailboxKey l.mailbox + 0x70) (leBytes 8 (statusWord l.tag l.detail l.cause l.refused st.code))

/-! ### Resetting a core -/

/-- A core reset by the dispatcher (R294, R354): lastrel and lastacq are never lowered (R232). -/
def Core.resetTo (k : Core) : Core := { Core.reset k.num with lastrel := k.lastrel, lastacq := k.lastacq }

/-- What a core leaves behind when it leaves a launch: reads in flight are dropped, other operations go on without it. -/
def orphanFlights (s : State) (n : Nat) : State :=
  { s with
    flights := (s.flights.filter (fun f => f.core != n || f.write || f.job.counts)).map (fun f =>
      if f.core = n then { f with orphan := true, reg := none } else f)
    watch := s.watch.filter (fun w => w.core != n)
    arrivals := s.arrivals.filter (fun w => w.core != n)
    transfers := s.transfers.filter (fun t => t.core != n) }

/-- Reset one core. -/
def resetCore (s : State) (n : Nat) : State := ((orphanFlights s n).onCore n Core.resetTo).remark n []

/-- Reset the cores of a team: it is stopped without a save (R354). -/
def resetCores (s : State) (l : List Nat) : State := l.foldl resetCore s

/-! ### The ends of a launch -/

/-- The pre-emption of a launch ends with it. -/
def dropPreemption (s : State) (id : Nat) : State :=
  match s.preemption with
  | some p => if p.victim = id then { s with preemption := none } else s
  | none => s

/-- The dispatcher no longer holds a launch. -/
def dropLaunch (s : State) (id : Nat) : State := dropPreemption { s with launches := s.launches.filter (fun l => l.id != id) } id

/-- The launch runs and every member has ended (R12). -/
def teamOver (s : State) (l : Launch) : Bool := decide (l.state = .running) && !l.members.isEmpty && l.members.all (fun n => (s.coreAt n).over)

/-- A core whose member has ended is free: it keeps what it held and counts no more cycles. -/
def Core.freed (k : Core) (now : Nat) : Core :=
  { k with member := none, cyclesBase := k.cycles now, cyclesSince := none, softPending := false, hardStop := false }

/-! ### Barriers (R42, R108) -/

/-- The core has arrived at a barrier. -/
def State.arrived (s : State) (n : Nat) : Bool := s.arrivals.any (fun a => a.core == n)

/-- The members of the barrier of a level that a core joins: its grove domain, or its team (R41). -/
def barrierMembers (s : State) (n level : Nat) : List Nat :=
  match (s.coreAt n).member.bind (fun m => s.launch? m.1) with
  | none => [n]
  | some l => if level = 0 then l.members.filter (fun q => groveOf q == groveOf n) else l.members

/-- Every member of the domain has arrived. -/
def barrierFull (s : State) (n level : Nat) : Bool :=
  (barrierMembers s n level).all (fun q => s.arrivals.any (fun a => a.core == q && a.level == level))

/-- A member's DBAR completes: its phase is counted, and it acquires (R42, R108, R232). -/
def passBarrier (level : Nat) (s : State) (n : Nat) : State :=
  let pass := fun (k : Core) =>
    { (if level = 0 then { k with gphase := k.gphase + 1 } else { k with tphase := k.tphase + 1 }) with
      c := { k.c.run s.now with woken := true } }
  (s.onCore n pass).acquire n


/-- A barrier whose last arrival has been made comes before anything that would abandon its waits (R42). -/
def barrierDue (s : State) (n : Nat) : Bool :=
  s.arrivals.any (fun a => a.core == n && barrierFull s n a.level)

/-- The least cycles from the last arrival at a barrier of a level to its completion (R50). -/
def barrierLatency (level : Nat) : Nat := if level = 0 then 40 else 300

/-- The barrier that a core has arrived at may complete: its last arrival has been made, and is as old as R50 asks. -/
def barrierReady (s : State) (n level : Nat) : Bool :=
  barrierFull s n level &&
    s.arrivals.all (fun a => !(barrierMembers s n level).contains a.core || decide (a.since + barrierLatency level ≤ s.now))

/-- A member whose barrier has completed leaves its DBAR before its streams may be stopped: the DBAR retires (R42). -/
def leaveBarrier (s : State) (n : Nat) : State :=
  let t := s.focus n
  match t.core.c.woken, (decodeIn rowsC .C (t.core.wordAt .C t.core.c.pc.toNat) 0).toOption with
  | true, some (.cDbar y _) => (retireAt .C y t).focus s.core.num
  | _, _ => s

/-! ### Stopping (R36, R289) -/

/-- The blocking waits of R36, which a watchdog bounds (R38). -/
def Wait.blocking : Wait → Bool
  | .stampCheck _ => false
  | .saveTransfer => false
  | .commits op _ => op != 0x55 && op != 0x73
  | _ => true

/-- The blocking waits that stop a draining stream: all but the wait for the data of an entry, or for a bit, that is already
reserved (R289). -/
def Wait.stops : Wait → Bool
  | .entry _ => false
  | w => w.blocking

/-- A stream has stopped: it has ended, or stands in a blocking wait that stops it, or has been stopped (R289). -/
def StreamState.halted (v : StreamState) : Bool :=
  match v.status with
  | .running => false
  | .waiting w _ => w.stops
  | _ => true

/-- Every reserved entry of a load queue holds its data, every reserved bit its value (R289). -/
def reservedFilled (k : Core) : Bool :=
  k.lq.toList.all (fun q => q.items.all (fun e => e.data.isSome || e.error.isSome)) &&
    k.bqa.items.all (fun e => e.bit.isSome || e.error.isSome)

/-! ### Stopping for a save (R295, R296) -/

/-- A stream stopped for a save: at a boundary (STOP 0), in a wait (STOP 2), ended, or as it already stands (R296). -/
def StreamState.stopForSave (v : StreamState) : StreamState :=
  match v.status with
  | .running => { v with status := .stopped 0, awaited := none, woken := false, counted := false, pages := [], held := false }
  | .waiting _ _ => { v with status := .stopped 2, awaited := none, woken := false, counted := false, pages := [], held := false }
  | _ => v

/-- A member's streams stop where they stand: their waits are abandoned, with the watch entry of a WAITA (R156) and the
arrival of a DBAR (R42). -/
def stopStreams (s : State) (n : Nat) : State :=
  let s := leaveBarrier s n
  { s.onCore n (fun k => { k with c := k.c.stopForSave, a := k.a.stopForSave, x := k.x.stopForSave }) with
    watch := s.watch.filter (fun w => w.core != n)
    arrivals := s.arrivals.filter (fun w => w.core != n) }

/-- The A-stream's last read is not kept (R155): the first WAITA that would rely on it retires at once. -/
def Core.loseRead (k : Core) : Core := { k with lastRead := k.lastRead.map (fun r => { r with lost := true }) }

/-- The streams of a member stop for a hard pre-emption (R296). -/
def stopNow (s : State) (n : Nat) : State := (stopStreams s n).onCore n Core.loseRead

/-- A member stops for a hard pre-emption (R296); one whose barrier has its last arrival stops as that barrier has
completed (R42). -/
def stopMember (s : State) (n : Nat) : State :=
  let s := s.onCore n (fun k => { k with hardStop := true })
  if barrierDue s n then s else stopNow s n

/-- The barrier that a core has arrived at completes for every member; a hard pre-emption that has waited for it stops them
then (R42). -/
def completeBarrier (s : State) (n level : Nat) : State :=
  let ms := barrierMembers s n level
  let t := ms.foldl (passBarrier level) { s with arrivals := s.arrivals.filter (fun a => !ms.contains a.core) }
  ms.foldl (fun (t : State) q =>
    let k := t.coreAt q
    if k.hardStop && k.banks.isEmpty && k.pending.isNone then stopNow t q else t) t

/-! ### The fences of a soft pre-emption (R113, R295) -/

/-- A stream that will not run again before tokens of the C-stream come, or that has ended (R113). -/
def fenced (k : Core) (st : StreamId) : Bool :=
  match (k.stream st).status with
  | .ended => true
  | .waiting (.tokens l _) _ => l && k.tokensOf .C st == 0
  | _ => false

/-- A member is at its fence: its streams have ended or stopped, and its engine commands have completed (R113, R295). -/
def atFence (s : State) (n : Nat) : Bool :=
  let k := s.coreAt n
  k.banks.isEmpty && k.pending.isNone && commandsLeft s n == 0 &&
    (match k.c.status with
      | .waiting .genf _ => fenced k .A && fenced k .X
      | .ended => k.a.status == .ended && k.x.status == .ended
      | _ => false)

/-- A soft pre-emption becomes hard: 1,048,576 cycles have passed since the mark, and some member is not at its fence (R295). -/
def softOver (s : State) (l : Launch) (p : Preemption) : Bool :=
  !p.hard && !p.saving && decide (p.since + 1048576 ≤ s.now) && l.members.any (fun n => !atFence s n)

end Sys2Proof.Machine
end

