-- ==== Sys2Proof/Machine/Image.lean ====
section
/-! DEFINITION. What the overlay loader reads: the translation image, the code image and its checks, the dispatch table, the
preset objects, the supervisor image (R85–R88, R351, R355, R358, R360). -/
namespace Sys2Proof.Machine

/-- A launch-time failure: CAUSE and DETAIL of R354. -/
abbrev LoadError := Nat × Nat

/-! ### Translated reads (R355) -/

/-- Bytes of a virtual range, as core `n` with this table reads them; else the cause of R355. -/
def loaderRead (s : State) (table : List (Nat × Xlat)) (n va len : Nat) : Except Nat (List Byte) :=
  let ps := piecesOf table va len
  let first := match ps with
    | p :: _ => (match p.entry with | some e => e.2.space | none => 0)
    | [] => 0
  let any := fun (t : Xlat → Bool) => ps.any (fun p => match p.entry with | some e => t e.2 | none => false)
  let segs := segsOf n false ps
  if ps.any (fun p => p.entry.isNone) || first == 0 || any (fun e => e.space != first) then .error 4
  else if any (fun e => decide (e.state ≠ .present)) then .error 5
  else if any (fun e => !e.r) then .error 6
  else if segs.any (fun g => s.poisoned g.key g.len) then .error 17
  else .ok (segs.flatMap (fun g => s.bytes g.key g.len))

/-! ### The translation image (R351, R354) -/

/-- Entry `i` of a translation image: malformed, out of NEAR or uncorrectable, it is rejected (DEDUCED, log 40). -/
def imageXlat (s : State) (base i : Nat) : Option (Bool × Xlat) :=
  let a := base + 32 * i
  if !tierRangeOk s.ret0 s.ret1 2 a 32 || s.poisoned (nearKey a) 32 then none
  else parseXlat s.ret0 s.ret1 (s.bytes (nearKey a) 32)

/-- The table that the loader fills from the image of a record: its valid entries, or the index of one rejected (R354). -/
def loadTable (s : State) (r : LaunchRecord) : Except LoadError (List (Nat × Xlat)) :=
  match (List.range r.lttn).find? (fun i => (imageXlat s r.lttimg i).isNone) with
  | some i => .error (1, i)
  | none => .ok ((List.range r.lttn).filterMap (fun i => match imageXlat s r.lttimg i with
      | some (true, e) => some (i, e)
      | _ => none))

/-! ### The code image (R85–R87) -/

/-- The sections and tables of an image by its header: offset and length (R85).
DESIGN CHOICE (log 230): a default launch record counts as one of them, and the header as a range that none may overlap. -/
def imageParts (h : List Byte) : List (Nat × Nat) :=
  let f := fieldAt h
  [(f 0x08 4, f 0x0C 4), (f 0x10 4, f 0x14 4), (f 0x18 4, f 0x1C 4), (f 0x30 4, 144 * f 0x2C 2), (f 0x34 4, 104 * f 0x2E 2),
   (f 0x3C 4, 16 * f 0x38 2), (f 0x40 4, 32 * f 0x3A 2)] ++ (if f 0x44 4 = 0 then [] else [(f 0x44 4, 0x70)])

/-- Two ranges share a byte. -/
def rangesMeet (a b : Nat × Nat) : Bool := decide (a.1 < b.1 + b.2) && decide (b.1 < a.1 + a.2) && decide (0 < a.2) && decide (0 < b.2)

/-- No range of a list meets a later one. -/
def noneMeet : List (Nat × Nat) → Bool
  | [] => true
  | a :: r => !r.any (rangesMeet a) && noneMeet r

/-- Three entry offsets fit their sections (R86). -/
def entriesOk (h : List Byte) (c a x : Nat) : Bool :=
  decide (c % 4 = 0) && decide (c < fieldAt h 0x0C 4) && decide (a % 8 = 0) && decide (a < fieldAt h 0x14 4) &&
    decide (x % 8 = 0) && decide (x < fieldAt h 0x1C 4)

/-- Bucket `i` of an image's dispatch table (R87). -/
def bucketAt (raw : List Byte) (i : Nat) : List Byte := (raw.drop (fieldAt raw 0x30 4 + 144 * i)).take 144

/-- The checks of R86 on a whole image, whose header is its first 256 bytes. -/
def imageOk (raw : List Byte) : Bool :=
  let f := fieldAt raw
  let parts := imageParts raw
  decide (f 0 4 = 0x37525A47) && decide (f 4 2 = 1) && decide (f 6 2 < 2) && (raw.drop 0x4C).take 180 == List.replicate 180 0 &&
    parts.all (fun p => decide (p.1 % 256 = 0) && decide (p.1 + p.2 ≤ f 0x48 4)) && noneMeet ((0, 256) :: parts) &&
    decide (f 0x0C 4 % 4 = 0) && decide (f 0x0C 4 ≤ 49152) && decide (f 0x14 4 % 8 = 0) && decide (f 0x14 4 ≤ 65536) &&
    decide (f 0x1C 4 % 8 = 0) && decide (f 0x1C 4 ≤ 131072) && decide (f 0x2C 2 ≤ 16) && decide (f 0x2E 2 ≤ 1024) &&
    decide (f 0x3A 2 ≤ 4096) && entriesOk raw (f 0x20 4) (f 0x24 4) (f 0x28 4) &&
    (List.range (f 0x2C 2)).all (fun i => let b := fieldAt (bucketAt raw i); entriesOk raw (b 0x80 4) (b 0x84 4) (b 0x88 4)) &&
    (f 6 2 == 1) == (f 0x2C 2 != 0)

/-- Bucket `i` matches the shape registers (R87). -/
def bucketMatches (raw : List Byte) (sh : List Word) (i : Nat) : Bool :=
  (List.range 8).all (fun k =>
    let x := (sh.getD k 0).toNat
    decide (fieldAt (bucketAt raw i) (16 * k) 8 ≤ x) && decide (x ≤ fieldAt (bucketAt raw i) (16 * k + 8) 8))

/-- The lowest bucket that matches. -/
def matchBucket (raw : List Byte) (sh : List Word) : Option Nat := (List.range (fieldAt raw 0x2C 2)).find? (bucketMatches raw sh)

/-- The image of a launch, read in the order of R355: the header, the argument words, ISIZE, the rest; then R86. -/
def readCode (s : State) (table : List (Nat × Xlat)) (n : Nat) (r : LaunchRecord) : Except LoadError (List Byte × List Word) :=
  match loaderRead s table n r.code 256, loaderRead s table n r.args 128 with
  | .error c, _ => .error (c, 0)
  | .ok _, .error c => .error (c, 1)
  | .ok h, .ok a =>
    let size := fieldAt h 0x48 4
    if size < 256 ∨ 2 ^ 24 < size then .error (0x80, 0)
    else match loaderRead s table n r.code size with
      | .error c => .error (c, 0)
      | .ok raw => if imageOk raw then .ok (raw, (chunks 16 8 a).map (fun l => BitVec.ofNat 64 (leNat l))) else .error (0x80, 0)

/-- Bytes of a section: offset and length at two places of the header. -/
def sectionAt (raw : List Byte) (off len : Nat) : List Byte := (raw.drop (fieldAt raw off 4)).take (fieldAt raw len 4)

/-- The entry points of C, A and X: those of the header, or of the bucket that matched (R85, R87). -/
def entryPoints (raw : List Byte) (bucket : Option Nat) : Nat × Nat × Nat :=
  match bucket with
  | none => (fieldAt raw 0x20 4, fieldAt raw 0x24 4, fieldAt raw 0x28 4)
  | some i => let b := fieldAt (bucketAt raw i); (b 0x80 4, b 0x84 4, b 0x88 4)

/-! ### The supervisor image (R358) -/

/-- The 16,384 bytes that a value of SUPIMG names, if it names a valid image that can be read. -/
def supervisorImage (s : State) (w : Nat) : Option (List Byte) :=
  let a := w / 2 ^ 14 * 16384
  if w % 2 = 0 ∨ w / 2 % 2 ^ 13 ≠ 0 ∨ !tierRangeOk s.ret0 s.ret1 2 a 16384 ∨ s.poisoned (nearKey a) 16384 then none
  else some (s.bytes (nearKey a) 16384)

/-! ### Preset objects (R88) -/

/-- Seal the presets in table order: the handle that fails, or the handle table. -/
def sealPresets (s : State) (table : List (Nat × Xlat)) : List (List Byte) → List (Nat × Shape) → Except LoadError (List (Nat × Shape))
  | [], done => .ok done
  | e :: rest, done =>
    let h := fieldAt e 0 2
    if 1023 < h ∨ fieldAt e 2 6 ≠ 0 ∨ done.any (fun d => d.1 == h) ∨ (sealReason s table (e.drop 8)).isSome then .error (13, h)
    else sealPresets s table rest (insertEntry h (sealed s (e.drop 8)) done)

/-- The entries of the shape table. -/
def presetsOf (raw : List Byte) : List (List Byte) :=
  (List.range (fieldAt raw 0x2E 2)).map (fun i => (raw.drop (fieldAt raw 0x34 4 + 104 * i)).take 104)

/-- All that the loader brings to the members of a launch. -/
structure Loaded where
  table : List (Nat × Xlat)
  code : List Byte
  args : List Word
  bucket : Option Nat
  handler : List Byte
  handles : List (Nat × Shape)
  deriving DecidableEq, Repr

/-- The loader's reading for a launch whose first member is core `n`, SUPIMG as it was when it was placed: what it brings, or how the launch
fails. A preset is sealed against the channel map of this moment, so that the check of R360 passes. -/
def loadImage (s : State) (n supimg : Nat) (r : LaunchRecord) : Except LoadError Loaded :=
  match loadTable s r with
  | .error e => .error e
  | .ok table => match readCode s table n r with
    | .error e => .error e
    | .ok (raw, args) =>
      let bucket := matchBucket raw r.sh
      if fieldAt raw 0x2C 2 ≠ 0 ∧ bucket = none then .error (0x81, 0)
      else match supervisorImage s supimg with
        | none => .error (0x86, 0)
        | some handler => match sealPresets s table (presetsOf raw) [] with
          | .error e => .error e
          | .ok handles => .ok ⟨table, raw, args, bucket, handler, handles⟩

end Sys2Proof.Machine
end

