-- ==== Sys2Proof/Machine/Dispatcher.lean ====
section
/-! DEFINITION. The dispatcher: placement, its decision pass, pre-emption, and the ends of a launch (R12, R46, R294–R299,
R353–R357, R360). -/
namespace Sys2Proof.Machine

/-! ### Placement (R46, R299) -/

/-- The free cores that a launch may use: in no launch, and held for no other (R357). -/
def freeCores (s : State) (id : Nat) : List Nat :=
  (s.cores.filter (fun k => k.member.isNone && s.launches.all (fun l => l.id == id || !l.held.contains k.num))).map (·.num)

/-- The free cores of a grove. -/
def inGrove (free : List Nat) (g : Nat) : List Nat := free.filter (fun n => groveOf n == g)

/-- The grove with the fewest free cores that holds `t`, among some; the lowest on a tie. -/
def tightest (free : List Nat) (t : Nat) (groves : List Nat) : Option Nat :=
  (groves.filter (fun g => decide (t ≤ (inGrove free g).length))).foldl (fun (best : Option Nat) g => match best with
    | none => some g
    | some b => if (inGrove free g).length < (inGrove free b).length then some g else some b) none

/-- The groves with free cores in ascending number of them, ties to the lowest. -/
def byFree (free : List Nat) : List Nat :=
  (List.range 8).flatMap (fun c => (List.range 20).filter (fun g => (inGrove free g).length == c + 1))

/-- The wholly free groves in the order of R46: first those of the die with more free cores, die 0 when equal. -/
def wholeGroves (free : List Nat) : List Nat :=
  let whole := fun (d : Nat) => (List.range 20).filter (fun g => g / 10 == d && (inGrove free g).length == 8)
  let count := fun (d : Nat) => (free.filter (fun n => dieOf n == d)).length
  if count 0 < count 1 then whole 1 ++ whole 0 else whole 0 ++ whole 1

/-- Cores in ascending order. -/
def ascending (l : List Nat) : List Nat := (List.range 160).filter (fun n => l.contains n)

/-- The cores that R46 gives a team of `t` on these free cores, ascending; none where it does not fit. -/
def placeTeam (free : List Nat) (t : Nat) : Option (List Nat) :=
  if free.length < t then none
  else
    let whole := ((wholeGroves free).take (t / 8)).flatMap (inGrove free)
    let rest := free.filter (fun n => !whole.contains n)
    let r := t - whole.length
    let tail := match (if r < 8 then tightest rest r (List.range 20) else none) with
      | some g => (inGrove rest g).take r
      | none => ((byFree rest).flatMap (inGrove rest)).take r
    some (ascending (whole ++ tail))

/-- The grove domains of a suspended team: their members by TINDEX, the domains in ascending order of their lowest. -/
def domainsOf (groves : List Nat) : List (List Nat) :=
  let gs := groves.zipIdx
  (gs.filter (fun p => (gs.find? (fun q => q.1 == p.1)) == some p)).map (fun p => (gs.filter (fun q => q.1 == p.1)).map (·.2))

/-- The cores of R299 by TINDEX: each domain whole in a grove of its own. -/
def placeDomains (free : List Nat) : List (List Nat) → List Nat → Option (List (Nat × Nat))
  | [], _ => some []
  | d :: rest, used =>
    match tightest free d.length ((List.range 20).filter (fun g => !used.contains g)) with
    | none => none
    | some g => (placeDomains free rest (g :: used)).map (fun l => d.zip (inGrove free g) ++ l)

/-- Where a launch would be placed: its cores by TINDEX (R44, R46, R299). -/
def placementOf (l : Launch) (free : List Nat) : Option (List Nat) :=
  if l.state = .suspended then
    (placeDomains free (domainsOf l.groves) []).map (fun ps => (List.range l.groves.length).map (fun t => ((ps.find? (fun p => p.1 == t)).map (·.2)).getD 0))
  else placeTeam free l.record.team

/-- The boot mailbox of a core (R360). -/
def bootMailbox (s : State) (l : Launch) (bucket t n : Nat) : State :=
  commitBytes s (hwinKey (dieOf n) (0xF2000 + 64 * (n % 80)))
    (leBytes 1 l.mailbox ++ leBytes 1 t ++ leBytes 1 bucket ++ leBytes 5 0 ++ leBytes 8 s.now ++ List.replicate 48 0)

/-- The bucket that matches a launch's image, for the boot mailbox: 0xFF without a dispatch table, and for an image that the
loader will turn away (DEDUCED, log 41). -/
def bucketByte (s : State) (n : Nat) (l : Launch) : Nat :=
  match l.bucket with
  | some b => b
  | none => match loadTable s l.record with
    | .ok table => (match readCode s table n l.record with | .ok (raw, _) => (matchBucket raw l.record.sh).getD 0xFF | .error _ => 0xFF)
    | .error _ => 0xFF

/-- Place a launch on cores: it is LOADING from now on, and SUPIMG is read (R356, R358); one that cannot be read names no image
(DESIGN CHOICE, log 236). -/
def placeLaunch (s : State) (l : Launch) (cores : List Nat) : State :=
  let b := bucketByte s (cores.headD 0) l
  let l' := { l with members := cores, groves := cores.map groveOf, started := s.now, held := [], saved := l.state == .suspended
                     supimg := if s.poisoned (hwinKey 0 0xF3408) 8 then 0 else s.word (hwinKey 0 0xF3408) 8 }
  let t := cores.zipIdx.foldl (fun (u : State) p => bootMailbox (u.onCore p.1 (fun k => { k with member := some (l.id, p.2) })) l b p.2 p.1) s
  enterState t l' .loading

/-! ### The decision pass (R356, R357) -/

/-- DCTL (R357), as the dispatcher reads it at a pass: where it cannot be read, the pass skips steps 3 and 4 (DESIGN CHOICE, log 236). -/
def dctl (s : State) : Nat := if s.poisoned (hwinKey 0 0xF3400) 8 then 2 ^ 33 else s.word (hwinKey 0 0xF3400) 8

/-- A launch waits to be placed. -/
def Launch.waits (l : Launch) : Bool := l.state == .waiting || l.state == .suspended

/-- The effective priority of a launch that waits (R356). -/
def Launch.level (now : Nat) (l : Launch) : Nat := min 7 (l.record.prio + (now - l.since) / 850000)

/-- One launch goes before another in a pass: held cores first, then level, age and mailbox. -/
def Launch.before (now : Nat) (a b : Launch) : Bool :=
  if a.held.isEmpty != b.held.isEmpty then b.held.isEmpty
  else if a.level now ≠ b.level now then decide (b.level now < a.level now)
  else if a.since ≠ b.since then decide (a.since < b.since)
  else decide (a.mailbox < b.mailbox)

/-- Put a launch into the order of a pass. -/
def insertLaunch (now : Nat) (l : Launch) : List Launch → List Launch
  | [] => [l]
  | x :: r => if l.before now x then l :: x :: r else x :: insertLaunch now l r

/-- The launches that wait, in the order in which a pass takes them. -/
def waitingOrder (s : State) : List Launch := (s.launches.filter Launch.waits).foldr (insertLaunch s.now) []

/-- Step 3: place launches while one fits (R356). -/
def placeAll : Nat → State → State
  | 0, s => s
  | n + 1, s =>
    match (waitingOrder s).findSome? (fun l => (placementOf l (freeCores s l.id)).map (fun c => (l, c))) with
    | none => s
    | some (l, c) => placeAll n (placeLaunch s l c)

/-- The order of victims: lowest PRIO, then the most recent start, then the highest mailbox (R357). -/
def Launch.fallsBefore (a b : Launch) : Bool :=
  if a.record.prio ≠ b.record.prio then decide (a.record.prio < b.record.prio)
  else if a.started ≠ b.started then decide (b.started < a.started)
  else decide (b.mailbox < a.mailbox)

/-- The victim that a waiting launch would pre-empt (R357). -/
def victimOf (s : State) (w : Launch) : Option Launch :=
  (s.launches.filter (fun v => v.state == .running && !teamOver s v && decide (v.record.prio < w.level s.now) && !v.refused &&
    (placeTeam (ascending (freeCores s w.id ++ v.members)) w.record.team).isSome)).foldl (fun (best : Option Launch) v => match best with
      | none => some v
      | some b => if v.fallsBefore b then some v else some b) none

/-- A hard pre-emption stops a team: members in or before a handler stop as RTT from bank 0 retires (R296). -/
def stopTeam (s : State) (l : Launch) : State :=
  l.members.foldl (fun (t : State) n =>
    let k := t.coreAt n
    if k.banks.isEmpty && k.pending.isNone then stopMember t n else t.onCore n (fun k => { k with hardStop := true })) s

/-- Step 4: a pre-emption starts, if none is under way and one is called for (R357). -/
def startPreemption (s : State) : State :=
  let due := fun (w : Launch) => w.state == .waiting && decide (dctl s % 2 ^ 32 * 850 ≤ s.now - w.since)
  if s.preemption.isSome then s
  else match ((waitingOrder s).filter due).findSome? (fun w => (victimOf s w).map (fun v => (w, v))) with
    | none => s
    | some (w, v) =>
      let soft := (dctl s).testBit 32
      let t := { s with preemption := some { victim := v.id, winner := w.id, since := s.now, hard := !soft } }
      if soft then v.members.foldl (fun (u : State) n => u.onCore n (fun k => { k with softPending := true })) t
      else stopTeam t v

/-- Steps 3 and 4 of a pass, unless HOLD (R356, R357). -/
def dispatchPass (s : State) : State :=
  if (dctl s).testBit 33 then s else startPreemption (placeAll s.launches.length s)

/-- The one pass of a cycle in which something calls for it (R356). -/
def passOfCycle (s : State) : State := if s.passDue then dispatchPass { s with passDue := false } else s

/-! ### The ends of a launch -/

/-- A launch is DONE, and its cycle has a pass (R12, R353, R356). -/
def finishLaunch (s : State) (l : Launch) : State :=
  let t := l.members.foldl (fun (u : State) n => (orphanFlights u n).onCore n (fun k => k.freed s.now)) s
  { putStatus (dropLaunch t l.id) l.mailbox l.tag 0 0 l.refused 5 with passDue := true }

/-- A launch is FAILED with a cause and a detail (R354); DONE prevails if every member has ended. Its cycle has a pass (R356). -/
def failLaunch (s : State) (id cause detail : Nat) : State :=
  match s.launch? id with
  | none => s
  | some l =>
    if teamOver s l then finishLaunch s l
    else { putStatus (dropLaunch (resetCores s l.members) id) l.mailbox l.tag detail cause l.refused 6 with passDue := true }

/-- The launch of the core in focus fails, naming its member (R293, R294); a core in no launch is reset. -/
def failMember (s : State) (cause : Nat) : State :=
  match s.core.member with
  | none => resetCore s s.core.num
  | some (id, t) => failLaunch s id cause t

/-! ### The crash record (R294) -/

/-- The slot of a core's crash record. -/
def crashKey (n : Nat) : Nat := hwinKey (dieOf n) (0xFE000 + 64 * (n % 80))

/-- The 64 bytes of the record of the core in focus at its third trap. -/
def crashRecord (s : State) (p : Pending) (count : Nat) : List Byte :=
  let k := s.core
  let b := fun (i : Nat) => k.banks.getD i {}
  let mbox := match k.member with
    | none => 0
    | some (id, _) => ((s.launch? id).map (·.mailbox)).getD 0
  leBytes 1 k.num ++ leBytes 1 (bits (b 0).tcause 0 8) ++ leBytes 1 (bits (b 1).tcause 0 8) ++ leBytes 1 p.info.cause.code ++
    leBytes 4 k.c.pc.toNat ++ leBytes 4 (bits (b 1).tpcc 0 17) ++ leBytes 4 (bits (b 0).tpcc 0 17) ++
    leBytes 4 (bits (b 0).tpca 0 17) ++ leBytes 4 (bits (b 0).tpcx 0 17) ++ leBytes 8 (b 0).taddr.toNat ++
    leBytes 8 (b 1).taddr.toNat ++ leBytes 8 (k.cycles s.now) ++ leBytes 8 mbox ++ leBytes 4 0 ++ leBytes 4 count

/-- The third-trap reset (R294). -/
def thirdTrap (s : State) : State :=
  match s.core.pending with
  | none => s
  | some p =>
    let n := s.core.num
    let count := ((s.crashes.find? (fun e => e.1 == n)).map (·.2)).getD 0 + 1
    let t := commitBytes s (crashKey n) (crashRecord s p count)
    failMember { t with crashes := (n, count) :: t.crashes.filter (fun e => e.1 != n) } 0x85

end Sys2Proof.Machine
end

