-- ==== Sys2Proof/Machine/Migrate.lean ====
section
/-! DEFINITION. Migration and read-duplicated pages (R115, R214, R309–R313). -/
namespace Sys2Proof.Machine

/-! ### Changes to a page in every table and image (R310) -/

/-- An entry maps this page: the same SPACE, PHYS and SIZE. -/
def Xlat.isPage (e : Xlat) (space phys size : Nat) : Bool := e.space == space && e.phys == phys && e.size == size

/-- Change one entry of the translation image of a launch, if it can be read (DESIGN CHOICE, log 236), is valid and maps the page. -/
def imageEntry (space phys size : Nat) (f : Xlat → Xlat) (s : State) (key : Nat) : State :=
  match parseXlat s.ret0 s.ret1 (s.bytes key 32) with
  | some (true, e) => if e.isPage space phys size && !s.poisoned key 32 then commitBytes s key (f e).raw else s
  | _ => s

/-- Change the matching entries of a launch's translation image. -/
def imageOf (space phys size : Nat) (f : Xlat → Xlat) (s : State) (l : Launch) : State :=
  if l.state = .waiting then s
  else (List.range l.record.lttn).foldl (fun (t : State) i => imageEntry space phys size f t (nearKey (l.record.lttimg + 32 * i))) s

/-- Change every valid entry on the device that maps a page, those of the launches' images, and the export entries (R310, R363); the
translations that a tape was bound to follow. -/
def updatePage (s : State) (space phys size : Nat) (f : Xlat → Xlat) : State :=
  let new := fun (e : Xlat) => if e.isPage space phys size then f e else e
  let t := s.onCores (fun k => { k with ltt := k.ltt.map (fun e => (e.1, new e.2)), tape := { k.tape with xlats := k.tape.xlats.map new } })
  let t := s.launches.foldl (imageOf space phys size f) t
  (List.range 256).foldl (fun (t : State) i => imageEntry space phys size f t (hwinKey 0 (0xE0000 + 32 * i))) t

/-- PHYS and ALT exchanged, SPACE in the other tier. -/
def Xlat.exchange (st : PageState) (e : Xlat) : Xlat := { e with space := 5 - e.space, phys := e.alt, alt := e.phys, state := st }

/-- The migration under way of an entry's page. -/
def migrationOf (s : State) (e : Xlat) : Option Migration :=
  s.migrations.find? (fun m => m.size == e.size &&
    (if m.exchange then m.space == e.space && m.phys == e.phys else 5 - m.space == e.space && m.alt == e.phys))

/-- A migration that a core asked for has arrived: it is late if the core's ticks exceed the deadline (R312). Of a core that asked twice
each request is judged (DESIGN CHOICE, log 239). -/
def countLate (s : State) (q : Nat × Word) : State :=
  s.onCore q.1 (fun k => if q.2.toNat < k.ticks s.now then { k with mlate := k.mlate + 1 } else k)

/-- The same for a member of a suspended team, judged by its saved ticks (R312). -/
def countSaved (s : State) (q : Nat × Nat × Word) : State :=
  match s.launch? q.1 with
  | none => s
  | some l => if q.2.2.toNat < (l.kept.getD q.2.1 {}).cycles / 1024 then
      s.putLaunch { l with kept := l.kept.modify q.2.1 (fun k => { k with late := k.late + 1 }) } else s

/-- The key of a byte whose page of some size has gone from one place to another. -/
def followKey (src dst size k : Nat) : Nat := if src ≤ k ∧ k < src + size then dst + (k - src) else k

/-- A region's blocks follow a page (R214). -/
def Region.follow (src dst size : Nat) (g : Region) : Region :=
  { g with pages := g.pages.map (fun p => (p.1, followKey src dst size p.2.1, p.2.2)) }

/-- A valid entry of a launch's image, or of the export table, that maps a page. -/
def imagePage (s : State) (e : Xlat) (key : Nat) : Option Xlat :=
  match parseXlat s.ret0 s.ret1 (s.bytes key 32) with
  | some (true, x) => if x.isPage e.space e.phys e.size && !s.poisoned key 32 then some x else none
  | _ => none

/-- The valid entries of the device that map the page of an entry. -/
def pageEntries (s : State) (e : Xlat) : List Xlat :=
  s.cores.flatMap (fun k => (k.ltt.map (·.2)).filter (fun x => x.isPage e.space e.phys e.size)) ++
    (s.launches.filter (fun l => l.state != .waiting)).flatMap (fun l =>
      (List.range l.record.lttn).filterMap (fun i => imagePage s e (nearKey (l.record.lttimg + 32 * i)))) ++
    (List.range 256).filterMap (fun i => imagePage s e (hwinKey 0 (0xE0000 + 32 * i)))

/-- Some entry of the page keeps its PHYS: its PIN is set, or it is treated as pinned (R310, R319; DEDUCED, log 234). -/
def pageFixed (s : State) (e : Xlat) : Bool := (e :: pageEntries s e).any (fun x => x.pin || x.rdup || !x.altv)

/-- MIGRATE accepted for a page that is not already migrating (R310): `tier` is the SPACE asked for. -/
def acceptMigration (s : State) (e : Xlat) (tier : Nat) (deadline : Word) : State :=
  let q := (s.core.num, deadline)
  let start := fun (t : State) (m : Migration) => { t with migrations := t.migrations ++ [{ m with id := t.nextId }], nextId := t.nextId + 1 }
  match e.state with
  | .absent =>
    if e.space = tier then
      start (updatePage s e.space e.phys e.size (fun x => { x with state := .migratingIn }))
        { id := 0, space := 5 - e.space, phys := e.alt, alt := e.phys, size := e.size, exchange := false, draining := false, requests := [q] }
    else
      let t := updatePage s e.space e.phys e.size (Xlat.exchange .present)
      countLate { t with regions := t.regions.map (Region.follow (placeKey 0 e.space e.phys) (placeKey 0 (5 - e.space) e.alt) e.size) } q
  | .present =>
    if e.space = tier then s
    else start (updatePage s e.space e.phys e.size (fun x => { x with state := .migratingOut }))
      { id := 0, space := e.space, phys := e.phys, alt := e.alt, size := e.size, exchange := true, draining := true, requests := [q] }
  | _ => s

/-- MIGRATE (R115). -/
def execCMigrate (y : BitVec 4) (h : Handle) (a b : Reg) (t : Bool) (s : State) : Host.Outcome State Fault Refusal :=
  issue .C y s (fun s =>
    match useHandle s.core h.val with
    | .error e => .raise e
    | .ok o =>
      let va := (BitVec.ofNat 64 o.base + s.rs a).toNat
      let tier := if t then 3 else 2
      let trap := fun (c : Cause) => match (piecesOf s.core.ltt va 1).head? with
        | none => ({ cause := c } : TrapInfo)
        | some p => { cause := c, addr := BitVec.ofNat 64 va, hnd := hndWord h.val (some o), aux0 := s.rs a,
                      aux1 := (pieceAux p false).1, aux2 := (pieceAux p false).2 }
      if o.space ≠ 2 ∧ o.space ≠ 3 then .raise (illegal .C s)
      else match lookup s.core.ltt va with
        | none => .raise (trap .programAddress)
        | some (_, e) =>
          if pageFixed s e then .raise (trap .permission)
          else match migrationOf s e with
            | none => if e.state = .migratingOut ∧ e.space = tier then .raise (illegalSequence .C s)
              else .retire (acceptMigration s e tier (s.rs b))
            | some m =>
              if 5 - m.space ≠ tier then .raise (illegalSequence .C s)
              else .retire { s with migrations := s.migrations.map (fun x =>
                if x.id = m.id then { x with requests := x.requests ++ [(s.core.num, s.rs b)] } else x) })

/-! ### The course of a migration (R311, R312) -/

/-- The in-flight count of a page is 0 (R311). -/
def drained (s : State) (m : Migration) : Bool :=
  let k := placeKey 0 m.space m.phys
  s.flights.all (fun f => f.held.all (fun r => !(decide (r.1 < k + m.size) && decide (k < r.1 + r.2))))

/-- MIGRATION_DRAIN_END: the page's count is 0 and its move begins (R310, R311). -/
def execMigrationDrainEnd (id : Nat) (s : State) : Host.Outcome State Fault Refusal :=
  match s.migrations.find? (fun m => m.id == id) with
  | none => .next s
  | some m =>
    if m.draining && drained s m then
      .next { updatePage s m.space m.phys m.size (fun e => { e with state := .migratingIn }) with
        migrations := s.migrations.map (fun x => if x.id = id then { x with draining := false } else x) }
    else .next s

/-- Move bytes: those at `src` become those at `dst` too. -/
def moveBytes (m : List Host.Cell) (src dst size : Nat) : List Host.Cell :=
  let kept := m.filter (fun c => !(decide (dst ≤ c.1) && decide (c.1 < dst + size)))
  (m.filter (fun c => decide (src ≤ c.1) && decide (c.1 < src + size))).foldl (fun t c => Memory.set t (dst + (c.1 - src)) c.2) kept

/-- Everything that names bytes of a page by key follows the page (R214). -/
def rebase (s : State) (src dst size : Nat) : State :=
  let key := followKey src dst size
  let sector := fun (n : Nat) => key (32 * n) / 32
  let seg := fun (g : Seg) => { g with key := key g.key, src := g.src.map key }
  let elem := fun (e : Elem) => { e with key := key e.key }
  let job := fun (j : Job) => match j with
    | .atomic o ty es v => .atomic o ty (es.map elem) v
    | .nm o ty es v => .nm o ty (es.map elem) v
    | .embag q n t r c l f b w x y => .embag q n t r c l f b (w.map (fun p => { p with items := p.items.map (fun i => { i with key := key i.key }) })) x y
    | .kvatt q n c t f k sc qs w x y => .kvatt q n c t f k sc qs (w.map (fun p => { p with tokens := p.tokens.map (fun i => { i with key := key i.key }) })) x y
    | j => j
  let inside := fun (k : Nat) => decide (src ≤ k) && decide (k < src + size)
  { s.onCores (fun k => { k with lastRead := k.lastRead.map (fun r =>
      { r with sectors := r.sectors.map sector, written := r.written.map sector }) }) with
    flights := s.flights.map (fun f => { f with todo := f.todo.map seg, far := f.far.map (fun r => (key r.1, r.2)), job := job f.job })
    echoes := s.echoes.map (fun e => { e with key := key e.key })
    watch := s.watch.map (fun w => { w with sector := sector w.sector })
    regions := s.regions.map (Region.follow src dst size)
    poison := (s.poison.filter inside).map key ++ s.poison.filter (fun k => !(decide (dst ≤ k) && decide (k < dst + size))) }

/-- The accesses of a core that waited for a page that has arrived start again (R309). -/
def Core.wakeArrived (now : Nat) (k : Core) : Core :=
  let wake := fun (v : StreamState) => match v.status with
    | .waiting (.migratingIn i) _ => if k.ltt.any (fun e => e.1 == i && decide (e.2.state = .migratingIn)) then v else { v.run now with pages := i :: v.pages }
    | _ => v
  if k.pending.isSome then k else { k with c := wake k.c, a := wake k.a }

/-- The sectors of a page whose bytes were behind a failed archive link: they come uncorrectable to the page's place (R330, R381). -/
def lostSectors (s : State) (src dst size : Nat) : List Nat :=
  if s.deadChips.isEmpty then []
  else ((List.range (size / 32)).filter (fun i => s.cutOff (src + 32 * i) 32)).map (fun i => dst + 32 * i)

/-- MIGRATION_ARRIVAL: the page is in place, its STATE becomes present, what waited for it goes on, and each core that asked is
judged (R309, R312). -/
def execMigrationArrival (id : Nat) (s : State) : Host.Outcome State Fault Refusal :=
  match s.migrations.find? (fun m => m.id == id) with
  | none => .next s
  | some m =>
    if m.draining then .next s
    else
      let src := placeKey 0 m.space m.phys
      let dst := placeKey 0 (5 - m.space) m.alt
      let t := rebase { s with mem := moveBytes s.mem src dst m.size } src dst m.size
      let t := { t with poison := t.poison ++ lostSectors s src dst m.size }
      let t := { t with migrations := t.migrations.filter (fun x => x.id != id) }
      let t := if m.exchange then updatePage t m.space m.phys m.size (Xlat.exchange .present)
        else updatePage t (5 - m.space) m.alt m.size (fun e => { e with state := .present })
      .next ((m.suspended.foldl countSaved (m.requests.foldl countLate t)).onCores (Core.wakeArrived s.now))

/-! ### Read-duplicated pages (R313) -/

/-- The places that an operation has been given to read and has still to read: those of a load, the sources of a copy or a PUT, and the
rows that archive units have still to read. -/
def Flight.unread (f : Flight) : List (Nat × Nat) :=
  (if f.write then [] else f.todo.map (fun g => (g.key, g.len))) ++ f.todo.filterMap (fun g => g.src.map (fun k => (k, g.len))) ++
    (match f.job with
      | .copy _ (some x) => x.2.map (fun g => (g.key, g.len))
      | .embag _ _ _ _ _ _ _ _ (some p) _ _ => p.items.map (fun i => (i.key, 256))
      | .kvatt _ _ _ _ _ _ _ _ (some p) _ _ => p.tokens.map (fun i => (i.key, 512))
      | _ => [])

/-- The other copies of a page that is read-duplicated: their places (R313). -/
def copiesOf (s : State) (space phys size : Nat) : List Nat :=
  (s.cores.flatMap (fun k => k.ltt.filterMap (fun e => if e.2.isPage space phys size && e.2.rdup then some e.2.alt else none))).eraseDups

/-- No read issued to the other copy of a page is still out. A write that waits for an acknowledgement has read nothing yet, and holds back
none: what it is to read there it reads at PHYS. -/
def copyQuiet (s : State) (space phys size : Nat) : Bool :=
  (copiesOf s space phys size).all (fun alt =>
    let a := placeKey 0 space alt
    s.flights.all (fun f => !f.dups.isEmpty || f.unread.all (fun g => !(decide (g.1 < a + size) && decide (a < g.1 + g.2)))))

/-- What an operation is to read from one place it reads from another. -/
def Flight.redirect (src dst size : Nat) (f : Flight) : Flight :=
  let seg := fun (g : Seg) => { g with src := g.src.map (followKey src dst size) }
  { f with
    todo := f.todo.map seg
    job := match f.job with
      | .copy n (some x) => .copy n (some (x.1, x.2.map (fun g => { g with key := followKey src dst size g.key })))
      | j => j }

/-- RDUP_INVALIDATE_ACK: the other copy of a page that an operation writes acknowledges; RDUP is cleared in every matching
entry, and writes that wait for it go on, which read the page at PHYS (R313). -/
def execRdupInvalidateAck (op : Nat) (s : State) : Host.Outcome State Fault Refusal :=
  match s.flight? op with
  | none => .next s
  | some f =>
    match f.dups with
    | [] => .next s
    | d :: _ =>
      if copyQuiet s d.1 d.2.1 d.2.2 then
        let t := updatePage s d.1 d.2.1 d.2.2 (fun e => { e with rdup := false, alt := 0 })
        let moved := fun (g : Flight) => if g.dups.isEmpty then g else (copiesOf s d.1 d.2.1 d.2.2).foldl (fun (g : Flight) alt =>
          g.redirect (placeKey 0 d.1 alt) (placeKey 0 d.1 d.2.1) d.2.2) g
        .next { t with flights := t.flights.map (fun g => { moved g with dups := g.dups.filter (· != d) }) }
      else .next s

end Sys2Proof.Machine
end

