-- ==== Sys2Proof/Machine/Control.lean ====
section
/-! DEFINITION. The C-stream's core-store words, format words, handles, barriers, fences, tokens, the tape binding, traps,
and the supervisor's translation and region instructions (R101, R102, R105–R114, R116–R123). -/
namespace Sys2Proof.Machine

/-! ### CORE as the C-stream reads and writes it (R101, R227–R229) -/

/-- Bytes of CORE at an offset, or ECC_UNCORRECTABLE (R381): what has committed, as every agent sees it (R228). -/
def coreRead (s : State) (off n : Nat) : Except TrapInfo (List Byte) :=
  let k := coreKey s.core.num off
  if s.poisoned k n then .error { cause := .eccUncorrectable, aux0 := 0 } else .ok (s.bytes k n)

/-- An access of the C-stream to these bytes of CORE performs after some operations of its core: an acquire before it (R229), what a release
before it waits for (R226), a store of the A-stream to the same bytes, which it follows (R227). Each goes on at once while the access
is under way (`dueHeld`): there is no wait on an agent outside the device, and what only such an agent can end is not followed
(R36; DEDUCED, log 117). -/
def coreHeld (s : State) (off n : Nat) : Bool :=
  let out := outsideOps s
  (orderAfter s 0 0 [0]).any (fun i => !out.contains i) ||
    s.flights.any (fun f => f.core == s.core.num && !f.orphan && f.job == .store && !out.contains f.id &&
      f.todo.any (fun g => decide (g.key < coreKey s.core.num off + n) && decide (coreKey s.core.num off < g.key + g.len)))

/-- The access is under way: it performs as soon as what it follows has (R36). -/
def holdC (s : State) : Act := .leave (s.setStream .C { s.core.c with held := true })

/-- Read bytes of CORE for an instruction of the C-stream, once nothing holds the access back. -/
def coreLoad (s : State) (off n : Nat) (k : List Byte → Act) : Act :=
  if coreHeld s off n then holdC s
  else match coreRead s off n with
    | .error t => .raise t
    | .ok l => k l

/-- A write of the C-stream to CORE: it commits at once. -/
def coreWrite (s : State) (off : Nat) (data : List Byte) : State := commitBytes s (coreKey s.core.num off) data

/-- The byte offset of LDW and STW: sA + 8 × SEXT(OFF11) (R101). -/
def wordOffset (s : State) (a : Reg) (o : BitVec 11) : Nat := (s.rs a + 8 * sext o).toNat

/-- What a core-store word out of place raises (R101). -/
def wordFault (s : State) (off : Nat) (write : Bool) : Option TrapInfo :=
  if off % 8 ≠ 0 then some (illegal .C s)
  else if coreBytes < off + 8 then
    some { cause := .programAddress, addr := BitVec.ofNat 64 off, aux1 := if write then 512 else 0 }
  else none

/-- LDW (R101). -/
def execCLdw (y : BitVec 4) (d a : Reg) (o : BitVec 11) (s : State) : Host.Outcome State Fault Refusal :=
  issue .C y s (fun s =>
    match wordFault s (wordOffset s a o) false with
    | some t => .raise t
    | none => coreLoad s (wordOffset s a o) 8 (fun l => .retire (s.ws d (BitVec.ofNat 64 (leNat l)))))

/-- STW: stores sD (R101). -/
def execCStw (y : BitVec 4) (d a : Reg) (o : BitVec 11) (s : State) : Host.Outcome State Fault Refusal :=
  issue .C y s (fun s =>
    match wordFault s (wordOffset s a o) true with
    | some t => .raise t
    | none =>
      if coreHeld s (wordOffset s a o) 8 then holdC s
      else .retire (coreWrite s (wordOffset s a o) (leBytes 8 (s.rs d).toNat)))

/-- Push a format word, waiting for room (R102). -/
def pushFormat (s : State) (x : Word) : Act :=
  if 64 ≤ s.core.fq.items.length then .block s (.push 8 1) else .retire (s.setCore { s.core with fq := s.core.fq.push x })

/-- FPUSH (R102). -/
def execCFpush (y : BitVec 4) (a : Reg) (s : State) : Host.Outcome State Fault Refusal :=
  issue .C y s (fun s => pushFormat s (s.rs a))

/-- FPUSHI (R102). -/
def execCFpushi (y : BitVec 4) (i : BitVec 21) (s : State) : Host.Outcome State Fault Refusal :=
  issue .C y s (fun s => pushFormat s (zext i))

/-! ### Handles (R105–R107) -/

/-- SEAL_FAIL with a reason (R105, R287). -/
def sealTrap (h reason : Nat) : TrapInfo := { cause := .sealFail, detail := BitVec.ofNat 8 reason, hnd := hndWord h none }

/-- SEAL (R105). -/
def execCSeal (y : BitVec 4) (h : Handle) (a : Reg) (s : State) : Host.Outcome State Fault Refusal :=
  issue .C y s (fun s =>
    let off := (s.rs a).toNat
    if off % 8 ≠ 0 ∨ coreBytes < off + 96 then .raise (illegal .C s)
    else coreLoad s off 96 (fun raw => match sealReason s s.core.ltt raw with
      | some n => .raise (sealTrap h.val n)
      | none =>
        if (s.core.handle h.val).isSome then .raise (sealTrap h.val 13)
        else .retire (s.setCore { s.core with handles := insertEntry h.val (sealed s raw) s.core.handles })))

/-- UNSEAL (R106). -/
def execCUnseal (y : BitVec 4) (h : Handle) (s : State) : Host.Outcome State Fault Refusal :=
  issue .C y s (fun s => .retire (s.setCore { s.core with handles := eraseEntry h.val s.core.handles }))

/-! ### Barriers, fences and tokens (R108–R114) -/

/-- What a DBAR waits for: every access of the core in focus, as a release does, but for those through the fabric, which no scope
narrower than `.fab` covers (R42, R229, R230). -/
def barrierOps (s : State) : List Nat := coveredOps s 2

/-- The stores, copies, atomics and other operations of the core in focus that END and FLUSH wait for. -/
def ownWrites (s : State) : List Nat := s.opsWhere (fun f => f.core == s.core.num && !f.job.reads)

/-- The phase that a DBAR of a level awaits: the one after those completed (R40, R288). -/
def phaseAwaited (k : Core) (level : Nat) : Nat := ((if level = 0 then k.gphase else k.tphase) + 1).toNat

/-- DBAR (R42, R108): once what precedes it has committed it releases and arrives; BARRIER_COMPLETE ends its wait. -/
def execCDbar (y : BitVec 4) (l : BitVec 2) (s : State) : Host.Outcome State Fault Refusal :=
  issue .C y s (fun s =>
    let w : Wait := .dbar l.toNat (phaseAwaited s.core l.toNat)
    let left := s.still (s.core.c.awaited.getD (barrierOps s))
    let t := s.setStream .C { s.core.c with awaited := some left }
    if s.core.sup then .raise (illegalSequence .C s)
    else if s.core.c.woken then .retire s
    else if s.arrived s.core.num then .block s w
    else if !left.isEmpty then .block t w
    else .block { t.release s.core.num with arrivals := s.arrivals ++ [⟨s.core.num, l.toNat, s.now⟩] } w)

/-- GENF (R113). -/
def execCGenf (y : BitVec 4) (s : State) : Host.Outcome State Fault Refusal :=
  issue .C y s (fun s => if s.core.softPending then .block s .genf else .retire (s.setCore { s.core with gen := s.core.gen + 1 }))

/-- FENCE of the C-stream (R109): it reports nothing (R128). -/
def execCFence (y : BitVec 4) (o sc : BitVec 2) (s : State) : Host.Outcome State Fault Refusal :=
  issue .C y s (fun s => awaitOps .C 0x54 s (fenceOps s o sc) (fun s =>
    let s := if isRel o then s.release s.core.num else s
    .retire (if isAcq o then s.acquire s.core.num else s)))

/-- The 64-byte lines of some parts of NEAR and ARCH: first line and how many, for each part (R110). -/
def linesOf (n : Nat) (ps : List Piece) : List (Nat × Nat) :=
  (segsOf n true ps).map (fun g => (g.key / 64, (g.key + g.len - 1) / 64 - g.key / 64 + 1))

/-- FLUSH (R110): what precedes it has committed, then the host answers a snoop for every line. -/
def execCFlush (y : BitVec 4) (h : Handle) (a b : Reg) (s : State) : Host.Outcome State Fault Refusal :=
  issue .C y s (fun s =>
    match useHandle s.core h.val with
    | .error e => .raise e
    | .ok o =>
      let off := (s.rs a).toNat
      let n := (s.rs b).toNat
      if o.space = 0 ∨ o.space = 4 then .raise (illegal .C s)
      else if n = 0 ∨ (o.space ≠ 2 ∧ o.space ≠ 3) then .retire s
      else if o.footprint < off + n then
        .raise { cause := .programAddress, addr := BitVec.ofNat 64 (o.base + off), hnd := hndWord h.val (some o), aux0 := s.rs a }
      else awaitOps .C 0x55 s (ownWrites s) (fun s =>
        if s.core.c.woken then .retire s
        else
          let ls := linesOf s.core.num (piecesOf s.core.ltt (o.base + off) n)
          let id := s.nextId
          let t := s.begin { id := 0, core := s.core.num, stream := .C, pc := s.core.c.pc, job := .flush ((ls.map (·.2)).sum) }
          let t := { t with outputs := t.outputs ++ ls.map (fun (p : Nat × Nat) => Output.backInvalidate p.1 p.2) }
          .block (t.setStream .C { t.core.c with awaited := some [id], woken := true }) (.commits 0x55 [id])))

/-- The neighbour that SIDE names (R70, R24). -/
def sideOf (side : Bool) : StreamId := if side then rightOf .C else leftOf .C

/-- One sync-field signal of this word also goes to the neighbour on SIDE (R111). -/
def signalsTo (y : BitVec 4) (side : Bool) : Nat := if (if side then y.getLsbD 0 else y.getLsbD 1) then 1 else 0

/-- TSIG (R111). -/
def execCTsig (y : BitVec 4) (side : Bool) (n : BitVec 8) (s : State) : Host.Outcome State Fault Refusal :=
  issue .C y s (fun s =>
    if s.core.tokensOf .C (sideOf side) + n.toNat + signalsTo y side ≤ 255 then
      .retire (s.setCore (s.core.addTokens .C (sideOf side) n.toNat))
    else .block s (.room [((counter .C (sideOf side)).val, n.toNat + signalsTo y side)]))

/-- TWAIT (R111). -/
def execCTwait (y : BitVec 4) (side : Bool) (n : BitVec 8) (s : State) : Host.Outcome State Fault Refusal :=
  issue .C y s (fun s =>
    if n.toNat ≤ s.core.tokensOf (sideOf side) .C then .retire (s.setCore (s.core.takeTokens (sideOf side) .C n.toNat))
    else .block s (.take (counter (sideOf side) .C).val n.toNat))

/-- WFE: ended by a token count, by the delivery of a trap or by a soft pre-emption; it takes no token (R114). -/
def execCWfe (y : BitVec 4) (s : State) : Host.Outcome State Fault Refusal :=
  issue .C y s (fun s =>
    if s.core.c.woken || decide (0 < s.core.tokensOf .A .C) || decide (0 < s.core.tokensOf .X .C) || s.core.softPending then .retire s
    else .block s .wfe)

/-! ### The tape's binding (R116, R332, R333) -/

/-- A record of an access trap on a part of an object. -/
def pieceTrap (o : Shape) (h : Nat) (c : Cause) (write : Bool) (p : Piece) : TrapInfo :=
  { cause := c, addr := BitVec.ofNat 64 p.va, hnd := hndWord h (some o), aux0 := BitVec.ofNat 64 (p.va - o.base),
    aux1 := (pieceAux p write).1, aux2 := (pieceAux p write).2 }

/-- The translation checks of R332, in the order of R126. -/
def tapeFault (o : Shape) (h : Nat) (ps : List Piece) : Option TrapInfo :=
  match ps.find? (fun p => match p.entry with | none => true | some e => e.2.space != o.space) with
  | some p => some (pieceTrap o h .programAddress true p)
  | none =>
    match ps.find? (fun p => match p.entry with | none => false | some e => e.2.state != .present) with
    | some p => some (pieceTrap o h .pageAbsent true p)
    | none =>
      (ps.find? (fun p => match p.entry with | none => false | some e => !(e.2.w && e.2.pin))).map (pieceTrap o h .permission true)

/-- TAPEC (R116, R332): it unbinds, or binds the tape and writes its header. -/
def execCTapec (y : BitVec 4) (h : Handle) (a : Reg) (s : State) : Host.Outcome State Fault Refusal :=
  issue .C y s (fun s =>
    let n := (s.rs a).toNat
    if s.core.tape.mode = 1 then .raise (illegalSequence .C s)
    else match useHandle s.core h.val with
      | .error e => .raise e
      | .ok o =>
        if n = 0 then .retire (s.setTape { handle := h.val })
        else if n % 8 ≠ 0 ∨ n < 16 ∨ 2 ^ 28 ≤ n ∨ o.footprint < n ∨ o.space ≠ 2 then .raise (illegal .C s)
        else
          let ps := piecesOf s.core.ltt o.base n
          match tapeFault o h.val ps with
          | some t => .raise t
          | none =>
            let tp : Tape := { handle := h.val, limit := n / 8, obj := some o, xlats := tapeXlats s.core o 0 n }
            match tapeWrite (s.setTape tp) .C 0 (tapeHeader tp) with
            | .error e => .raise e
            | .ok t => .retire t)

/-! ### Traps and ending (R117–R119, R293) -/

/-- TRAP: it retires, its signals given, and raises the cause TRAP (R117). -/
def execCTrap (y : BitVec 4) (code : BitVec 16) (s : State) : Host.Outcome State Fault Refusal :=
  issue .C y s (fun s => whenRoom .C y s (.retireRaise s { cause := .trap, code := code }))

/-- A supervisor instruction raises PRIV in user mode before anything else is examined (R73, R118). -/
def supervisor (y : BitVec 4) (s : State) (body : State → Act) : Host.Outcome State Fault Refusal :=
  if s.core.sup then issue .C y s body else .next (raiseTrap .C s (privTrap .C s))

/-- RTT (R118, R293): a bank with FAIL set ends the launch; otherwise the streams go on, or, where a hard pre-emption waits
for it, stop where they would (R296). -/
def execCRtt (y : BitVec 4) (s : State) : Host.Outcome State Fault Refusal :=
  supervisor y s (fun s => whenRoom .C y s (
    let s := s.setCore (s.core.giveSync .C (y.setWidth 2))
    match s.core.banks.getLast? with
    | none => .leave s
    | some b =>
      if b.tcause.getLsbD 8 then .leave (failMember s (bits b.tcause 0 8))
      else
        let t := returnFromTrap s
        .leave (if t.core.banks.isEmpty && t.core.hardStop then stopMember t t.core.num else t)))

/-- HALT (R12, R119). -/
def execCHalt (y : BitVec 4) (s : State) : Host.Outcome State Fault Refusal :=
  issue .C y s (fun s =>
    if s.core.sup then .raise (illegalSequence .C s)
    else whenRoom .C y s (.finish (s.setCore { s.core with halted := true })))

/-! ### Supervisor instructions (R120, R121, R123) -/

/-- The operand block of a supervisor instruction: aligned and wholly inside CORE. -/
def operandBlock (s : State) (b : Reg) (align : Nat) (k : List Byte → Act) : Act :=
  let off := (s.rs b).toNat
  if off % align ≠ 0 ∨ coreBytes < off + 32 then .raise (illegal .C s) else coreLoad s off 32 k

/-- LTTW (R120, R306). -/
def execCLttw (y : BitVec 4) (a b : Reg) (s : State) : Host.Outcome State Fault Refusal :=
  supervisor y s (fun s =>
    let i := (s.rs a).toNat
    if 255 < i then .raise (illegal .C s)
    else operandBlock s b 32 (fun raw => match parseXlat s.ret0 s.ret1 raw with
      | none => .raise (illegal .C s)
      | some (valid, e) =>
        if valid && s.core.ltt.any (fun q => q.1 != i && q.2.overlaps e) then .raise (illegal .C s)
        else .retire (s.setCore { s.core with ltt := if valid then insertEntry i e s.core.ltt else eraseEntry i s.core.ltt })))

/-- LTTINV (R120). -/
def execCLttinv (y : BitVec 4) (a : Reg) (s : State) : Host.Outcome State Fault Refusal :=
  supervisor y s (fun s =>
    if 255 < (s.rs a).toNat then .raise (illegal .C s)
    else .retire (s.setCore { s.core with ltt := eraseEntry (s.rs a).toNat s.core.ltt }))

/-- The kinds and the element types they accept (R121). -/
def regionType (kind : Nat) (ty : ElemCode) : Bool :=
  match kind with
  | 0 => ty == 0 || ty == 1 || ty == 2 || floatTypes ty || isBinary8 ty
  | 1 => ty.toNat < 4 || floatTypes ty || isBinary8 ty
  | 2 | 4 => ty.toNat < 4 || floatTypes ty || isBinary8 ty
  | 3 => floatTypes ty
  | _ => false

/-- Entries of 32 bytes that a region takes in the digest table (R200). -/
def Region.tableEntries (g : Region) : Nat := g.size / g.blockBytes * (if g.watch then 2 else 1)

/-- Entries of 32 bytes of each die's half of the digest table, which firmware sets aside in steps of 256 MiB (R200). The table has no
place among the addresses that R306 makes valid (DEDUCED, log 223). -/
def State.tableSize (s : State) : Nat := s.tableSteps * 2 ^ 28 / 32

/-- The first free run of a die's half of the table, of `size` entries, that holds `n` entries (R200). -/
def freeRun (size : Nat) (regions : List Region) (die n : Nat) : Option Nat :=
  let mine := regions.filter (fun g => g.die == die)
  (0 :: mine.map (fun g => g.start + g.tableEntries)).foldl (fun (best : Option Nat) c =>
    let ok := decide (c + n ≤ size) &&
      mine.all (fun g => decide (c + n ≤ g.start) || decide (g.start + g.tableEntries ≤ c))
    match best with
    | none => if ok then some c else none
    | some x => if ok && decide (c < x) then some c else some x) none

/-- Where the data of a page is, as core `n` names places (R309): while it moves, where it has been until then. -/
def Xlat.dataKey (s : State) (n : Nat) (e : Xlat) : Nat :=
  match e.state with
  | .absent => placeKey n (5 - e.space) e.alt
  | .migratingIn => (match migrationOf s e with
    | some m => placeKey n m.space m.phys
    | none => placeKey n e.space e.phys)
  | _ => placeKey n e.space e.phys

/-- The parts of a range in NEAR or ARCH: offset, key and length; none if any byte lies elsewhere. -/
def regionPages (s : State) (base size : Nat) : Option (List (Nat × Nat × Nat)) :=
  let ps := piecesOf s.core.ltt base size
  if ps.all (fun p => match p.entry with | none => false | some e => e.2.space == 2 || e.2.space == 3) then
    some (ps.filterMap (fun p => p.entry.map (fun e => (p.va - base, e.2.dataKey s s.core.num + (p.va - e.2.vbase), p.len))))
  else none

/-- Two regions share physical bytes. -/
def Region.sharesBytes (g : Region) (pages : List (Nat × Nat × Nat)) : Bool :=
  g.pages.any (fun p => pages.any (fun q => decide (p.2.1 < q.2.1 + q.2.2) && decide (q.2.1 < p.2.1 + p.2.2)))

/-- The region that DREG declares from its 32 bytes (R89, R121, R207); none where a check fails. -/
def declared (s : State) (n : Nat) (raw : List Byte) : Option Region :=
  let kind := fieldAt raw 2 1
  let tyN := fieldAt raw 3 1
  let ty : ElemCode := BitVec.ofNat 6 tyN
  let lg := fieldAt raw 5 1
  let base := fieldAt raw 8 8
  let size := fieldAt raw 16 8
  let w := fieldAt raw 4 1
  if 4095 < n ∨ (s.region? n).isSome ∨ fieldAt raw 0 2 ≠ n ∨ fieldAt raw 6 2 ≠ 0 then none
  else if 64 ≤ tyN ∨ !regionType kind ty ∨ 1 < w ∨ (kind = 4 ∧ w = 0) ∨ lg < 3 ∨ 20 < lg then none
  else if 2 ^ lg < elemBytes ty * (if kind = 3 then 2 else 1) then none
  else if base % 2 ^ lg ≠ 0 ∨ size % 2 ^ lg ≠ 0 ∨ size = 0 then none
  else match regionPages s base size with
    | none => none
    | some pages =>
      if s.regions.any (fun g => (decide (g.base < base + size) && decide (base < g.base + g.size)) || g.sharesBytes pages) then none
      else
        let g : Region := { num := n, kind := kind, ty := ty, watch := w == 1, blockLog := lg, base := base, size := size,
                            seed := BitVec.ofNat 64 (fieldAt raw 24 8), space := 2, pages := pages, die := dieOf s.core.num, start := 0 }
        (freeRun s.tableSize s.regions g.die g.tableEntries).map (fun i => { g with start := i })

/-- DREG (R121). -/
def execCDreg (y : BitVec 4) (a b : Reg) (s : State) : Host.Outcome State Fault Refusal :=
  supervisor y s (fun s =>
    operandBlock s b 8 (fun raw => match declared s (s.rs a).toNat raw with
      | none => .raise (illegal .C s)
      | some g => .retire { s with regions := g :: s.regions }))

/-- Operations that have still to write in a region, or to query it. -/
def regionOps (s : State) (n : Nat) : List Nat :=
  match s.region? n with
  | none => []
  | some g => s.opsWhere (fun f => f.versionBlocks.any (fun q => q.1 == n) ||
      f.targets.any (fun p => !(g.meets p.1 p.2).isEmpty) || s.echoes.any (fun e => e.op == f.id && !(g.meets e.key e.new.length).isEmpty))

/-- The granules of a region's stamps. -/
def ofRegion (n g : Nat) : Bool := decide (2 ^ 70 + n * 2 ^ 40 ≤ g) && decide (g < 2 ^ 70 + (n + 1) * 2 ^ 40)

/-- DFREE (R123): its entries, their slots and stamps go with the region. -/
def execCDfree (y : BitVec 4) (a : Reg) (s : State) : Host.Outcome State Fault Refusal :=
  supervisor y s (fun s =>
    match s.region? (s.rs a).toNat with
    | none => .raise (illegal .C s)
    | some g =>
      let n := g.num
      let mine := fun (c : CacheSlot) => c.die == g.die && decide (g.start ≤ c.index) && decide (c.index < g.start + g.tableEntries)
      awaitOps .C 0x73 s (regionOps s n) (fun s => .retire { s with
        regions := s.regions.filter (fun g => g.num != n)
        entries := s.entries.filter (fun e => e.1.1 != n)
        stamps := s.stamps.filter (fun e => !ofRegion n e.1)
        cache := s.cache.filter (fun c => !mine c)
        writeback := s.writeback.filter (fun c => !mine c) }))

end Sys2Proof.Machine
end

