-- ==== Sys2Proof/Machine/Query.lean ====
section
/-! DEFINITION. The digest instructions DQRY, DQRYV, DQPF and DSCAN, and how their answers come (R146–R150, R215–R220). -/
namespace Sys2Proof.Machine

/-- The cycles of a digest answer: at the earliest 18 on a hit and 430 on a miss (R147, R218). -/
def queryReady (s : State) (wait : Option Nat) : Nat := if wait.isNone then s.now + 18 else s.now + 430

/-- The number of the named element in its block. -/
def elemInBlock (p : Operand) (g : Region) : Nat := (p.va - g.base) % g.blockBytes / elemBytes g.ty

/-- DQRY (R147). -/
def execADqry (y : BitVec 4) (qual : BitVec 4) (d : Reg) (h : Handle) (cf : Reg) (s : State) : Host.Outcome State Fault Refusal :=
  issue .A y s (fun s => operand s h cf.val [] [d.val] (fun p =>
    match regionOf s p with
    | none => .raise (illegal .A s)
    | some (g, k) =>
      let fld := fieldOf qual.toNat
      if !holdsField g.kind fld || fld == .sig then .raise (illegal .A s)
      else if !p.obj.inBounds p.crd 1 then .raise (p.outOfBounds false)
      else (checkQuery s [p] [blockSpan p g k 1]).act s (fun _ =>
        let u := useEntry s g k false
        .retire (u.1.begin { aFlight s (.dqry fld g.num k (elemInBlock p g)) with
          ready := queryReady s u.2, after := engineAfter s 0 0 [p.obj.space], spaces := [p.obj.space], fill := u.2
          reg := destReg d, hnd := hndWord p.hnd (some p.obj), va := p.va }))))

/-- DQRYV (R148): the entry is reserved at issue. -/
def execADqryv (y : BitVec 4) (qual : BitVec 4) (q : LqNum) (h : Handle) (cf b : Reg) (s : State) : Host.Outcome State Fault Refusal :=
  issue .A y s (fun s => operand s h cf.val [b.val] [] (fun p =>
    match regionOf s p with
    | none => .raise (illegal .A s)
    | some (g, k) =>
      let fld := fieldOf qual.toNat
      let n := (s.ra b).toNat
      if !holdsField g.kind fld || decide (n = 0) || decide (queryLimit fld < n) then .raise (illegal .A s)
      else if !p.obj.inBounds p.crd 1 || decide (g.size / g.blockBytes < k + n) then .raise (p.outOfBounds false)
      else (checkQuery s [p] [blockSpan p g k n]).act s (fun _ =>
        match lqWait s.core q 1 with
        | some w => .block s w
        | none =>
          let u := useEntry s g k false
          let f := { aFlight s (.dqryv q.val (s.core.loadQueue q).tail fld g.num ((List.range n).map (k + ·)) []) with
            ready := queryReady s u.2, after := engineAfter s 0 0 [p.obj.space], spaces := [p.obj.space], fill := u.2
            hnd := hndWord p.hnd (some p.obj), va := p.va }
          .retire ((u.1.setCore (u.1.core.reserve q 1)).begin f))))

/-- DQPF (R149): a fill that finds its set wholly pinned is dropped (R219). -/
def execADqpf (y : BitVec 4) (h : Handle) (cf b : Reg) (s : State) : Host.Outcome State Fault Refusal :=
  issue .A y s (fun s => operand s h cf.val [b.val] [] (fun p =>
    match regionOf s p with
    | none => .raise (illegal .A s)
    | some (g, k) =>
      let n := min (min 65536 (s.ra b).toNat) (g.size / g.blockBytes - k)
      .retire ((List.range n).foldl (fun (t : State) i => (useEntry t g (k + i) false).1) s)))

/-- DSCAN (R150). -/
def execADscan (y : BitVec 4) (h : Handle) (cf b : Reg) (s : State) : Host.Outcome State Fault Refusal :=
  issue .A y s (fun s => operand s h cf.val [b.val] [] (fun p =>
    match regionOf s p with
    | none => .raise (illegal .A s)
    | some (g, k) =>
      let n := (s.ra b).toNat
      if n = 0 ∨ 65536 < n then .raise (illegal .A s)
      else if !p.obj.inBounds p.crd 1 || decide (g.size / g.blockBytes < k + n) then .raise (p.outOfBounds false)
      else (checkSpans s [p] [blockSpan p g k n]).act s (fun _ =>
        .retire (s.begin { aFlight s (.dscan g.num ((List.range n).map (k + ·))) with
          after := engineAfter s 0 0 [p.obj.space], spaces := [p.obj.space], hnd := hndWord p.hnd (some p.obj), va := p.va }))))

/-! ### Answers -/

/-- A query may take its next point: its data has had its least latency, its fill is over, and nothing before it holds it back. -/
def queryMay (s : State) (f : Flight) : Bool :=
  decide (f.ready ≤ s.now) && (f.fill.isNone || f.fill == some 0) && mayPerform s f

/-- The next point of a query: `k` continues with the entry; on a miss the query waits for its slot instead (R218, R219). -/
def queryPoint (s : State) (f : Flight) (k : State → Region → Entry → Bool → State) : State :=
  match f.queryBlock with
  | none => s
  | some (n, b) => match s.region? n with
    | none => s
    | some g =>
      match useEntry s g b false with
      | (t, some w) => t.putFlight { f with fill := some w }
      | (t, none) => let r := readEntry t g b; k r.1 g r.2.1 r.2.2

/-- What the next point of a query needs of the cache can be had: its fill is over, or it can start one now (R219). -/
def queryGo (s : State) (f : Flight) : Bool :=
  match f.fill with
  | none => true
  | some 0 => !s.slotWaits (f.queryBlock.bind (fun q => (s.region? q.1).map (fun g => (g, q.2))))
  | some _ => false

/-- A step of an LDV: before it reads its block's version it has the entry, as a query has (R216, R219). -/
def blockStep (s : State) (f : Flight) : State :=
  match f.queryBlock.bind (fun q => (s.region? q.1).map (fun g => (g, q.2))) with
  | none => loadStep s f
  | some (g, b) => match useEntry s g b false with
    | (t, some w) => t.putFlight { f with fill := some w }
    | (t, none) => loadStep t f

/-- DQRY's answer (R147). -/
def answerQuery (s : State) (f : Flight) : State :=
  match f.job with
  | .dqry fld _ _ i => queryPoint s f (fun t g e bad =>
      endFlight (setAddr t f.core f.reg (queryValue g e fld i)) { f with error := if bad then some (entryEcc f) else f.error })
  | _ => s

/-- The next block of a DQRYV (R148): after the last, its entry is filled. -/
def answerVector (s : State) (f : Flight) : State :=
  match f.job with
  | .dqryv q seq fld g (_ :: rest) got => queryPoint s f (fun t r e bad =>
      let f := { f with job := .dqryv q seq fld g rest (got ++ queryLanes r e fld), fill := none
                        error := if bad then some ((f.error).getD (entryEcc f)) else f.error }
      if rest.isEmpty then (fillLq t f.core q seq (entryOf f (vecOfLanes (got ++ queryLanes r e fld)))).dropFlight f.id
      else t.putFlight f)
  | _ => s

/-- REGISTER_VALUE_ARRIVAL: the value of an LDA or a DQRY (R129, R139, R147). -/
def execRegisterValueArrival (op : Nat) (s : State) : Host.Outcome State Fault Refusal :=
  match s.flight? op with
  | none => .next s
  | some f => match f.job with
    | .lda _ => .next (if f.ready ≤ s.now ∧ mayPerform s f ∧ !f.atHost then loadStep s f else s)
    | .dqry _ _ _ _ => .next (if queryMay s f then answerQuery s f else s)
    | _ => .next s

/-- LOAD_DATA_ARRIVAL: data of LD, LDT, LDV or DQRYV (R22, R135, R137, R138, R148). -/
def execLoadDataArrival (op : Nat) (s : State) : Host.Outcome State Fault Refusal :=
  match s.flight? op with
  | none => .next s
  | some f => match f.job with
    | .ld _ _ _ => .next (if f.ready ≤ s.now ∧ mayPerform s f ∧ !f.atHost then loadStep s f else s)
    | .ldt _ _ => .next (if f.ready ≤ s.now ∧ mayPerform s f ∧ !f.atHost then loadStep s f else s)
    | .ldv _ _ _ _ _ _ _ _ _ => .next (if queryMay s f then blockStep s f else s)
    | .dqryv _ _ _ _ _ _ => .next (if queryMay s f then answerVector s f else s)
    | _ => .next s

/-- DSCAN_BLOCK_REBUILD: the next block of a DSCAN, in one commit step at its port (R150). -/
def execDscanBlockRebuild (op : Nat) (s : State) : Host.Outcome State Fault Refusal :=
  match s.flight? op with
  | none => .next s
  | some f => match f.job with
    | .dscan g (b :: rest) =>
      if !mayPerform s f || decide (s.now < f.issued + hitCycles) then .next s
      else match s.region? g with
        | none => .next (s.dropFlight op)
        | some r =>
          .next (withSlot s (some (r, b)) (fun s =>
            let p := rebuild s r b
            let t := (useEntry p.1 r b true).1
            let f := { f with job := .dscan g rest, error := if p.2 then some ((f.error).getD (eccAt f (r.keyAt (b * r.blockBytes)))) else f.error }
            if rest.isEmpty then endFlight t f else t.putFlight f))
    | _ => .next s

/-- DIGEST_FILL_COMPLETE: a slot's fill is over; the queries that wait for it go on (R218, R219). -/
def execDigestFillComplete (slot : Nat) (s : State) : Host.Outcome State Fault Refusal :=
  match s.cache.find? (fun c => c.id == slot) with
  | none => .next s
  | some c => match c.filling with
    | none => .next s
    | some t =>
      if s.now < t then .next s
      else .next { s with
        cache := s.cache.map (fun x => if x.id = slot then { x with filling := none } else x)
        flights := s.flights.map (fun f => if f.fill = some slot then { f with fill := none } else f) }

/-- DIGEST_WRITEBACK_END: an evicted slot is in the table again (R220). -/
def execDigestWritebackEnd (slot : Nat) (s : State) : Host.Outcome State Fault Refusal :=
  .next { s with writeback := s.writeback.filter (fun c => c.id != slot) }

end Sys2Proof.Machine
end

