-- ==== Sys2Proof/Machine/Completions.lean ====
section
/-! DEFINITION. What ends a wait, and what completes an operation: resumption, watchdogs, command bounds, commits, host
requests, stamp checks, barriers and the delivery of traps (R27, R36–R42, R143–R145, R209, R238, R288–R294, R372). -/
namespace Sys2Proof.Machine

/-! ### Waits (R36) -/

/-- Entries in a queue by its code of R65, 8 for fq, and its sequence word. -/
def Core.queueLen (k : Core) (q : Nat) : Nat :=
  match q with
  | 4 => k.sq.items.length
  | 5 => k.vq.items.length
  | 6 => k.bqa.items.length
  | 7 => k.bqx.items.length
  | 8 => k.fq.items.length
  | _ => (k.lq[Fin.ofNat 4 q]).items.length

/-- TAIL << 32 OR HEAD of a queue (R288). -/
def Core.queueSeq (k : Core) (q : Nat) : Word :=
  match q with
  | 4 => k.sq.seqWord
  | 5 => k.vq.seqWord
  | 6 => k.bqa.seqWord
  | 7 => k.bqx.seqWord
  | 8 => k.fq.seqWord
  | _ => (k.lq[Fin.ofNat 4 q]).seqWord

/-- The outcome bit at the head of a queue may be popped: it is there, and 2 cycles old (R32). -/
def bitReady (q : Queue OutBit) (now : Nat) : Bool :=
  match q.items with
  | [] => false
  | e :: _ => e.error.isSome || (e.bit.isSome && decide (e.since + 2 ≤ now))

/-- What a pop of `n` entries waits for is there. -/
def popReady (s : State) (q n : Nat) : Bool :=
  match q with
  | 6 => bitReady s.core.bqa s.now
  | 7 => bitReady s.core.bqx s.now
  | _ => decide (n ≤ s.core.queueLen q)

/-- The data of the reserved entry at the head of a queue has arrived (R22, R138). -/
def entryReady (k : Core) (q : Nat) : Bool :=
  match q with
  | 6 => (match k.bqa.items with | e :: _ => e.bit.isSome || e.error.isSome | [] => true)
  | 7 => (match k.bqx.items with | e :: _ => e.bit.isSome || e.error.isSome | [] => true)
  | _ => (match (k.lq[Fin.ofNat 4 q]).items with | e :: _ => e.data.isSome || e.error.isSome | [] => true)

/-- An instruction that joins other copies on its token (R129). -/
def joinsToken : Option Instr → Bool
  | some (.aCpy _ _ _ _ _ _ _ _) => true
  | some (.aCpy2d _ _ _ _ _ _ _ _) => true
  | some (.aCpyx _ _ _ _ _ _ _ _) => true
  | some (.aPut _ _ _ _ _ _ _ _) => true
  | some (.aPut2d _ _ _ _ _ _ _ _) => true
  | some (.aGet _ _ _ _ _ _ _ _) => true
  | some (.aGet2d _ _ _ _ _ _ _ _) => true
  | _ => false

/-- A slot is free for the copy or the collective at the A-stream's pc, with nothing that the collective must follow (DEDUCED, log 235),
or its group is no longer one to wait for (R143, R164, R344, R366). -/
def slotFree (s : State) (opcode : Nat) : Bool :=
  if opcode < 0x88 then decide (copySlots s < 128)
  else decide (collSlots s < 8) && (engineAfter s 0 0 [4]).isEmpty && (match (groupReg (instrAtA s)).bind (fun b => s.group? ((s.ra b).toNat % 4096)) with
    | none => true
    | some g => !g.reopens && (g.state != .open || (decide (g.next ≤ g.low + 255) && decide (g.next < 2 ^ 31))))

/-- What a stream of the core in focus waits for has come. -/
def satisfied (s : State) (st : StreamId) (w : Wait) : Bool :=
  match w with
  | .tokens l r => (!l || decide (0 < s.core.tokensOf (leftOf st) st)) && (!r || decide (0 < s.core.tokensOf (rightOf st) st))
  | .room want => want.all (fun c => decide (s.core.tokens.toList.getD c.1 0 + c.2 ≤ 255))
  | .take c n => decide (n ≤ s.core.tokens.toList.getD c 0)
  | .pop q n => popReady s q n
  | .push q n => decide (s.core.queueLen q + n ≤ queueDepth q)
  | .slip _ n => decide (s.core.slip + n ≤ s.core.slipmax.toNat)
  | .entry q => entryReady s.core q
  | .scoreboard r => (s.writers r).isEmpty || (joinsToken (instrAtA s) && (s.writers r).all (fun f => f.job.counts))
  | .accumulator z => (s.core.accOps (Fin.ofNat 4 z)).isEmpty
  | .tileReaders t => (s.core.tileOps (Fin.ofNat 8 t)).isEmpty
  | .commits op ids => (s.still ids).isEmpty && (op != 0x1C || st != .X || s.core.matrix.isEmpty)
  | .dbar _ _ => !s.arrived s.core.num && (s.still (s.core.c.awaited.getD [])).isEmpty
  | .copySlot op => slotFree s op
  | .matrixAccept _ => decide ((s.core.matrix.filter (fun o => o.started.isNone)).length < 4)
  | .wfe => decide (0 < s.core.tokensOf .A .C) || decide (0 < s.core.tokensOf .X .C) || s.core.softPending
  | .genf => !s.core.softPending
  | .migratingIn i => !(s.core.ltt.any (fun e => e.1 == i && decide (e.2.state = .migratingIn)))
  | .waita _ _ => s.watch.any (fun w => w.core == s.core.num && w.woken)
  | .stampCheck _ => false
  | .saveTransfer => false

/-- Once a trap awaits delivery, a wait still ends only where it is no stop of R289 (DEDUCED, log 15): a wait that was satisfied
before has ended before (see `dueTurns`). -/
def mayResume (k : Core) (w : Wait) : Bool := k.pending.isNone || !w.stops

/-- The bit that a wait for one needs was there within the wait's bound: with a bound of 0 it is too late in the next cycle (R32, R38). -/
def inBound (s : State) (st : StreamId) (w : Wait) (since : Nat) : Bool :=
  let last := min s.now (since + (s.core.wd st).toNat)
  match w with
  | .pop 6 _ => bitReady s.core.bqa last
  | .pop 7 _ => bitReady s.core.bqx last
  | _ => true

/-- A wait that began in cycle `since` has ended as what it waits for came. -/
def waitOver (s : State) (st : StreamId) (w : Wait) (since : Nat) : Bool :=
  satisfied s st w && inBound s st w since && mayResume s.core w

/-- A stream whose wait is satisfied goes on: it gives the signals that it owes (R27), and its instruction starts again. -/
def resumeStream (s : State) (st : StreamId) (p : Wait → Bool) : State :=
  let v := s.stream st
  match v.status with
  | .waiting w t =>
    if p w && waitOver s st w t then
      (s.setCore (s.core.giveSync st v.psig)).setStream st { v.run s.now with psig := 0 }
    else s
  | _ => s

/-- TOKEN_WAIT_RESUME (R25, R27, R111, R113, R114). -/
def execTokenWaitResume (st : StreamId) (s : State) : Host.Outcome State Fault Refusal :=
  .next (resumeStream s st (fun w => match w with | .tokens _ _ => true | .room _ => true | .take _ _ => true | .wfe => true | .genf => true | _ => false))

/-- QUEUE_WAIT_RESUME (R21, R22, R32). -/
def execQueueWaitResume (st : StreamId) (s : State) : Host.Outcome State Fault Refusal :=
  .next (resumeStream s st (fun w => match w with | .pop _ _ => true | .push _ _ => true | .entry _ => true | _ => false))

/-- SLIP_STALL_RESUME (R30, R161). -/
def execSlipStallResume (s : State) : Host.Outcome State Fault Refusal :=
  .next (resumeStream s .A (fun w => match w with | .slip _ _ => true | _ => false))

/-- SCOREBOARD_WAIT_RESUME (R129, R274). -/
def execScoreboardWaitResume (st : StreamId) (s : State) : Host.Outcome State Fault Refusal :=
  .next (resumeStream s st (fun w => match w with | .scoreboard _ => true | .accumulator _ => true | .tileReaders _ => true | _ => false))

/-- COPY_SLOT_FREE (R143, R164). -/
def execCopySlotFree (s : State) : Host.Outcome State Fault Refusal :=
  .next (resumeStream s .A (fun w => match w with | .copySlot _ => true | _ => false))

/-- MATRIX_ACCEPT_RESUME (R271). -/
def execMatrixAcceptResume (s : State) : Host.Outcome State Fault Refusal :=
  .next (resumeStream s .X (fun w => match w with | .matrixAccept _ => true | _ => false))

/-- COMMIT_WAIT_RESUME: a fence, an END, a FLUSH or the arrival of a DBAR goes on (R42, R109). -/
def execCommitWaitResume (st : StreamId) (s : State) : Host.Outcome State Fault Refusal :=
  .next (resumeStream s st (fun w => match w with | .commits _ _ => true | .dbar _ _ => true | _ => false))

/-! ### Watchdogs (R37–R40, R288) -/

/-- The first counter of some that fails a test, and its value: where both fail, the left one's (DESIGN CHOICE, log 215). -/
def counterAux (k : Core) (l : List Nat) (bad : Nat → Bool) : Word × Word :=
  match l.find? bad with
  | some c => (BitVec.ofNat 64 c, BitVec.ofNat 64 (k.tokens.toList.getD c 0))
  | none => (0, 0)


/-- DETAIL, taux0 and taux1 of WATCHDOG for a wait (R288); none for the wait of R309, whose kind the spec does not give. -/
def watchdogAux (s : State) (st : StreamId) (w : Wait) : Option (Nat × Word × Word) :=
  let n := fun (x : Nat) => BitVec.ofNat 64 x
  match w with
  | .tokens l r =>
    let cs := (if l then [(counter (leftOf st) st).val] else []) ++ (if r then [(counter (rightOf st) st).val] else [])
    let a := counterAux s.core cs (fun c => s.core.tokens.toList.getD c 0 == 0)
    some (2, a.1, a.2)
  | .room want =>
    let a := counterAux s.core (want.map (·.1)) (fun c => want.any (fun q => q.1 == c && decide (255 < s.core.tokens.toList.getD c 0 + q.2)))
    some (2, a.1, a.2)
  | .take c _ => some (2, n c, n (s.core.tokens.toList.getD c 0))
  | .pop q _ => some (1, n q, s.core.queueSeq q)
  | .push q _ => some (1, n q, s.core.queueSeq q)
  | .slip q _ => some (1, n q, s.core.queueSeq q)
  | .entry q => some (1, n q, s.core.queueSeq q)
  | .scoreboard r => some (3, n r, n (s.writers r).length)
  | .accumulator z => some (3, n (64 + z), n (s.core.accOps (Fin.ofNat 4 z)).length)
  | .tileReaders t => some (9, n (72 + t), n (s.core.tileOps (Fin.ofNat 8 t)).length)
  | .waita va _ => some (4, n va, 0)
  | .dbar level phase => some (5, n level, n phase)
  | .commits op ids => some (6, n op, n ((s.still ids).length + if op = 0x1C ∧ st = .X then s.core.matrix.length else 0))
  | .copySlot op => some (8, n op, 0)
  | .matrixAccept op => some (8, n op, 0)
  | .genf => some (10, 0, n (commandsLeft s s.core.num))
  | .wfe => some (11, 0, n (s.core.tokensOf .A .C * 256 + s.core.tokensOf .X .C))
  | _ => none

/-- The address and the handle that a parked WAITA awaits (R40); every other wait names none, that of R309 among them (DESIGN
CHOICE, log 215). -/
def watchdogPlace (s : State) (w : Wait) : Word × Word :=
  match w with
  | .waita va _ => (BitVec.ofNat 64 va, match instrAtA s with
      | some (.aWaita _ h _) => hndWord h.val (s.core.handle h.val)
      | _ => 0)
  | _ => (0, 0)

/-! ### Commits (R145, R209) -/

/-- The operation writes sectors at this time: its data is there (R50), and nothing holds it back. -/
def mayCommit (s : State) (f : Flight) : Bool :=
  !f.todo.isEmpty && mayPerform s f && decide (f.ready ≤ s.now) &&
    (match f.job with
      | .store => true
      | .tapeWrite => true
      | .copy _ _ => true
      | .get _ _ => true
      | .collective c => c.mask.isSome
      | _ => false)

/-- Every byte of the next part is there: a GET's may still be on their way. -/
def partHere (f : Flight) (l : List Seg) : Bool :=
  match f.job with
  | .get _ _ => l.all (fun g => g.src.isNone)
  | _ => true

/-- An operation of the host port: its next part, or the source of its chain, is in host memory (R372). -/
def Flight.hostNext (f : Flight) : Bool :=
  match f.job with
  | .copy _ (some (_, segs)) => f.atHost || segs.any (fun g => spaceOfKey g.key == 5)
  | .get _ _ => f.todo.any (fun g => spaceOfKey g.key == 5)
  | .put _ _ => f.atHost && f.unsent.isNone
  | _ => f.atHost

/-- What follows the commit of a part. -/
def afterCommit (s : State) (id : Nat) : State := finishCollective (finishStore s id) id

/-- The next sector, or transaction, of an operation commits, if it is of the kind asked for; at the host port, of either kind. -/
def commitNext (op : Nat) (host digested : Bool) (s : State) : State :=
  match s.flight? op with
  | none => s
  | some f =>
    if !mayCommit s f || f.hostNext != host then s
    else
      let q := prepare s f
      let p := nextPart s q.todo
      if q.todo.isEmpty then s.putFlight q
      else if (!host && p.1.isSome != digested) || !partHere q p.2.1 || !q.updateMay s.now p.1 then s
      else withSlot s p.1 (fun s => afterCommit (commitStep s q) op)

/-- SECTOR_COMMIT (R145). -/
def execSectorCommit (op : Nat) (s : State) : Host.Outcome State Fault Refusal := .next (commitNext op false false s)

/-- WRITE_TRANSACTION_COMMIT (R209). -/
def execWriteTransactionCommit (op : Nat) (s : State) : Host.Outcome State Fault Refusal := .next (commitNext op false true s)

/-- A copy or a GET has written all its bytes. -/
def copyOver (f : Flight) : Bool :=
  f.todo.isEmpty && (match f.job with | .copy _ none => true | .get [] _ => true | _ => false)

/-- COPY_COMPLETION: the byte count is added to the token (R144). -/
def execCopyCompletion (op : Nat) (s : State) : Host.Outcome State Fault Refusal :=
  match s.flight? op with
  | none => .next s
  | some f => .next (if copyOver f then endFlight (addToken s f.core f.reg f.job.written) f else s)

/-- The bound of an abandoned copy goes by: of what it has still to write, each part that could commit now does or does not, as it
happens (R39); a part that something holds back does not (R214, R219, R313, R323). -/
def abandonParts : Nat → Nat → State → State
  | 0, _, s => s
  | n + 1, op, s =>
    match s.flight? op with
    | none => s
    | some f =>
      let p := nextPart s f.todo
      if p.2.1.isEmpty then s
      else
        let v := s.free
        abandonParts n op (if v.1 % 2 = 1 ∧ f.write ∧ partHere f p.2.1 ∧ mayPerform s f ∧ p.1.toList.all s.slotHere then commitStep v.2 f
          else v.2.putFlight { f with todo := p.2.2 })

/-- The command bound of a copy, PUT or GET has passed, and it is not complete (R39). -/
def boundPassed (s : State) (f : Flight) : Bool :=
  f.job.counts && (match f.expires with | some t => decide (t < s.now) | none => false) && !copyOver f

/-- COMMAND_BOUND_EXPIRY: a copy (by its number), or the first matrix operation of the core in focus whose bound has passed
(number 0), is abandoned (R39, R275). -/
def execCommandBoundExpiry (op : Nat) (s : State) : Host.Outcome State Fault Refusal :=
  if op = 0 then
    .next (match expiredMatrix s with | some (i, o) => abandonMatrix s i o | none => s)
  else match s.flight? op with
    | none => .next s
    | some f => match f.expires with
      | none => .next s
      | some t =>
        if !boundPassed s f then .next s
        else
          let s := s.putFlight (prepare s f)
          let s := abandonParts (segBytes f.todo + 1) op s
          let g := (s.flight? op).getD f
          let e : TrapInfo := { cause := .watchdog, detail := 7, aux0 := BitVec.ofNat 64 (g.reg.getD 0),
                                aux1 := BitVec.ofNat 64 g.job.written, aux2 := BitVec.ofNat 64 (t - g.issued) }
          let s := if f.todo.isEmpty then s else closePut s g
          .next (endFlight (addToken s g.core g.reg g.job.written) { g with error := some (g.error.getD e) })

/-! ### Host requests (R372) -/

/-- HOST_REQUEST_COMPLETION: the host completes the next request of an operation, with data or with an error. -/
def execHostRequestCompletion (op : Nat) (s : State) : Host.Outcome State Fault Refusal :=
  match s.flight? op with
  | none => .next s
  | some f =>
    if !f.hostNext || !mayPerform s f then .next s
    else if s.hostErrors.contains op then
      let e : TrapInfo := { cause := .eccUncorrectable, aux0 := 8, addr := BitVec.ofNat 64 f.va, hnd := f.hnd }
      let g := { f with todo := [], error := some (f.error.getD e)
                        job := match f.job with | .copy w _ => .copy w none | j => j }
      let s := { s with hostErrors := s.hostErrors.filter (· != op) }
      let r := releaseOf s g
      let s := r.1.putFlight r.2
      .next (match g.job with
        | .put _ _ => endFabric (closePut s r.2) r.2
        | .copy _ _ => s
        | .get _ _ => s
        | .ld _ _ _ => finishLoad (acquireOf s r.2) r.2
        | .ldt _ _ => finishLoad (acquireOf s r.2) r.2
        | .lda _ => finishLoad (acquireOf s r.2) r.2
        | _ => afterCommit s op)
    else match f.job with
      | .ld _ _ _ => .next (if f.ready ≤ s.now then loadStep s f else s)
      | .ldt _ _ => .next (if f.ready ≤ s.now then loadStep s f else s)
      | .lda _ => .next (if f.ready ≤ s.now then loadStep s f else s)
      | .put _ _ =>
        let p := nextPart s f.todo
        let n := segBytes p.2.1
        let r := sendPut s { f.sentNow s with todo := fetchSectors s (sourceSectors p.2.1) p.2.2 } (takeSegs n f.todo)
        .next (endFabric (r.1.putFlight r.2) r.2)
      | _ => .next (commitNext op true false s)

/-! ### The stamp check (R126) and the patrol (R238) -/

/-- The access at the A-stream's pc that the stamp check of R126 holds. -/
def checkedAccess (i : Instr) (s : State) : Host.Outcome State Fault Refusal :=
  match i with
  | .aLd8 y q h cf b ty o sc => execALd8 y q h cf b ty o sc s
  | .aLd16 y q h cf b ty o sc => execALd16 y q h cf b ty o sc s
  | .aLd32 y q h cf b ty o sc => execALd32 y q h cf b ty o sc s
  | .aLd64 y q h cf b ty o sc => execALd64 y q h cf b ty o sc s
  | .aSt8 y h cf b ty o sc => execASt8 y h cf b ty o sc s
  | .aSt16 y h cf b ty o sc => execASt16 y h cf b ty o sc s
  | .aSt32 y h cf b ty o sc => execASt32 y h cf b ty o sc s
  | .aSt64 y h cf b ty o sc => execASt64 y h cf b ty o sc s
  | .aLdt y q h cf => execALdt y q h cf s
  | .aStt y h cf => execAStt y h cf s
  | .aLdv y q d h cf b o sc => execALdv y q d h cf b o sc s
  | .aLdvBqa y q d h cf b o sc => execALdvBqa y q d h cf b o sc s
  | .aLda8 y d h cf ty o sc => execALda8 y d h cf ty o sc s
  | .aLda16 y d h cf ty o sc => execALda16 y d h cf ty o sc s
  | .aLda32 y d h cf ty o sc => execALda32 y d h cf ty o sc s
  | .aLda64 y d h cf ty o sc => execALda64 y d h cf ty o sc s
  | .aSta8 y h cf b ty o sc => execASta8 y h cf b ty o sc s
  | .aSta16 y h cf b ty o sc => execASta16 y h cf b ty o sc s
  | .aSta32 y h cf b ty o sc => execASta32 y h cf b ty o sc s
  | .aSta64 y h cf b ty o sc => execASta64 y h cf b ty o sc s
  | .aCpy y tok hd dcf hs scf len wd => execACpy y tok hd dcf hs scf len wd s
  | .aCpy2d y tok hd dcf hs scf len wd => execACpy2d y tok hd dcf hs scf len wd s
  | .aCpyx y tok hd dcf hs scf len wd => execACpyx y tok hd dcf hs scf len wd s
  | _ => .next s

/-- An access that still waits has not taken its answer. -/
def keepAnswer : Host.Outcome State Fault Refusal → Host.Outcome State Fault Refusal
  | .next t => match t.core.a.status with
    | .waiting _ _ => .next (t.setStream .A { t.core.a with woken := false })
    | _ => .next t
  | o => o

/-- STAMP_CHECK_ANSWER: the owning port answers; the access performs, or raises RACE (R126, R236). -/
def execStampCheckAnswer (op : Nat) (s : State) : Host.Outcome State Fault Refusal :=
  match s.core.a.status, instrAtA s with
  | .waiting (.stampCheck n) _, some i =>
    if n = op then keepAnswer (checkedAccess i (s.setStream .A { s.core.a with woken := true })) else .next s
  | _, _ => .next s

/-- STAMP_PATROL_VISIT (R238). -/
def execStampPatrolVisit (granule : Nat) (s : State) : Host.Outcome State Fault Refusal := .next (patrolStamp s granule)

/-- BACK_INVALIDATE_RESPONSE: the host answers a snoop of a FLUSH; with the last one the FLUSH may retire (R110). -/
def execBackInvalidateResponse (op : Nat) (s : State) : Host.Outcome State Fault Refusal :=
  match s.flight? op with
  | none => .next s
  | some f => match f.job with
    | .flush n => .next (if n ≤ 1 then s.dropFlight op else s.putFlight { f with job := .flush (n - 1) })
    | _ => .next s

/-! ### Barriers (R42, R108) -/

/-- BARRIER_COMPLETE: the barrier of the core in focus completes, after its last arrival and the latency of R50 (R42). -/
def execBarrierComplete (level : BitVec 2) (s : State) : Host.Outcome State Fault Refusal :=
  .next (if s.arrived s.core.num && barrierReady s s.core.num level.toNat then completeBarrier s s.core.num level.toNat else s)

/-- A blocking wait of a stream has outlasted its bound, and neither its end nor a barrier comes before (R38, R42). While a trap
awaits delivery only the waits that are no stop of R289 are still bounded. -/
def watchdogDue (s : State) (st : StreamId) : Bool :=
  match (s.stream st).status with
  | .waiting w since =>
    w.blocking && !(satisfied s st w && inBound s st w since) && mayResume s.core w && decide (since + (s.core.wd st).toNat < s.now) && !barrierDue s s.core.num
  | _ => false

/-- WATCHDOG of a wait (R38, R288); a DBAR's arrival is withdrawn (R42). For the wait of R309 the kind is free (DESIGN CHOICE, log 4). -/
def expireWait (s : State) (st : StreamId) (w : Wait) : State :=
  let s := match w with | .dbar _ _ => { s with arrivals := s.arrivals.filter (fun a => a.core != s.core.num) } | _ => s
  let bound := s.core.wd st
  let p := watchdogPlace s w
  match watchdogAux s st w with
  | some (d, a, b) => raiseTrap st s { cause := .watchdog, detail := BitVec.ofNat 8 d, addr := p.1, hnd := p.2, aux0 := a, aux1 := b, aux2 := bound }
  | none =>
    let d := s.free
    let a := d.2.free
    let b := a.2.free
    raiseTrap st b.2 { cause := .watchdog, detail := BitVec.ofNat 8 d.1, aux0 := BitVec.ofNat 64 a.1, aux1 := BitVec.ofNat 64 b.1, aux2 := bound }

/-- WATCHDOG_EXPIRY: a blocking wait has lasted more than its bound (R38). -/
def execWatchdogExpiry (st : StreamId) (s : State) : Host.Outcome State Fault Refusal :=
  match (s.stream st).status with
  | .waiting w _ => .next (if watchdogDue s st then expireWait s st w else s)
  | _ => .next s

/-! ### Stopping and delivery (R289, R292) -/

/-- DRAIN_LIMIT: 4,096 cycles after the trap of the core in focus, its streams stop at their next boundary (R289). -/
def execDrainLimit (s : State) : Host.Outcome State Fault Refusal :=
  match s.core.pending with
  | none => .next s
  | some p =>
    let stop := fun (v : StreamState) => match v.status with
      | .running => { v with status := .stopped 5, awaited := none, woken := false, counted := false, pages := [], held := false }
      | _ => v
    let t := leaveBarrier s s.core.num
    .next (if p.since + 4096 < s.now then t.setCore { t.core with c := stop t.core.c, a := stop t.core.a, x := stop t.core.x } else s)

/-- The pending trap of the core in focus can be delivered (R289). -/
def deliverable (s : State) : Bool :=
  s.core.pending.isSome && s.core.c.halted && s.core.a.halted && s.core.x.halted && reservedFilled s.core && !barrierDue s s.core.num

/-- TRAP_DELIVERY: the bank is filled and the handler starts; at DEPTH 2 the core is reset and its launch is lost (R292, R294). -/
def execTrapDelivery (s : State) : Host.Outcome State Fault Refusal :=
  .next (if !deliverable s then s else if s.core.depth < 2 then deliverTrap s else thirdTrap s)

end Sys2Proof.Machine
end

