-- ==== Sys2Proof/Machine/Loader.lean ====
section
/-! DEFINITION. Doorbells, the start of a team by the overlay loader, and the ends that time brings (R9, R47, R351–R359). -/
namespace Sys2Proof.Machine

/-! ### Doorbells (R351, R352) -/

/-- The record in the first 0x70 bytes of a mailbox (R351). -/
def parseRecord (raw : List Byte) : LaunchRecord :=
  let f := fieldAt raw
  { code := f 0 8, args := f 8 8, lttimg := f 0x10 8, save := f 0x18 8
    sh := (List.range 8).map (fun k => BitVec.ofNat 64 (f (0x20 + 8 * k) 8))
    budget := f 0x60 8, lttn := f 0x68 2, team := f 0x6A 1, prio := f 0x6B 1 % 8
    reserved := decide (8 ≤ f 0x6B 1) || f 0x6C 4 != 0 }

/-- The checks of R352. -/
def LaunchRecord.ok (r : LaunchRecord) : Bool :=
  !r.reserved && decide (1 ≤ r.team) && decide (r.team ≤ 160) && decide (r.lttn ≤ 256) && r.code % 65536 == 0 && r.save % 65536 == 0 &&
    r.lttimg % 32 == 0

/-- The dispatcher takes a doorbell: it copies the record, clears DOORBELL, and the launch waits, or fails at once (R352). One whose record
cannot be read fails as an unreadable code image does (R355, R381; DESIGN CHOICE, log 236). -/
def submit (s : State) (m : Nat) (tag : BitVec 32) : State :=
  let r := parseRecord (s.bytes (mailboxKey m) 0x70)
  let bad := s.poisoned (mailboxKey m) 0x70
  let s := commitBytes s (mailboxKey m + 0x78) (leBytes 8 0)
  if bad then putStatus s m tag 0 17 false 6
  else if r.ok then
    putStatus { s with
      launches := s.launches ++ [{ id := s.nextId, mailbox := m, tag := tag, record := r, since := s.now }]
      nextId := s.nextId + 1 } m tag 0 0 false 1
  else putStatus s m tag 0 0x82 false 6

/-- A doorbell write submits a launch on its mailbox, or has no effect at all (R352), as where DOORBELL cannot be read (DESIGN CHOICE,
log 236); the answer also says whether any has been taken. -/
def ring (m : Nat) (a : State × Bool) (w : Nat × List Byte) : State × Bool :=
  let t := commitBytes a.1 w.1 w.2
  let tag := BitVec.ofNat 32 (t.word (mailboxKey m + 0x78) 4)
  if tag ≠ 0 ∧ !t.poisoned (mailboxKey m + 0x78) 8 ∧ a.1.phase = 6 ∧ a.1.launches.all (fun l => l.mailbox != m) then (submit t m tag, true) else a

/-- The mailbox whose DOORBELL holds this key. -/
def bellOf (k : Nat) : Option Nat :=
  let o := k - mailboxKey 0
  if mailboxKey 0 ≤ k ∧ o < 0x2000 ∧ 0x78 ≤ o % 128 then some (o / 128) else none

/-- The doorbell writes at the head of the host's requests up to the first to mailbox `m`, each with its mailbox, and what follows. -/
def bellsTo (m : Nat) : List HostAsk → Option (List (Nat × Nat × List Byte) × List HostAsk)
  | .write k data :: rest => match bellOf k with
    | none => none
    | some q => if q = m then some ([(q, k, data)], rest) else (bellsTo m rest).map (fun r => ((q, k, data) :: r.1, r.2))
  | _ => none

/-- Take the doorbells of one cycle in ascending mailbox number (R352). -/
def ringAll (s : State) (l : List (Nat × Nat × List Byte)) : State × Bool :=
  (List.range 64).foldl (fun a m => (l.filter (fun w => w.1 == m)).foldl (fun a w => ring m a w.2) a) (s, false)

/-- DOORBELL: the doorbells at the head of the host's writes, up to this mailbox's, commit in one cycle; where any is taken, the cycle has
a pass (R352, R356). -/
def execDoorbell (mailbox : Nat) (s : State) : Host.Outcome State Fault Refusal :=
  match bellsTo mailbox s.hostIn with
  | none => .next s
  | some (l, rest) =>
    let r := ringAll { s with hostIn := rest } l
    .next (if r.2 then { r.1 with passDue := true } else r.1)

/-- MILLISECOND_TICK: a whole millisecond since device reset calls for a pass (R356). -/
def execMillisecondTick (s : State) : Host.Outcome State Fault Refusal :=
  .next (if s.lastTick < s.now / 850000 then { s with lastTick := s.now / 850000, passDue := true } else s)

/-! ### The start of a team (R9, R47) -/

/-- The indexes of the free values of one member's start. -/
def memberValues : Nat := 2 ^ 21

/-- A member's core as the loader starts it (R9, R16, R47, R99): `base` is the index of the first of the values that the spec
leaves open. -/
def startCore (s : State) (l : Launch) (q : Loaded) (base t n : Nat) : Core :=
  let fv := fun (i : Nat) => Config.freeBits (base + i)
  let e := entryPoints q.code q.bucket
  let g := l.members.filter (fun m => groveOf m == groveOf n)
  { Core.reset n with
    c := { pc := BitVec.ofNat 64 e.1, status := .running, ready := s.now }
    a := { pc := BitVec.ofNat 64 e.2.1, status := .running, ready := s.now }
    x := { pc := BitVec.ofNat 64 e.2.2, status := .running, ready := s.now }
    sregs := Vector.ofFn (fun i => if i.val = 0 then 0 else if i.val < 16 then BitVec.ofNat 64 (fv i.val) else q.args.getD (i.val - 16) 0)
    aregs := Vector.ofFn (fun i => if i.val = 0 then 0 else if i.val < 24 then BitVec.ofNat 64 (fv (32 + i.val)) else l.record.sh.getD (i.val - 24) 0)
    xregs := Vector.ofFn (fun i => if i.val = 0 then 0 else if i.val < 24 then BitVec.ofNat 64 (fv (64 + i.val)) else l.record.sh.getD (i.val - 24) 0)
    p := Vector.ofFn (fun i => if i.val = 0 then 0 else BitVec.ofNat 64 (fv (96 + i.val)))
    bt := Vector.ofFn (fun i => BitVec.ofNat 64 (fv (112 + i.val)))
    flags := Vector.ofFn (fun i => fv (116 + i.val) % 2 == 1)
    v := Vector.ofFn (fun r => Vector.ofFn (fun i => BitVec.ofNat 32 (fv (1024 + 64 * r.val + i.val))))
    tiles := Vector.ofFn (fun z => Vector.ofFn (fun r => Vector.ofFn (fun i => BitVec.ofNat 32 (fv (8192 + 64 * (128 * z.val + r.val) + i.val)))))
    accs := Vector.ofFn (fun z => Vector.ofFn (fun r => Vector.ofFn (fun i => BitVec.ofNat 32 (fv (81920 + 64 * (64 * z.val + r.val) + i.val)))))
    imemC := Memory.replace (Memory.replace [] 0 (sectionAt q.code 0x08 0x0C)) 0xC000 q.handler
    imemA := Memory.replace [] 0 (sectionAt q.code 0x10 0x14)
    imemX := Memory.replace [] 0 (sectionAt q.code 0x18 0x1C)
    cyclesSince := some s.now
    tbudget := BitVec.ofNat 64 l.record.budget
    dmem := BitVec.ofNat 64 (l.record.team * 2 ^ 24 + t * 2 ^ 16 + g.length * 2 ^ 4 + g.idxOf n)
    lastrel := (s.coreAt n).lastrel
    lastacq := s.syncclk
    sh := Vector.ofFn (fun i => l.record.sh.getD i.val 0)
    handles := q.handles
    ltt := q.table
    member := some (l.id, t) }

/-- A unit that the start of a member leaves as it is: of a register that the loader does not write (R9, R47, R381). -/
def RegUnit.unstarted : RegUnit → Bool
  | .scalar .C r => decide (r < 16)
  | .scalar _ r => decide (r < 24)
  | .entry _ _ _ => false
  | .code _ _ => false
  | _ => true

/-- Start a member: its core, its CORE bytes, which the spec leaves open, and its archive status word (R47, R329). -/
def startMember (l : Launch) (q : Loaded) (s : State) (p : Nat × Nat) : State :=
  let n := p.1
  let left := (s.marks.filter (fun m => m.core == n && m.unit.unstarted)).map (·.unit)
  let s := { (s.putCore (startCore s l q s.fresh p.2 n)).remark n left with
    mem := Memory.replace s.mem (coreKey n 0) ((List.range coreBytes).map (fun i => BitVec.ofNat 8 (Config.freeBits (s.fresh + 131072 + i))))
    fresh := s.fresh + memberValues }
  commitBytes s (hwinKey (dieOf n) (0xFF800 + 8 * (n % 80))) (leBytes 4 0)

/-- OVERLAY_LOAD: the loader reads and checks, and the streams of every member start, or the launch fails (R47, R354, R355). -/
def execOverlayLoad (launch : Nat) (s : State) : Host.Outcome State Fault Refusal :=
  match s.launch? launch with
  | none => .next s
  | some l =>
    if l.state ≠ .loading ∨ l.saved then .next s
    else match loadImage s (l.members.headD 0) l.supimg l.record with
      | .error e => .next (failLaunch s launch e.1 e.2)
      | .ok q =>
        let t := l.members.zipIdx.foldl (startMember l q) s
        .next (enterState t { l with started := s.now, bucket := q.bucket } .running)

/-! ### Ends -/

/-- Every member of a running launch has ended, and every write of the team's to HWIN has committed (R12, R353). -/
def launchOver (s : State) (l : Launch) : Bool :=
  teamOver s l && !s.flights.any (fun f => l.members.contains f.core && f.write && f.places.any (fun p => spaceOfKey p.1 == 6))

/-- LAUNCH_DONE: the launch is over (R12, R353). -/
def execLaunchDone (launch : Nat) (s : State) : Host.Outcome State Fault Refusal :=
  match s.launch? launch with
  | none => .next s
  | some l => .next (if launchOver s l then finishLaunch s l else s)

/-- A pre-emption whose transfer has begun has this victim. -/
def savingTeam (s : State) (id : Nat) : Bool :=
  match s.preemption with
  | some p => p.victim == id && p.saving
  | none => false

/-- The members' ticks have reached BUDGET in a cycle that is over, so that an end in that cycle has come first (R354); once a save has begun
the restore fails instead (R359). -/
def budgetSpent (s : State) (l : Launch) : Bool :=
  l.state == .running && l.record.budget != 0 && l.members.any (fun n => decide (l.record.budget ≤ (s.coreAt n).ticks (s.now - 1))) &&
    !savingTeam s l.id

/-- BUDGET_EXPIRY: a running launch has used up its budget, and fails (R359). -/
def execBudgetExpiry (launch : Nat) (s : State) : Host.Outcome State Fault Refusal :=
  match s.launch? launch with
  | none => .next s
  | some l => .next (if budgetSpent s l then failLaunch s launch 0x83 0 else s)

/-- SOFT_PREEMPT_TIMEOUT: 1,048,576 cycles after the mark a soft pre-emption becomes hard, if some member is not at its fence
(R295). -/
def execSoftPreemptTimeout (launch : Nat) (s : State) : Host.Outcome State Fault Refusal :=
  match s.preemption, s.launch? launch with
  | some p, some l =>
    if p.victim = launch ∧ softOver s l p then
      let t := l.members.foldl (fun (u : State) n => u.onCore n (fun k => { k with softPending := false })) s
      .next (stopTeam { t with preemption := some { p with hard := true } } l)
    else .next s
  | _, _ => .next s

end Sys2Proof.Machine
end

