-- ==== Sys2Proof/Machine/SaveImage.lean ====
section
/-! DEFINITION. The save image: its layout, its area, and the context that an image gives (R124, R297–R302). -/
namespace Sys2Proof.Machine

/-- Bytes of the image. -/
def imageBytes : Nat := 2097152

/-- A list of exactly `n` bytes: zeros follow what is given. -/
def zone (n : Nat) (l : List Byte) : List Byte := (l ++ List.replicate (n - l.length) 0).take n

/-! ### Writing the parts (R301, R302) -/

/-- A stream as the image holds it (R301). -/
structure StreamRecord where
  pc : Nat
  waited : Bool
  ended : Bool
  bx : Option BxPending
  psig : BitVec 2
  loops : List LoopEntry
  deriving DecidableEq, Repr, Inhabited

/-- The record of a stream that stands where it does. -/
def StreamState.record (v : StreamState) : StreamRecord := ⟨v.pc.toNat % 2 ^ 17, v.waited, v.status.stop == 3, v.bx, v.psig, v.loops⟩

/-- The record that a bank's stream word gives (R286). -/
def bankRecord (w : Word) (loops : List LoopEntry) (bx : Option BxPending) : StreamRecord :=
  ⟨bits w 0 17, w.getLsbD 17, w.getLsbD 18, bx, BitVec.ofNat 2 (bits w 24 2), loops⟩

/-- The records of C, A and X of the user context: those of the cut while a handler runs (R300). -/
def Core.records (k : Core) : List StreamRecord :=
  match k.banks with
  | [] => [k.c.record, k.a.record, k.x.record]
  | b :: _ => [bankRecord b.tpcc b.loopsC none, bankRecord b.tpca b.loopsA none, bankRecord b.tpcx b.loopsX b.bx]

/-- The 16 bytes of a stream record. -/
def StreamRecord.bytes (r : StreamRecord) : List Byte :=
  leBytes 4 r.pc ++ leBytes 4 (r.waited.toNat + 2 * r.ended.toNat + (match r.bx with
    | none => 0
    | some b => 4 + b.slots % 4 * 8 + b.taken.toNat * 32) + r.psig.toNat * 64) ++
    leBytes 8 (match r.bx with | none => 0 | some b => b.target.toNat)

/-- The four entries of a loop stack, outermost first. -/
def loopBytes (l : List LoopEntry) : List Byte :=
  zone 64 (l.reverse.flatMap (fun e => leBytes 4 e.start.toNat ++ leBytes 4 e.stop.toNat ++ leBytes 8 e.remaining.toNat))

/-- A ring of `n` slots of `b` bytes that holds the entries of a queue by sequence number. -/
def ringBytes (n b : Nat) (head : BitVec 32) (items : List (List Byte)) : List Byte :=
  (List.range n).flatMap (fun i => zone b (items.getD ((i + n - head.toNat % n) % n) []))

/-- The bits of an outcome queue by sequence number, 128 to a ring. -/
def outcomeBytes (q : Queue OutBit) : List Byte :=
  let at_ := fun (i : Nat) => match q.items[(i + 128 - q.head.toNat % 128) % 128]? with
    | some e => e.bit.getD false
    | none => false
  (List.range 16).map (fun j => BitVec.ofNat 8 (((List.range 8).map (fun i => if at_ (8 * j + i) then 2 ^ i else 0)).sum))

/-- A deferred report: cause and issuing PC (R302). -/
def reportBytes (k : Core) (i : Nat) : List Byte :=
  match k.reports.find? (fun r => r.1 == i) with
  | none => leBytes 4 0
  | some r => leBytes 4 (r.2.info.cause.code + r.2.pc.toNat % 2 ^ 17 * 2 ^ 8)

/-- An error latch: cause, PC, count (R301). -/
def latchBytes (l : Option Latch) : List Byte :=
  match l with
  | none => leBytes 16 0
  | some l => leBytes 8 (l.info.cause.code + l.pc.toNat % 2 ^ 17 * 2 ^ 8) ++ leBytes 8 l.count.toNat

/-- A handle entry: 0x58 bytes of the description, with PERM and PADSZ packed into it (R302). -/
def handleBytes (k : Core) (h : Nat) : List Byte :=
  match k.handle h with
  | none => leBytes 88 0
  | some o =>
    let d := o.desc
    ((d.set 11 (BitVec.ofNat 8 ((d.getD 11 0).toNat + o.perm * 4))).set 0x4C (BitVec.ofNat 8 ((d.getD 0x4C 0).toNat + o.padsz * 16))).take 88

/-- A record of an accepted operation that has not started (R302). -/
def opBytes (o : MatOp) : List Byte :=
  zone 768 (zone 0x40 (leBytes 8 o.word.toNat ++ leBytes 8 o.ext.toNat ++ leBytes 8 o.fmt.toNat ++ leBytes 8 o.gen.toNat ++
    leBytes 8 o.shapeZ.toNat ++ leBytes 8 o.shapeA.toNat ++ leBytes 8 o.shapeB.toNat ++ leBytes 1 1) ++ o.vecs.flatMap vecBytes)

/-- The words of a file whose register 0 reads zero (R16). -/
def fileWords (f : Vector Word 32) : List Word := (List.finRange 32).map (readReg f)

/-- The predicate registers; p0 reads all-true (R16). -/
def predWords (f : Vector Word 16) : List Word := (List.finRange 16).map (fun (i : Fin 16) => if i = 0 then BitVec.allOnes 64 else f[i])

/-- The bytes of some words. -/
def wordsBytes (l : List Word) : List Byte := l.flatMap (fun x => leBytes 8 x.toNat)

/-- Bytes 0x10 to the end of the image of a core (R301): `code` is the code-image address of its launch. -/
def imageBody (s : State) (k : Core) (code : Nat) : List Byte :=
  let t := s.setCore k
  let rs := k.records
  let lq := fun (q : Queue LqEntry) => ringBytes 64 256 q.head (q.items.map (fun e => vecBytes (e.data.getD Vec.zero)))
  leBytes 8 k.gen.toNat ++ leBytes 8 code ++ zone 0xE0 ((List.range 35).flatMap (reportBytes k)) ++
    wordsBytes (fileWords k.sregs) ++ wordsBytes (fileWords k.aregs) ++ wordsBytes (fileWords k.xregs) ++ wordsBytes (predWords k.p) ++
    zone 0x20 (wordsBytes k.bt.toList) ++ zone 0x10 (k.flags.toList.map (fun b => if b then 1 else 0)) ++ wordsBytes k.shapes.toList ++
    rs.flatMap StreamRecord.bytes ++ rs.flatMap (fun r => loopBytes r.loops) ++
    zone 0xA00 ((List.range 0x130).flatMap (fun n => leBytes 8 (t.csr n).toNat)) ++
    zone 0xC00 ((k.matrix.filter (fun o => o.started.isNone)).flatMap opBytes) ++
    ringBytes 32 8 k.vq.head (k.vq.items.map (fun x => leBytes 8 x.toNat)) ++ outcomeBytes k.bqa ++ outcomeBytes k.bqx ++
    ringBytes 64 8 k.fq.head (k.fq.items.map (fun x => leBytes 8 x.toNat)) ++ zone 0xE0 (k.latches.toList.flatMap latchBytes) ++
    k.v.toList.flatMap vecBytes ++ (List.range 1024).flatMap (handleBytes k) ++ k.lq.toList.flatMap lq ++
    ringBytes 64 256 k.sq.head (k.sq.items.map vecBytes) ++ k.accs.toList.flatMap (fun z => z.toList.flatMap vecBytes) ++
    k.tiles.toList.flatMap (fun z => z.toList.flatMap vecBytes) ++ s.bytes (coreKey k.num 0) coreBytes

/-- The image of a core: `flags` is FLAGS of its header (R301). -/
def saveImage (s : State) (k : Core) (code flags : Nat) : List Byte :=
  let body := imageBody s k code
  leBytes 4 0x5356374D ++ leBytes 2 1 ++ leBytes 2 flags ++ leBytes 2 (s.devid % 2 ^ 14) ++ leBytes 1 (bits k.dmem 16 8) ++
    leBytes 1 (bits k.dmem 24 8) ++ leBytes 4 (crc32c body).toNat ++ body

/-- The header and the check of an image are valid for this device (R124, R301). -/
def imageValid (s : State) (raw : List Byte) : Bool :=
  let f := fieldAt raw
  decide (f 0 4 = 0x5356374D) && decide (f 4 2 = 1) && decide (f 6 2 < 4) && decide (f 8 2 = s.devid % 2 ^ 14) &&
    decide (f 0xC 4 = (crc32c (raw.drop 0x10)).toNat)

/-! ### The area (R124, R297, R298) -/

/-- The parts of an area in a core's table. -/
def areaPieces (k : Core) (va : Nat) : List Piece := piecesOf k.ltt va imageBytes

/-- What the checks of R124 find in the parts of an area, in their order. -/
def piecesFault (ps : List Piece) (write : Bool) : Option (Cause × Piece) :=
  let find := fun (c : Cause) (t : Option Xlat → Bool) => (ps.find? (fun p => t (p.entry.map (·.2)))).map (fun p => (c, p))
  match find .programAddress Option.isNone with
  | some r => some r
  | none => match find .pageAbsent (fun e => match e with | some e => decide (e.state ≠ .present) | none => false) with
    | some r => some r
    | none => find .permission (fun e => match e with | some e => !e.pin || (write && !e.w) | none => false)

/-- What the checks of R124 find in an area of the size of an image (R297, R299). -/
def areaFault (k : Core) (va : Nat) (write : Bool) : Option (Cause × Piece) := piecesFault (areaPieces k va) write

/-- An entry behind an area has become unusable: a parity error, an uncorrectable unit, a retired channel (R298). -/
def areaBroken (s : State) (k : Core) (va : Nat) : Bool :=
  (areaPieces k va).any (fun p => match p.entry with
    | none => true
    | some (_, e) => e.broken || !physOk s.ret0 s.ret1 e.space e.phys e.size) ||
    (segsOf k.num true (areaPieces k va)).any (fun g => s.poisoned g.key g.len)

/-- Commit what is left of some segments, part by part in ascending order. -/
def commitAll : Nat → State → List Seg → State
  | 0, s, _ => s
  | n + 1, s, todo =>
    let p := nextPart s todo
    if p.2.1.isEmpty then s
    else
      let w := p.2.1.map (fun g => (g.key, g.data))
      let t := match p.1 with
        | some (g, b) => (commitBlock s g b w).1
        | none => w.foldl (fun (t : State) (q : Nat × List Byte) => commitBytes t q.1 q.2) s
      commitAll n t p.2.2

/-- A page written by the save engine is read-duplicated no longer (R313). -/
def endDuplicates (s : State) (ps : List Piece) : State :=
  ps.foldl (fun (t : State) p => match p.entry with
    | some (_, e) => if e.rdup then updatePage t e.space e.phys e.size (fun x => { x with rdup := false, alt := 0 }) else t
    | none => t) s

/-- No read of another copy of a read-duplicated page of an area is out, so that a write to it may go on (R313). -/
def areaQuiet (s : State) (k : Core) (va : Nat) : Bool :=
  (areaPieces k va).all (fun p => match p.entry with
    | some (_, e) => !e.rdup || copyQuiet s e.space e.phys e.size
    | none => true)

/-- Write an image to its area. -/
def writeImage (s : State) (k : Core) (va : Nat) (raw : List Byte) : State :=
  let ps := areaPieces k va
  commitAll (imageBytes + 1) (endDuplicates s ps) (fillSegs (segsOf k.num true ps) raw)

/-- The bytes of an area. -/
def readImage (s : State) (k : Core) (va : Nat) : List Byte := (segsOf k.num false (areaPieces k va)).flatMap (fun g => s.bytes g.key g.len)

/-! ### The context that an image gives (R300–R302) -/

/-- `n` words of 8 bytes at an offset. -/
def wordsAt (raw : List Byte) (o n : Nat) : List Word := (List.range n).map (fun i => BitVec.ofNat 64 (fieldAt raw (o + 8 * i) 8))

/-- A vector of 64 lanes at an offset. -/
def vecAt (raw : List Byte) (o : Nat) : Vec := vecOfBytes ((raw.drop o).take 256)

/-- The control register `n` of an image. -/
def csrAt (raw : List Byte) (n : Nat) : Word := BitVec.ofNat 64 (fieldAt raw (0x600 + 8 * n) 8)

/-- The loop stack of stream `i`, innermost first. -/
def loopsAt (raw : List Byte) (i : Nat) : List LoopEntry :=
  ((List.range 4).filterMap (fun j =>
    let o := 0x540 + 64 * i + 16 * j
    if fieldAt raw (o + 8) 8 = 0 then none
    else some { start := BitVec.ofNat 64 (fieldAt raw o 4), stop := BitVec.ofNat 64 (fieldAt raw (o + 4) 4),
                remaining := BitVec.ofNat 64 (fieldAt raw (o + 8) 8) })).reverse

/-- The record of stream `i`: 0 C, 1 A, 2 X. -/
def recordAt (raw : List Byte) (i : Nat) : StreamRecord :=
  let o := 0x510 + 16 * i
  let f := fieldAt raw (o + 4) 4
  { pc := fieldAt raw o 4 % 2 ^ 17, waited := f.testBit 0, ended := f.testBit 1
    bx := if f.testBit 2 then some { target := BitVec.ofNat 64 (fieldAt raw (o + 8) 8), taken := f.testBit 5, slots := f / 8 % 4 } else none
    psig := BitVec.ofNat 2 (f / 64), loops := loopsAt raw i }

/-- The sequence numbers of a queue in its control register: head, and how many entries (R23). -/
def seqAt (raw : List Byte) (n : Nat) : BitVec 32 × Nat :=
  let w := csrAt raw n
  (w.setWidth 32, ((w >>> 32).setWidth 32 - w.setWidth 32 : BitVec 32).toNat)

/-- The entries of a queue from a ring of `n` slots. -/
def ringAt {α : Type} (raw : List Byte) (csr n : Nat) (slot : Nat → α) : Queue α :=
  { head := (seqAt raw csr).1, items := (List.range (min n (seqAt raw csr).2)).map (fun i => slot (((seqAt raw csr).1.toNat + i) % n)) }

/-- An outcome queue from the image. -/
def outcomesAt (raw : List Byte) (csr o now : Nat) : Queue OutBit :=
  ringAt raw csr 128 (fun j => { bit := some (((raw.getD (o + j / 8) 0).getLsbD (j % 8))), since := now })

/-- The sealed description of a handle entry, as SEAL takes it; none for a free one (R302). -/
def handleAt (raw : List Byte) (h : Nat) : Option (List Byte) :=
  let e := (raw.drop (0x6000 + 88 * h)).take 88
  if e.all (· == 0) then none
  else
    let fl := (e.getD 11 0).toNat
    let x0 := (e.getD 0x4C 0).toNat
    some (((e.set 11 (BitVec.ofNat 8 (fl % 4))).set 0x4C (BitVec.ofNat 8 (x0 % 16))) ++ leBytes 1 (fl / 4) ++ leBytes 1 (x0 / 16) ++ leBytes 6 0)

/-- The handle table of an image: each object with its seal check recomputed and the channel map that `map` gives it. -/
def handlesAt (raw : List Byte) (map : Nat → Shape → Nat) : List (Nat × Shape) :=
  (List.range 1024).filterMap (fun h => (handleAt raw h).map (fun d =>
    let o := parseShape d
    (h, { o with sealchk := o.crc, chanMap := map h o })))

/-- The unstarted operation in place `i`, reaccepted now; its issuing PC is not in the image: `pc` (DESIGN CHOICE, log 4). -/
def opAt (raw : List Byte) (now i pc : Nat) : Option MatOp :=
  let o := 0x1000 + 768 * i
  let w := fieldAt raw o 8
  let op := w / 2 ^ 52 % 256
  let n := if op = 0x94 then 2 else if op = 0x98 then 1 else 0
  if (fieldAt raw (o + 0x38) 1).testBit 0 then
    some { op := op, z := Fin.ofNat 4 (w / 2 ^ 45), ta := Fin.ofNat 8 (w / 2 ^ 39)
           tb := if op = 0x98 then none else some (Fin.ofNat 8 (w / 2 ^ 33))
           word := BitVec.ofNat 64 w, ext := BitVec.ofNat 64 (fieldAt raw (o + 8) 8), pc := BitVec.ofNat 64 (pc % 2 ^ 17)
           fmt := BitVec.ofNat 64 (fieldAt raw (o + 0x10) 8), gen := BitVec.ofNat 64 (fieldAt raw (o + 0x18) 8)
           shapeZ := BitVec.ofNat 64 (fieldAt raw (o + 0x20) 8), shapeA := BitVec.ofNat 64 (fieldAt raw (o + 0x28) 8)
           shapeB := BitVec.ofNat 64 (fieldAt raw (o + 0x30) 8)
           vecs := (List.range n).map (fun j => vecAt raw (o + 0x40 + 256 * j)), accepted := now
           bound := boundCycles (BitVec.ofNat 16 (if w.testBit 51 then fieldAt raw (o + 8) 2 else 0)) }
  else none

/-- A report or a latch: the cause of its code, with its PC. -/
def causeAt (x : Nat) : Option (Cause × Word) := (Cause.ofCode (x % 256)).map (fun c => (c, BitVec.ofNat 64 (x / 256 % 2 ^ 17)))

/-- The tape unit of an image: its object is that of its handle (R333, R342). -/
def tapeAt (raw : List Byte) (handles : List (Nat × Shape)) (ltt : List (Nat × Xlat)) (dropped : Nat) : Tape :=
  let w := csrAt raw 0x50
  let lim := bits w 25 25
  let obj := if lim = 0 then none else (handles.find? (fun e => e.1 == bits w 50 10)).map (·.2)
  { mode := bits w 62 2, incomplete := w.getLsbD 61, drop := w.getLsbD 60, handle := bits w 50 10, limit := lim, pos := bits w 0 25
    dropped := dropped, obj := obj
    xlats := match obj with
      | none => []
      | some o => (piecesOf ltt o.base (8 * lim)).filterMap (fun p => p.entry.map (·.2)) }

/-- The record of an error whose image holds only the cause: WATCHDOG of a command bound names what it names (R288), what R286 and
R287 leave blank for the cause is 0, an accumulator's latch concerns no address and no handle, and every other field is open, as
`opens` gives it from place `i` on (DESIGN CHOICE, log 4). -/
def openInfo (opens : Nat → Nat) (i : Nat) (named : Nat) (latch : Bool) (c : Cause) : TrapInfo :=
  let w := fun (j : Nat) => BitVec.ofNat 64 (opens (i + j))
  if c = .watchdog then { cause := c, detail := 7, aux0 := BitVec.ofNat 64 named, aux1 := w 3, aux2 := w 4 }
  else
    { cause := c, detail := if c = .race then BitVec.ofNat 8 (opens i) else 0
      addr := if latch then 0 else w 1, hnd := if latch then 0 else w 2
      aux0 := w 3, aux1 := if c = .eccUncorrectable ∨ c = .fpOverflow then 0 else w 4
      aux2 := if c = .eccUncorrectable ∨ c = .fpOverflow ∨ c = .padOverflow then 0 else w 5 }

/-- A report of an image: one that the core owes already keeps its record (DEDUCED, log 216). -/
def reportAt (k : Core) (raw : List Byte) (opens : Nat → Nat) (i : Nat) : Option (Nat × Deferred) :=
  (causeAt (fieldAt raw (0x20 + 4 * i) 4)).map (fun c =>
    match k.report? i with
    | some d => if d.info.cause = c.1 ∧ d.pc = c.2 then (i, d) else (i, { info := openInfo opens (36 + 8 * i) i false c.1, pc := c.2 })
    | none => (i, { info := openInfo opens (36 + 8 * i) i false c.1, pc := c.2 }))

/-- The error latch of accumulator `z` in an image; one that the core holds already keeps its record (DEDUCED, log 216). -/
def latchAt (k : Core) (raw : List Byte) (opens : Nat → Nat) (z : Fin 4) : Option Latch :=
  (causeAt (fieldAt raw (0x1F20 + 16 * z.val) 8)).map (fun c =>
    let n := BitVec.ofNat 64 (fieldAt raw (0x1F28 + 16 * z.val) 8)
    let fresh : Latch := { info := openInfo opens (4 + 8 * z.val) (64 + z.val) true c.1, pc := c.2, count := n }
    match k.latches[z] with
    | some l => if l.info.cause = c.1 ∧ l.pc = c.2 then { l with count := n } else fresh
    | none => fresh)

/-- The user context of an image in a core whose number, tables, instruction memories, streams and banks stand: `opens` gives what
the image leaves open, from place 0 on the PCs of its unstarted operations.
lastrel and lastacq are never lowered (R232; DEDUCED, log 231). -/
def withContext (k : Core) (raw : List Byte) (now clock : Nat) (handles : List (Nat × Shape)) (dropped : Nat) (opens : Nat → Nat) : Core :=
  let r := fun (n : Nat) => csrAt raw n
  let regs := fun (o : Nat) => Vector.ofFn (fun (i : Fin 32) => if i.val = 0 then 0 else BitVec.ofNat 64 (fieldAt raw (o + 8 * i.val) 8))
  { k with
    gen := BitVec.ofNat 64 (fieldAt raw 0x10 8)
    reports := (List.range 35).filterMap (reportAt k raw opens)
    sregs := regs 0x100, aregs := regs 0x200, xregs := regs 0x300
    p := Vector.ofFn (fun i => if i.val = 0 then 0 else BitVec.ofNat 64 (fieldAt raw (0x400 + 8 * i.val) 8))
    bt := Vector.ofFn (fun i => BitVec.ofNat 64 (fieldAt raw (0x480 + 8 * i.val) 8))
    flags := Vector.ofFn (fun i => (raw.getD (0x4A0 + i.val) 0).getLsbD 0)
    shapes := Vector.ofFn (fun i => BitVec.ofNat 64 (fieldAt raw (0x4B0 + 8 * i.val) 8))
    halted := (r 0).getLsbD 3
    cyclesBase := (r 4).toNat, cyclesSince := some now
    tbudget := r 6, dmem := r 8, gphase := (r 9).setWidth 32, tphase := ((r 9) >>> 32).setWidth 32
    lastrel := BitVec.ofNat 64 (max (r 0x0D).toNat k.lastrel.toNat), lastacq := BitVec.ofNat 64 (max (max (r 0x0E).toNat clock) k.lastacq.toNat)
    mvthr := r 0x10, mlate := r 0x11, isat := (r 0x12).getLsbD 0, slipmax := r 0x18, ldcnt := (r 0x19).setWidth 32
    wdc := r 0x20, wda := r 0x21, wdx := r 0x22
    lq := Vector.ofFn (fun q => ringAt raw (0x30 + q.val) 64 (fun j => { data := some (vecAt raw (0x1C000 + 16384 * q.val + 256 * j)) }))
    sq := ringAt raw 0x34 64 (fun j => vecAt raw (0x2C000 + 256 * j))
    vq := ringAt raw 0x35 32 (fun j => BitVec.ofNat 64 (fieldAt raw (0x1C00 + 8 * j) 8))
    bqa := outcomesAt raw 0x36 0x1D00 now, bqx := outcomesAt raw 0x37 0x1D10 now
    fq := ringAt raw 0x38 64 (fun j => BitVec.ofNat 64 (fieldAt raw (0x1D20 + 8 * j) 8))
    tokens := Vector.ofFn (fun i => bits (r 0x39) (8 * i.val) 8)
    sh := Vector.ofFn (fun i => r (0x40 + i.val))
    tvec := r 0x100, tscr0 := r 0x101, tscr1 := r 0x102
    matrix := (List.range 4).filterMap (fun i => opAt raw now i (opens i))
    latches := Vector.ofFn (latchAt k raw opens)
    v := Vector.ofFn (fun i => vecAt raw (0x2000 + 256 * i.val))
    accs := Vector.ofFn (fun z => Vector.ofFn (fun i => vecAt raw (0x30000 + 16384 * z.val + 256 * i.val)))
    tiles := Vector.ofFn (fun t => Vector.ofFn (fun i => vecAt raw (0x40000 + 32768 * t.val + 256 * i.val)))
    handles := handles
    tape := tapeAt raw handles k.ltt dropped
    lastRead := some { lost := true } }

/-- Give a core's store the bytes of an image; its uncorrectable units are then those at the offsets in `bad`. -/
def withStore (s : State) (n : Nat) (raw : List Byte) (bad : List Nat) : State :=
  let k := coreKey n 0
  { s with
    mem := Memory.replace s.mem k (zone coreBytes (raw.drop 0x80000))
    poison := s.poison.filter (fun u => !(decide (k ≤ u) && decide (u < k + coreBytes))) ++ bad.map (k + ·) }

end Sys2Proof.Machine
end

