-- ==== Sys2Proof/Machine/HostPort.lean ====
section
/-! DEFINITION. The host port: memory requests, AtomicOps, writes to device registers, attestation (R244, R353, R371, R374, R375). -/
namespace Sys2Proof.Machine

/-! ### The host's next request -/

/-- The offset of a key in die 0's HWIN, if it lies there. -/
def hwinOffset (k : Nat) : Option Nat :=
  if hwinKey 0 0 ≤ k ∧ k < hwinKey 0 0 + 2 ^ 20 then some (k - hwinKey 0 0) else none

/-- The key of AREQ (R375). -/
def areqKey : Nat := hwinKey 0 0xFFD10

/-- What a host write to die 0's HWIN asks for beside its bytes. -/
inductive HostWrite where
  | plain
  | doorbell (m : Nat)
  | ctrl (g : Nat)
  | areq
  | register
  deriving DecidableEq, Repr

/-- The sort of a host write: a DOORBELL (R352), a write that covers CTRL of a group (R365) or GO of AREQ (R375), another word of
the registers and tables that stand from 0xC_0000 on, or ordinary bytes. -/
def hostWriteSort (k len : Nat) : HostWrite :=
  match hwinOffset k with
  | none => .plain
  | some o =>
    if o < 0xC0000 then .plain
    else if o < 0xE0000 then (if o % 32 ≤ 11 ∧ 11 < o % 32 + len then .ctrl ((o - 0xC0000) / 32) else .register)
    else if let some m := bellOf k then .doorbell m
    else if k ≤ areqKey ∧ areqKey < k + len then .areq
    else .register

/-- A host write that meets the registers arrives in aligned pieces of 8 bytes: the device acts on each (DEDUCED, log 50). -/
def splitHost (ask : HostAsk) : List HostAsk :=
  match ask with
  | .write k data =>
    if data.isEmpty then []
    else if k + data.length ≤ hwinKey 0 0xC0000 ∨ hwinKey 0 0x100000 ≤ k then [ask]
    else (List.range ((k + data.length - 1) / 8 - k / 8 + 1)).map (fun i =>
      let lo := max k (8 * (k / 8 + i))
      let hi := min (k + data.length) (8 * (k / 8 + i) + 8)
      .write lo ((data.drop (lo - k)).take (hi - lo)))
  | _ => [ask]

/-! ### Memory requests (R371) -/

/-- The bytes are BAR0's or the HDM range's: HWIN, NEAR but for what retired channels have taken of it, ARCH (R3, R371, R378). -/
def hostVisible (s : State) (k len : Nat) : Bool :=
  match spaceOfKey k with
  | 6 => decide (k + len ≤ hwinKey 0 (2 ^ 21))
  | 2 => tierRangeOk s.ret0 s.ret1 2 (k - nearKey 0) len
  | 3 => tierRangeOk s.ret0 s.ret1 3 (k - archKey 0) len
  | _ => false

/-- The key of an offset in a window of the host (R371): none outside BAR0. -/
def windowKey (w : HostWindow) (o : Nat) : Option Nat :=
  match w with
  | .bar0 => if o < 2 ^ 21 then some (hwinKey 0 o) else none
  | .hdm => some (if o < 2 ^ 38 then nearKey o else archKey (o - 2 ^ 38))

/-- A request at offsets in a window as one at keys; one outside BAR0 is not the device's. -/
def HostAsk.at? (w : HostWindow) : HostAsk → Option HostAsk
  | .read o n => (windowKey w o).map (fun k => .read k n)
  | .write o data => (windowKey w o).map (fun k => .write k data)
  | .atomicOp o n op v x => (windowKey w o).map (fun k => .atomicOp k n op v x)

/-- Read-duplicated pages that some bytes lie in: space, place, size. -/
def duplicated (s : State) (k len : Nat) : List (Nat × Nat × Nat) :=
  (s.cores.flatMap (fun c => c.ltt.filterMap (fun e =>
    let p := placeKey c.num e.2.space e.2.phys
    if e.2.rdup ∧ k < p + e.2.size ∧ p < k + len then some (e.2.space, e.2.phys, e.2.size) else none))).eraseDups

/-- A host write may commit: its page is not migrating, no echo of its bytes is pending, and no read of another copy of a
read-duplicated page is out (R214, R313, R323). -/
def hostMayWrite (s : State) (k len : Nat) : Bool :=
  !s.migratingAt k len && !s.echoAt k len && !s.unitHolds k len && (duplicated s k len).all (fun d => copyQuiet s d.1 d.2.1 d.2.2)

/-- A host write commits at the owning ports of its bytes (R212, R244). -/
def hostWrite (s : State) (k : Nat) (data : List Byte) : State :=
  let s := (duplicated s k data.length).foldl (fun (t : State) d =>
    updatePage t d.1 d.2.1 d.2.2 (fun e => { e with rdup := false, alt := 0 })) s
  commitAll (data.length + 1) s [{ key := k, len := data.length, data := data }]

/-- A write at the host port acts when its bytes may be written and every digest entry that it updates has its slot: the request waits
for them (R218, R219). -/
def whenWritten (s : State) (k len : Nat) (go : State → State) : State :=
  if hostMayWrite s k len then withSlots s (blocksMet s [(k, len)]) go else s

/-- HOST_MEMORY_REQUEST: the host's next request reads, or writes ordinary bytes (R244, R371). -/
def execHostMemoryRequest (s : State) : Host.Outcome State Fault Refusal :=
  match s.hostIn with
  | .read k n :: rest =>
    if !hostVisible s k n then .fault (.noSuchByte k)
    else
      let out := if s.poisoned k n then Output.poisoned else .data (s.bytes k n)
      .next { s with hostIn := rest, outputs := s.outputs ++ [out] }
  | .write k data :: rest =>
    if hostWriteSort k data.length ≠ .plain then .next s
    else if !hostVisible s k data.length then .fault (.noSuchByte k)
    else .next (whenWritten s k data.length (fun t => hostWrite { t with hostIn := rest } k data))
  | _ => .next s

/-- The value that an AtomicOp leaves (R371). -/
def hostAtomic (op : AtomOp) (old v x : Nat) : Nat :=
  match op with
  | .add => old + v
  | .xchg => v
  | _ => if old = v then x else old

/-! ### Registers -/

/-- HWIN_REGISTER_WRITE: a write to a register, or to a table that is read at each lookup, changes what later reads return; a CTRL
value other than 1 and 2 is cleared; a write of GO while GO is 1 has no effect (R353, R357, R362, R365, R374, R375). -/
def execHwinRegisterWrite (s : State) : Host.Outcome State Fault Refusal :=
  match s.hostIn with
  | .write k data :: rest =>
    let t := commitBytes { s with hostIn := rest } k data
    match hostWriteSort k data.length with
    | .register => .next t
    | .ctrl g =>
      let c := t.word (groupKey g + 0x0B) 1
      if c = 1 ∨ c = 2 then .next s else .next (commitBytes t (groupKey g + 0x0B) [0])
    | .areq => if s.attesting.isSome then .next { s with hostIn := rest } else if t.word areqKey 1 % 2 = 1 then .next s else .next t
    | _ => .next s
  | _ => .next s

/-! ### Attestation (R375) -/

/-- Bytes of an SLH-DSA-SHA2-256s signature (FIPS 205; PRESUMED, log 30). -/
def signatureBytes : Nat := 29792

/-- The 160 bytes that the security block signs: the four measurements and the nonce. -/
def attested (nonce : List Byte) : List Byte :=
  (List.range 4).flatMap (fun i => (List.range 32).map (Config.measurement i)) ++ nonce

/-- The report is written, and GO is cleared after its last byte; without an identity key ERR is set instead (R375), as it is where AREQ,
the nonce or the buffer cannot be read (DESIGN CHOICE, log 236). -/
def finishReport (s : State) (buf : Nat) : State :=
  let low := s.word areqKey 1
  if s.idGone || s.poisoned areqKey 8 || !tierRangeOk s.ret0 s.ret1 2 buf 32768 || s.poisoned (nearKey buf) 32 then
    commitBytes { s with attesting := none } areqKey [BitVec.ofNat 8 (low / 4 * 4 + 2)]
  else
    let m := attested (s.bytes (nearKey buf) 32)
    let out := m ++ (List.range signatureBytes).map (Config.signature m)
    whenWritten s (nearKey buf + 32) out.length (fun t =>
      commitBytes { hostWrite t (nearKey buf + 32) out with attesting := none } areqKey [BitVec.ofNat 8 (low / 2 * 2)])

/-- ATTESTATION_REQUEST: the host writes GO = 1, and then the device writes the report. A GO written while GO is 1 has no
effect (R375). -/
def execAttestationRequest (s : State) : Host.Outcome State Fault Refusal :=
  match s.attesting, s.hostIn with
  | none, .write k data :: rest =>
    let t := commitBytes { s with hostIn := rest } k data
    if hostWriteSort k data.length = .areq ∧ t.word areqKey 1 % 2 = 1 then
      .next { t with attesting := some (t.word areqKey 8 / 2 ^ 15 * 2 ^ 15) }
    else .next s
  | some buf, .write k data :: rest =>
    if hostWriteSort k data.length = .areq then .next { s with hostIn := rest } else .next (finishReport s buf)
  | some buf, _ => .next (finishReport s buf)
  | none, _ => .next s

end Sys2Proof.Machine
end

