-- ==== Sys2Proof/Machine/Groups.lean ====
section
/-! DEFINITION. The course of a group: opening, its session, closing (R344, R347, R364–R366). -/
namespace Sys2Proof.Machine

/-- The host's next request covers CTRL of this group and gives it this value: the state in which it has committed and CTRL is
cleared (R365). -/
def ctrlWrite (s : State) (g value : Nat) : Option State :=
  match s.hostIn with
  | .write k data :: rest =>
    let t := commitBytes { s with hostIn := rest } k data
    if hostWriteSort k data.length = .ctrl g ∧ t.word (groupKey g + 0x0B) 1 = value then some (commitBytes t (groupKey g + 0x0B) [0])
    else none
  | _ => none

/-- The member list that a description names, if it is well formed: distinct numbers, this device once (R364). A description or a list that
cannot be read is not (DESIGN CHOICE, log 236). -/
def memberList (s : State) (g : Nat) : Option (List Nat) :=
  let a := s.word (groupKey g) 8
  let m := s.word (groupKey g + 8) 2
  let l := (List.range m).map (fun i => s.word (nearKey (a + 2 * i)) 2)
  if a % 64 ≠ 0 ∨ m < 1 ∨ 2 ^ 14 < m ∨ !tierRangeOk s.ret0 s.ret1 2 a (2 * m) ∨ s.poisoned (groupKey g) 16 ∨ s.poisoned (nearKey a) (2 * m) then none
  else if s.word (groupKey g + 0x0A) 1 ∉ [0, 1, 2, 4, 8, 16] then none
  else if l.all (fun d => decide (d < 2 ^ 14)) && l.eraseDups.length == m && l.contains s.devid then some l
  else none

/-- The agreement of a group begins: M, SPN and the list are copied, or the open fails at once with GCAUSE 3 (R364, R365). GCAUSE reads 0
meanwhile (DESIGN CHOICE, log 221). -/
def beginOpen (s : State) (g : Group) : State :=
  match memberList s g.num with
  | none => putGroup s { g with state := .failed, cause := 3, held := [], reopens := false } [.state, .cause]
  | some l => putGroup s { g with
      m := l.length, spn := s.word (groupKey g.num + 0x0A) 1, members := l, self := l.idxOf s.devid, state := .opening, cause := 0
      openedAt := s.now, closing := false, held := [] } [.state, .cause, .self]

/-- GROUP_OPEN: CTRL = 1 opens a closed or failed group; otherwise it has no effect (R364, R365). -/
def execGroupOpen (group : Nat) (s : State) : Host.Outcome State Fault Refusal :=
  match ctrlWrite s group 1 with
  | none => .next s
  | some t =>
    let g := (t.group? group).getD { num := group }
    if g.state = .opening ∨ g.state = .open then .next t else .next (beginOpen t { g with reopens := false })

/-- A group is closed (R365). -/
def closeGroup (s : State) (g : Group) : State := putGroup s { g with state := .closed, closing := false, held := [] } [.state]

/-- GROUP_CLOSE: CTRL = 2 closes an open group once LOW = NEXT; until then the close is pending (R365). -/
def execGroupClose (group : Nat) (s : State) : Host.Outcome State Fault Refusal :=
  match ctrlWrite s group 2 with
  | none => .next s
  | some t => match t.group? group with
    | none => .next t
    | some g =>
      if g.state ≠ .open then .next t
      else if g.low = g.next then .next (closeGroup t g)
      else .next (t.keepGroup { g with closing := true })

/-- The number after a session's; 1 follows 65,535, and is the first (R365). -/
def sessionAfter (n : Nat) : Nat := if n = 65535 then 1 else n + 1

/-- The session that opens: the leader's next, or, for a member, the one that the leader gives (R365; DESIGN CHOICE, log 4); after the
last number of a session, the next at every member (R366). -/
def nextSession (s : State) (g : Group) : Nat × State :=
  if g.self = 0 ∨ g.reopens then (sessionAfter g.session, s)
  else let v := s.free; (v.1 % 65535 + 1, v.2)

/-- Judge packets one after another (R347). -/
def judgeAll (s : State) (l : List Packet) : State := l.foldl judgePacket s

/-- GROUP_OPEN_CONFIRMED: every member has confirmed within 10 s; the packets held meanwhile are judged (R347, R365). Without its identity key this
device confirms nothing (R369, R376). -/
def execGroupOpenConfirmed (group : Nat) (s : State) : Host.Outcome State Fault Refusal :=
  match s.group? group with
  | none => .next s
  | some g =>
    if g.state ≠ .opening ∨ s.idGone ∨ g.openedAt + 8500000000 ≤ s.now then .next s
    else
      let v := nextSession s g
      .next (judgeAll (putGroup v.2 { g with
        session := v.1, next := 0, low := 0, retired := [], state := .open, held := [], sent := 0, reopens := false }
        [.session, .next, .low, .state]) g.held)

/-- An open fails with a cause; the packets held meanwhile are dropped and counted (R347, R365). -/
def failOpen (s : State) (g : Group) (cause : Nat) : State :=
  judgeAll (putGroup s { g with state := .failed, cause := cause, held := [], reopens := false } [.state, .cause]) g.held

/-- GROUP_OPEN_TIMEOUT: 10 s without every confirmation, the open fails with GCAUSE 1 (R347, R365). -/
def execGroupOpenTimeout (group : Nat) (s : State) : Host.Outcome State Fault Refusal :=
  match s.group? group with
  | none => .next s
  | some g => .next (if g.state = .opening ∧ g.openedAt + 8500000000 ≤ s.now then failOpen s g 1 else s)

/-- A signature of the agreement of a group fails: its open fails with GCAUSE 2 (R365, R369). -/
def signatureFails (s : State) (group : Nat) : State :=
  match s.group? group with
  | none => s
  | some g => if g.state = .opening then failOpen s g 2 else s

/-- GROUP_CLOSE_COMPLETE: a pending close takes effect (R365). -/
def execGroupCloseComplete (group : Nat) (s : State) : Host.Outcome State Fault Refusal :=
  match s.group? group with
  | none => .next s
  | some g => .next (if g.closing && g.state == .open && g.low == g.next then closeGroup s g else s)

/-- A collective of this group waits at issue at some core. -/
def collectiveWaits (s : State) (group : Nat) : Bool :=
  s.cores.any (fun k => match k.a.status with
    | .waiting (.copySlot _) _ => (match groupReg (instrAtA (s.focus k.num)) with
      | some b => (readReg k.aregs b).toNat % 4096 == group
      | none => false)
    | _ => false)

/-- The group's next collective would take number 2^31, and every number of the session has retired (R366). -/
def Group.exhausted (g : Group) : Bool := g.state == .open && !g.closing && g.next == 2 ^ 31 && g.low == 2 ^ 31

/-- SESSION_REOPEN: a collective waits for a number that its group's session does not have; once all have retired, the group opens again
under the course of R365 (R366). -/
def execSessionReopen (group : Nat) (s : State) : Host.Outcome State Fault Refusal :=
  match s.group? group with
  | none => .next s
  | some g => .next (if g.exhausted && collectiveWaits s group then beginOpen s { g with reopens := true } else s)

end Sys2Proof.Machine
end

