-- ==== Sys2Proof/Machine/Preempt.lean ====
section
/-! DEFINITION. SAVEC and RESTC, and the course of a pre-emption: its save, its refusal, the save-broken state, the restore
(R124, R295–R300, R342, R357–R360). -/
namespace Sys2Proof.Machine

/-! ### What must be over before a transfer (R113, R296) -/

/-- What a core has issued is over, but for operations that its matrix engine has not started (R296). -/
def quiet (s : State) (n : Nat) : Bool :=
  let k := s.coreAt n
  s.flights.all (fun f => f.core != n || f.orphan) && k.matrix.all (fun o => o.started.isNone) && reservedFilled k

/-- A stream has been stopped, or has ended. -/
def StreamState.stands (v : StreamState) : Bool :=
  match v.status with
  | .stopped _ => true
  | .ended => true
  | _ => false

/-- A member has stopped for a hard pre-emption (R296). -/
def atStop (s : State) (n : Nat) : Bool :=
  let k := s.coreAt n
  k.hardStop && k.banks.isEmpty && k.pending.isNone && k.c.stands && k.a.stands && k.x.stands

/-! ### SAVEC and RESTC (R124, R300) -/

/-- The checks of R124 on every byte of an area of `len` bytes: what the instruction raises. -/
def areaTrap (s : State) (va len : Nat) (write : Bool) : Option TrapInfo :=
  (piecesFault (piecesOf s.core.ltt va len) write).map (fun r =>
    { cause := r.1, addr := BitVec.ofNat 64 r.2.va, aux0 := BitVec.ofNat 64 (r.2.va - va), aux1 := (pieceAux r.2 write).1, aux2 := (pieceAux r.2 write).2 })

/-- SAVEC and RESTC: the checks, then the transfer, which holds the matrix engine (R300). In supervisor mode the A- and X-stream
always stand at the cut (R292). An sA that is not a multiple of 64 KiB raises ILLEGAL, for which R124 names no cause (DESIGN CHOICE,
log 237). SAVEC reads the whole core store, and raises what a marked unit of it raises (R381; DEDUCED, log 225). -/
def transfer (restore : Bool) (y : BitVec 4) (a b : Reg) (s : State) : Host.Outcome State Fault Refusal :=
  supervisor y s (fun s =>
    let va := (s.rs a).toNat
    if s.core.c.woken then .retire s
    else if va % 65536 ≠ 0 ∨ (s.rs b).toNat < imageBytes then .raise (illegal .C s)
    else match areaTrap s va (s.rs b).toNat (!restore) with
      | some t => .raise t
      | none =>
        if restore && !areaBroken s s.core va && !imageValid s (readImage s s.core va) then .raise (illegal .C s)
        else if !restore && s.poisoned (coreKey s.core.num 0) coreBytes then .raise { cause := .eccUncorrectable }
        else if s.core.engineHeld then .block s .saveTransfer
        else .block { s.setCore { s.core with engineHeld := true } with
          transfers := s.transfers ++ [{ core := s.core.num, restore := restore, area := va }] } .saveTransfer)

/-- SAVEC (R124). -/
def execCSavec (y : BitVec 4) (a b : Reg) (s : State) : Host.Outcome State Fault Refusal := transfer false y a b s

/-- RESTC (R124). -/
def execCRestc (y : BitVec 4) (a b : Reg) (s : State) : Host.Outcome State Fault Refusal := transfer true y a b s

/-- The code-image address of a core's launch. -/
def codeOf (s : State) (k : Core) : Nat :=
  match k.member.bind (fun m => s.launch? m.1) with
  | none => 0
  | some l => l.record.code

/-- A bank's stream word with a saved record in its place: STOP stays, but agrees with ENDED (R290, R301). -/
def recordWord (old : Word) (r : StreamRecord) : Word :=
  let stop := if r.ended then 3 else if bits old 21 3 = 3 then 0 else bits old 21 3
  BitVec.ofNat 64 (r.psig.toNat * 2 ^ 24 + stop * 2 ^ 21 + bits old 20 1 * 2 ^ 20 + (if r.bx.isSome then 2 ^ 19 else 0) +
    (if r.ended then 2 ^ 18 else 0) + (if r.waited then 2 ^ 17 else 0) + r.pc)

/-- Bank 0 as RESTC reinstates it: its registers and the streams of the image (R300). -/
def bankAt (raw : List Byte) : TrapBank :=
  let r := fun (n : Nat) => csrAt raw (0x110 + n)
  { tcause := r 0, tpcc := recordWord (r 1) (recordAt raw 0), tpca := recordWord (r 2) (recordAt raw 1), tpcx := recordWord (r 3) (recordAt raw 2)
    taddr := r 4, thnd := r 5, tissue := r 6, taux0 := r 7, taux1 := r 8, taux2 := r 9
    loopsC := loopsAt raw 0, loopsA := loopsAt raw 1, loopsX := loopsAt raw 2, bx := (recordAt raw 2).bx }

/-- The values of an image that the spec leaves open, and how many (DESIGN CHOICE, log 4). -/
def imageOpens (fresh : Nat) (i : Nat) : Nat := Config.freeBits (fresh + i)
def imageOpenValues : Nat := 320

/-- RESTC reinstates the context of an image in the core in focus, under the handler that runs (R300): a handle that the core holds
with the same description keeps its channel map, any other takes that of now (DEDUCED, log 44). -/
def reinstate (s : State) (raw : List Byte) : State :=
  let k := s.core
  let map := fun (h : Nat) (o : Shape) => match k.handle h with
    | some q => if q.crc = o.crc then q.chanMap else s.cmap
    | none => s.cmap
  let ctx := withContext k raw s.now k.lastacq.toNat (handlesAt raw map) k.tape.dropped (imageOpens s.fresh)
  let word := fun (w : Word) => ({ status := if bits w 18 1 = 1 then .ended else .stopped (bits w 21 3) } : StreamState)
  let b := bankAt raw
  withStore { s.setCore { ctx with banks := b :: k.banks.drop 1, a := word b.tpca, x := word b.tpcx } with
    fresh := s.fresh + imageOpenValues
    marks := s.marks.filter (fun m => m.core != k.num || (match m.unit with | .code _ _ => true | _ => false)) } k.num raw []

/-- SAVE_IMAGE_TRANSFER_END: the image of the core in focus has been written or read, and its SAVEC or RESTC retires (R124, R300). -/
def execSaveImageTransferEnd (s : State) : Host.Outcome State Fault Refusal :=
  match s.transfers.find? (fun t => t.core == s.core.num) with
  | none => .next s
  | some t =>
    if !quiet s s.core.num || areaBroken s s.core t.area || (!t.restore && !areaQuiet s s.core t.area) then .next s
    else
      let u := if t.restore then reinstate s (readImage s s.core t.area)
        else writeImage s s.core t.area (saveImage s s.core (codeOf s s.core) 1)
      let u := { u with transfers := u.transfers.filter (fun x => x.core != s.core.num) }
      .next (u.setCore { u.core with engineHeld := false, c := { u.core.c.run s.now with woken := true } })

/-! ### The save of a team (R295–R298, R357) -/

/-- The save area of a member (R297). -/
def areaOf (l : Launch) (t : Nat) : Nat := l.record.save + imageBytes * t

/-- A stopped stream goes on as RTT would let it (R293, R297). -/
def StreamState.goOn (now : Nat) (st : StreamId) (v : StreamState) : StreamState :=
  match v.status with
  | .stopped _ => if v.psig ≠ 0 then { v with status := .waiting (.room (signalWant st v.psig)) now } else v.run now
  | _ => v

/-- A pre-emption is refused for the whole team: its members go on from their stops (R297, R353). -/
def refuse (s : State) (l : Launch) (cause t : Nat) : State :=
  let go := fun (k : Core) =>
    { k with softPending := false, hardStop := false, c := k.c.goOn s.now .C, a := k.a.goOn s.now .A, x := k.x.goOn s.now .X }
  let u := l.members.foldl (fun (u : State) n => (stopStreams u n).onCore n go) { s with preemption := none }
  putStatus (u.putLaunch { l with refused := true, cause := cause, detail := t }) l.mailbox l.tag t cause true 3

/-- Begin the transfer: each member that has unpublished accesses makes a release first, in ascending core number (R232, R296). -/
def beginTransfer (s : State) (l : Launch) (p : Preemption) : State :=
  let u := (ascending l.members).foldl (fun (u : State) n => let u := stopStreams u n; if (u.coreAt n).unpublished then u.release n else u) s
  { u with preemption := some { p with saving := true } }

/-- PREEMPT_SAVE_BEGIN: every member is at its fence, or has stopped, and what it issued is over; the save areas are checked, and
the transfer begins or the pre-emption is refused (R295–R297). -/
def execPreemptSaveBegin (launch : Nat) (s : State) : Host.Outcome State Fault Refusal :=
  match s.preemption, s.launch? launch with
  | some p, some l =>
    let ready := l.members.all (fun n => (if p.hard then atStop s n else atFence s n) && quiet s n)
    if p.victim ≠ launch ∨ p.saving ∨ teamOver s l ∨ !ready then .next s
    else match l.members.zipIdx.findSome? (fun m => (areaFault (s.coreAt m.1) (areaOf l m.2) true).map (fun r => (r.1, m.2))) with
      | some (c, t) => .next (refuse s l c.code t)
      | none => .next (beginTransfer s l p)
  | _, _ => .next s

/-- What is kept of a member beside its image. -/
def keepMember (s : State) (k : Core) : KeptMember :=
  let es := (List.finRange 4).flatMap (fun q => (k.lq[q]).items.zipIdx.filterMap (fun e => e.1.error.map (fun d => (q.val, e.2, d))))
  { cycles := k.cycles s.now, maps := k.handles.map (fun e => (e.1, e.2.chanMap)), dropped := k.tape.dropped
    latches := k.latches, reports := k.reports
    errors := es ++ k.bqa.items.zipIdx.filterMap (fun e => e.1.error.map (fun d => (6, e.2, d))) ++
      k.bqx.items.zipIdx.filterMap (fun e => e.1.error.map (fun d => (7, e.2, d)))
    marks := (s.marks.filter (fun m => m.core == k.num)).map (·.unit) |>.filter (fun u => match u with | .code _ _ => false | _ => true)
    poison := (s.poison.filter (fun u => decide (coreKey k.num 0 ≤ u) && decide (u < coreKey k.num 0 + coreBytes))).map (· - coreKey k.num 0) }

/-- Requests for migrations that cores of a team made are the team's from now on (R312). -/
def suspendRequests (l : Launch) (m : Migration) : Migration :=
  let mine := fun (q : Nat × Word) => l.members.contains q.1
  { m with requests := m.requests.filter (fun q => !mine q)
           suspended := m.suspended ++ (m.requests.filter mine).map (fun q => (l.id, l.members.idxOf q.1, q.2)) }

/-- The winner of a pre-emption holds the cores that the victim frees, while it waits (R357). -/
def holdCores (s : State) (winner : Nat) (cores : List Nat) : State :=
  match s.launch? winner with
  | some w => if w.state = .waiting then s.putLaunch { w with held := cores } else s
  | none => s

/-- SAVE_END: the images are written, the team is SUSPENDED, its cores are free for the launch that they are held for, and a pass
runs (R356, R357). -/
def execSaveEnd (launch : Nat) (s : State) : Host.Outcome State Fault Refusal :=
  match s.preemption, s.launch? launch with
  | some p, some l =>
    if p.victim ≠ launch ∨ !p.saving ∨ teamOver s l ∨
        l.members.zipIdx.any (fun m => areaBroken s (s.coreAt m.1) (areaOf l m.2) || !areaQuiet s (s.coreAt m.1) (areaOf l m.2)) then .next s
    else
      let kept := l.members.map (fun n => keepMember s (s.coreAt n))
      let u := l.members.zipIdx.foldl (fun (u : State) m =>
        writeImage u (s.coreAt m.1) (areaOf l m.2) (saveImage s (s.coreAt m.1) l.record.code (if p.hard then 0 else 2))) s
      let u := { resetCores u l.members with preemption := none, migrations := u.migrations.map (suspendRequests l) }
      let u := enterState u { l with since := s.now, members := [], kept := kept } .suspended
      .next { holdCores u p.winner l.members with passDue := true }
  | _, _ => .next s

/-- The member of a launch whose transfer has met an area that is no longer usable. -/
def brokenMember (s : State) (l : Launch) : Option Nat :=
  (l.members.zipIdx.find? (fun m => (savingTeam s l.id && areaBroken s (s.coreAt m.1) (areaOf l m.2)) ||
    s.transfers.any (fun t => t.core == m.1 && areaBroken s (s.coreAt m.1) t.area))).map (·.2)

/-- SAVE_BROKEN: the transfer stops and the launch is lost (R298). -/
def execSaveBroken (launch : Nat) (s : State) : Host.Outcome State Fault Refusal :=
  match s.launch? launch with
  | none => .next s
  | some l => .next (match brokenMember s l with | some t => failLaunch s launch 0x84 t | none => s)

/-! ### The restore (R299, R342, R359, R360) -/

/-- The lowest handle of an image that checks 1 to 12 of R105 refuse (R299 step 4). -/
def handleFault (s : State) (ltt : List (Nat × Xlat)) (raw : List Byte) : Option LoadError :=
  (List.range 1024).findSome? (fun h => (handleAt raw h).bind (fun d => if (sealReason s ltt d).isSome then some (13, h) else none))

/-- An EXACT handle of an image was sealed against another channel map (R299 step 4, R360). -/
def staleHandle (s : State) (raw : List Byte) (maps : List (Nat × Nat)) (h : Nat) : Bool :=
  match handleAt raw h with
  | none => false
  | some d => (parseShape d).exact && maps.any (fun e => e.1 == h && e.2 != s.cmap)

/-- The checks of R332 on a tape that is bound (R342). -/
def tapeRestoreFault (raw : List Byte) (ltt : List (Nat × Xlat)) (t : Nat) : Option LoadError :=
  let w := csrAt raw 0x50
  let lim := bits w 25 25
  if lim = 0 then none
  else match handleAt raw (bits w 50 10) with
    | none => some (13, bits w 50 10)
    | some d =>
      let o := parseShape d
      if 8 * lim < 16 ∨ o.footprint < 8 * lim ∨ o.space ≠ 2 then some (1, t)
      else (tapeFault o (bits w 50 10) (piecesOf ltt o.base (8 * lim))).map (fun e => (e.cause.code, t))

/-- What the checks of a member's restore find (R299): `k` is its core with the table loaded. -/
def restoreFault (s : State) (l : Launch) (k : Core) (t : Nat) : Option LoadError :=
  match areaFault k (areaOf l t) false with
  | some r => some (r.1.code, t)
  | none =>
    if areaBroken s k (areaOf l t) then some (0x84, t)
    else
      let raw := readImage s k (areaOf l t)
      if !imageValid s raw then some (1, t)
      else match handleFault s k.ltt raw with
        | some e => some e
        | none => tapeRestoreFault raw k.ltt t

/-- The lowest handle of any member that was sealed against another channel map (R360): `core` gives each member's core with its table. -/
def staleFault (s : State) (l : Launch) (core : Nat → Nat → Core) : Option LoadError :=
  let ms := l.members.zipIdx.map (fun p => (readImage s (core p.2 p.1) (areaOf l p.2), (l.kept.getD p.2 {}).maps))
  ((List.range 1024).find? (fun h => ms.any (fun m => staleHandle s m.1 m.2 h))).map (fun h => (18, h))

/-- A stream of an image, as it starts at its saved point (R299). -/
def StreamRecord.start (r : StreamRecord) (st : StreamId) (now : Nat) : StreamState :=
  { pc := BitVec.ofNat 64 r.pc
    status := if r.ended then .ended else if r.psig ≠ 0 then .waiting (.room (signalWant st r.psig)) now else .running
    waited := r.waited, psig := r.psig, loops := r.loops, bx := r.bx, ready := now }

/-- Errors that queue entries carried go with them. -/
def withErrors (k : Core) (es : List (Nat × Nat × Deferred)) : Core :=
  es.foldl (fun (k : Core) e =>
    if e.1 = 6 then { k with bqa := { k.bqa with items := k.bqa.items.modify e.2.1 (fun b => { b with error := some e.2.2 }) } }
    else if e.1 = 7 then { k with bqx := { k.bqx with items := k.bqx.items.modify e.2.1 (fun b => { b with error := some e.2.2 }) } }
    else k.setLoadQueue (Fin.ofNat 4 e.1) { k.loadQueue (Fin.ofNat 4 e.1) with
      items := (k.loadQueue (Fin.ofNat 4 e.1)).items.modify e.2.1 (fun b => { b with error := some e.2.2 }) }) k

/-- The core of a member before its context is reinstated: its memories and its table (R299 steps 1 and 2). -/
def bareCore (s : State) (l : Launch) (table : List (Nat × Xlat)) (code handler : List Byte) (t n : Nat) : Core :=
  { Core.reset n with
    lastrel := (s.coreAt n).lastrel
    imemC := Memory.replace (Memory.replace [] 0 (sectionAt code 0x08 0x0C)) 0xC000 handler
    imemA := Memory.replace [] 0 (sectionAt code 0x10 0x14)
    imemX := Memory.replace [] 0 (sectionAt code 0x18 0x1C)
    ltt := table
    member := some (l.id, t) }

/-- Reinstate one member: it acquires, and its streams start (R232, R299). -/
def restoreMember (l : Launch) (bare : Nat → Nat → Core) (s : State) (p : Nat × Nat) : State :=
  let k := bare p.2 p.1
  let raw := readImage s k (areaOf l p.2)
  let q := l.kept.getD p.2 {}
  let map := fun (h : Nat) (_ : Shape) => ((q.maps.find? (fun e => e.1 == h)).map (·.2)).getD s.cmap
  let k := { k with latches := q.latches, reports := q.reports }
  let k := withErrors (withContext k raw s.now s.syncclk.toNat (handlesAt raw map) q.dropped (imageOpens s.fresh)) q.errors
  let k := { k with c := (recordAt raw 0).start .C s.now, a := (recordAt raw 1).start .A s.now, x := (recordAt raw 2).start .X s.now
                    mlate := k.mlate + BitVec.ofNat 64 q.late }
  withStore { (s.putCore k).remark p.1 q.marks with fresh := s.fresh + imageOpenValues } p.1 raw q.poison

/-- Requests for migrations of a team that runs again. -/
def resumeRequests (l : Launch) (m : Migration) : Migration :=
  { m with requests := m.requests ++ (m.suspended.filter (fun q => q.1 == l.id)).map (fun q => (l.members.getD q.2.1 0, q.2.2))
           suspended := m.suspended.filter (fun q => q.1 != l.id) }

/-- TEAM_RESTORE: the loader restores a suspended team on its new cores, or the launch fails (R299, R354, R359). -/
def execTeamRestore (launch : Nat) (s : State) : Host.Outcome State Fault Refusal :=
  match s.launch? launch with
  | none => .next s
  | some l =>
    if l.state ≠ .loading ∨ !l.saved then .next s
    else if l.record.budget ≠ 0 ∧ l.kept.any (fun q => decide (l.record.budget ≤ q.cycles / 1024)) then .next (failLaunch s launch 0x83 0)
    else match loadTable s l.record with
      | .error e => .next (failLaunch s launch e.1 e.2)
      | .ok table => match readCode s table (l.members.headD 0) l.record, supervisorImage s l.supimg with
        | .error e, _ => .next (failLaunch s launch e.1 e.2)
        | .ok _, none => .next (failLaunch s launch 0x86 0)
        | .ok (code, _), some handler =>
          let bare := bareCore s l table code handler
          match (l.members.zipIdx.findSome? (fun p => restoreFault s l (bare p.2 p.1) p.2)).or (staleFault s l bare) with
          | some e => .next (failLaunch s launch e.1 e.2)
          | none =>
            let t := l.members.zipIdx.foldl (restoreMember l bare) s
            .next (enterState { t with migrations := t.migrations.map (resumeRequests l) } { l with started := s.now, kept := [] } .running)

end Sys2Proof.Machine
end

