-- ==== Sys2Proof/Machine/Device.lean ====
section
/-! DEFINITION. Links and their faults, the security alarm, reset and boot, parity, scrub and channel retirement (R330, R361–R363,
R369, R370, R373–R379, R381). -/
namespace Sys2Proof.Machine

/-! ### The status registers (R374) -/

/-- DSTAT. -/
def dstatWord (s : State) : Nat :=
  s.phase + s.alarms % 4 * 2 ^ 5 + (if s.idGone then 2 ^ 7 else 0) + s.bootErr * 2 ^ 8 + (s.ret0 + s.ret1) % 256 * 2 ^ 16 + s.ret0 % 256 * 2 ^ 24 +
    s.ret1 % 256 * 2 ^ 32 + s.cmap % 2 ^ 16 * 2 ^ 48

/-- The device shows its status in DSTAT. -/
def showStatus (s : State) : State := commitBytes s (hwinKey 0 0xFFD00) (leBytes 8 (dstatWord s))

/-- An error has been corrected: ECNT holds at all ones (R374). -/
def countCorrected (s : State) : State :=
  let c := if s.corr = BitVec.allOnes 64 then s.corr else s.corr + 1
  commitBytes { s with corr := c } (hwinKey 0 0xFFD08) (leBytes 8 c.toNat)

/-! ### AtomicOps of the host (R371) -/

/-- A host write to a device register takes effect at once, as one that an AtomicOp makes does. -/
def writeRegister (s : State) (k : Nat) (data : List Byte) (sort : HostWrite) : Host.Outcome State Fault Refusal :=
  let t := { s with hostIn := .write k data :: s.hostIn }
  let go := fun (o : Host.Outcome State Fault Refusal) => match o with
    | .next u => if u.hostIn.length = t.hostIn.length then execHwinRegisterWrite t else .next u
    | o => o
  match sort with
  | .plain => .next (commitBytes s k data)
  | .register => execHwinRegisterWrite t
  | .doorbell m => execDoorbell m t
  | .ctrl g => if (commitBytes s k data).word (groupKey g + 0x0B) 1 = 1 then execGroupOpen g t else go (execGroupClose g t)
  | .areq => go (execAttestationRequest t)

/-- HOST_ATOMICOP: FetchAdd, Swap or CAS on 4 or 8 aligned bytes of BAR0, in one commit step; anywhere else, or any other, it is
completed with Unsupported Request (R371). One that writes a device register acts as a host write of it does. -/
def execHostAtomicop (s : State) : Host.Outcome State Fault Refusal :=
  match s.hostIn with
  | .atomicOp k n op v x :: rest =>
    let t := { s with hostIn := rest }
    let known := op == .add || op == .xchg || op == .cas
    if spaceOfKey k ≠ 6 ∨ !known ∨ !(n == 4 || n == 8) ∨ k % n ≠ 0 then .next { t with outputs := t.outputs ++ [.unsupported] }
    else if s.poisoned k n then .next { t with outputs := t.outputs ++ [.poisoned] }
    else
      let new := leBytes n (hostAtomic op (s.word k n) (v.toNat % 2 ^ (8 * n)) (x.toNat % 2 ^ (8 * n)))
      writeRegister { t with outputs := t.outputs ++ [.data (s.bytes k n)] } k new (hostWriteSort k n)
  | _ => .next s

/-! ### Links (R361, R362, R369) -/

/-- A link that is up on a port. -/
def linksOn (s : State) (port : Nat) : List Link := s.links.filter (fun l => l.up && l.port == port && decide (l.num < 128))

/-- A link may come up (R361, R369, R373): its port, or its tunnel with a valid entry, is there, and the port is not in the other mode; the
identity key signs the agreement. -/
def linkMayRise (s : State) (n : Nat) : Option Path :=
  match pathOf s n with
  | none => none
  | some p =>
    let up := match s.link? n with | some l => l.up | none => false
    if up || s.idGone || decide (s.phase < 5) || (linksOn s p.port).any (fun l => decide (l.num < 16) || decide (n < 16)) then none else some p

/-- LINK_BRINGUP: a link comes up with a session key of its own, and sets the mode of its port (R361, R369, R373). One whose agreement
fails stays down. -/
def execLinkBringup (link : Nat) (s : State) : Host.Outcome State Fault Refusal :=
  match linkMayRise s link with
  | none => .next s
  | some p => .next (s.putLink { num := link, up := true, port := p.port })

/-- LINK_REKEY: after 2^31 frames the link takes a new session key; no traffic is lost (R369). -/
def execLinkRekey (link : Nat) (s : State) : Host.Outcome State Fault Refusal :=
  match s.link? link with
  | some l => .next (if l.up && decide (2 ^ 31 ≤ l.frames) then s.putLink { l with frames := l.frames - 2 ^ 31, rekeys := l.rekeys + 1 } else s)
  | none => .next s

/-- The frames that follow the last delivered one in sequence: the link and the packets delivered (R361). -/
def inSequence : Nat → Link → List Packet → Link × List Packet
  | 0, l, out => (l, out)
  | n + 1, l, out =>
    match l.ahead.find? (fun f => f.seq == l.expect) with
    | none => (l, out)
    | some f => inSequence n { l with expect := l.expect + 1, ahead := l.ahead.filter (fun g => g.seq != f.seq) } (out ++ [f.packet])

/-- FRAME_RECEIVE: the next frame of a link is authenticated and delivered, by a tunnel in sequence and once; a fragment is dropped
(R361, R370). -/
def execFrameReceive (link : Nat) (s : State) : Host.Outcome State Fault Refusal :=
  match s.link? link with
  | none => .next s
  | some l => match l.arrived with
    | [] => .next s
    | f :: rest =>
      let l := { l with arrived := rest }
      if !l.up || f.fragment && decide (64 ≤ link) then .next (s.putLink l)
      else if !f.authentic || !f.wellFormed then .next (countAuth (s.putLink l))
      else if link < 64 then .next { s.putLink { l with frames := l.frames + 1 } with inbox := s.inbox ++ [f.packet] }
      else
        let known := decide (f.seq < l.expect) || l.ahead.any (fun g => g.seq == f.seq)
        let r := inSequence (l.ahead.length + 1) (if known then l else { l with ahead := l.ahead ++ [f], frames := l.frames + 1 }) []
        .next { s.putLink r.1 with inbox := s.inbox ++ r.2, outputs := s.outputs ++ [.frameAck link f.seq] }

/-- TUNNEL_RETRANSMIT: a frame that has not been acknowledged within 2 ms is sent again (R361). -/
def execTunnelRetransmit (link : Nat) (s : State) : Host.Outcome State Fault Refusal :=
  match s.link? link with
  | none => .next s
  | some l => match l.unacked.find? (fun u => decide (u.2.1 + 1700000 ≤ s.now)) with
    | none => .next s
    | some u => .next { s.putLink { l with unacked := l.unacked.map (fun x => if x.1 = u.1 then (x.1, s.now, x.2.2) else x), retries := l.retries + 1 } with
        outputs := s.outputs ++ [.frame link u.1 ((pathOf s link).getD { port := l.port }) u.2.2] }

/-! ### The failure of a link (R330, R363, R377) -/

/-- ECC_UNCORRECTABLE of the fabric (R287, R363). -/
def fabricError (f : Flight) : TrapInfo := { cause := .eccUncorrectable, aux0 := 7, addr := BitVec.ofNat 64 f.va, hnd := f.hnd }

/-- What an outstanding operation of the fabric becomes when links fail that it went out on (R363). -/
def failFlight (links : List Nat) (s : State) (f : Flight) : State :=
  let lost := f.links.any links.contains
  let e := some ((f.error).getD (fabricError f))
  match f.job with
  | .put _ w =>
    if lost then
      let g := { f with job := .put [] w, todo := [], error := e }
      endFabric (s.putFlight g) g
    else s
  | .get _ w => if lost then s.putFlight { f with job := .get [] w, todo := f.todo.filter (fun g => g.src.isNone), error := e } else s
  | .remoteAtomic ty => if lost then endFlight (spoilReg s f ty) { f with error := e } else s
  | .collective c =>
    if c.unacked.any (fun u => links.contains u.2) then
      let c := { c with unacked := c.unacked.filter (fun u => !links.contains u.2) }
      if c.pieces.isEmpty && c.unacked.isEmpty then s.dropFlight f.id else s.putFlight { f with job := .collective c, error := if c.pieces.isEmpty then f.error else e }
    else s
  | _ => s

/-- Links go down: what they carried is lost, and the operations outstanding over them fail (R363). -/
def failLinks (s : State) (links : List Nat) : State :=
  let down := fun (l : Link) => if links.contains l.num then ({ num := l.num, rekeys := l.rekeys } : Link) else l
  s.flights.foldl (fun (t : State) f => match t.flight? f.id with | some g => failFlight links t g | none => t) { s with links := s.links.map down }

/-- What an operation of the units becomes when the link of a chip fails at which it is outstanding (R330): bags with a partial there are
marked, as an uncorrectable row marks them, and a KVATT has an error (R322, R326). Rows that are still to be read there fail as they
are read. -/
def cutUnit (s : State) (chip : Nat) (f : Flight) : State :=
  match f.job with
  | .embag _ _ _ _ _ _ _ _ (some p) _ _ =>
    (p.parts.filter (fun q => q.1 == chip)).foldl (fun (t : State) q => strikePartial t f.id chip q.2.1) s
  | .kvatt _ _ _ _ _ _ _ _ (some _) _ _ => strikePartial s f.id chip 0
  | _ => s

/-- The link of an archive chip fails: its echoes are lost, and the operations outstanding there fail as an uncorrectable read (R330). -/
def failChip (s : State) (chip : Nat) : State :=
  let lost := s.echoes.filter (fun e => e.chip == chip)
  let t := { s with deadChips := chip :: s.deadChips, echoes := s.echoes.filter (fun e => e.chip != chip) }
  let t := s.flights.foldl (fun (t : State) f => cutUnit t chip f) t
  lost.foldl (fun (t : State) e => match t.flight? e.op with
    | none => t
    | some f =>
      let g := { f with error := some ((f.error).getD { eccAt f e.key with aux0 := 3 }) }
      unitEnd (t.putFlight g) g) t

/-- FLIT_CRC_RETRY: a flit fails its CRC and is retried; the ninth failure in a row fails what runs over the link: a port (0–15), the link of
an archive chip (128 + its number), or the bridge (140), whose failure the spec gives no other effect (DESIGN CHOICE, log 222)
(R330, R363, R377). -/
def execFlitCrcRetry (link : Nat) (s : State) : Host.Outcome State Fault Refusal :=
  let l := (s.link? link).getD { num := link, up := decide (128 ≤ link), port := link }
  let works := if link < 16 then !(linksOn s link).isEmpty else decide (128 ≤ link) && decide (link ≤ 140) && l.up
  if !works then .next s
  else if l.crcFails < 8 then .next (countCorrected (s.putLink { l with crcFails := l.crcFails + 1 }))
  else if link < 16 then .next (failLinks (s.putLink { l with crcFails := 0 }) ((linksOn s link).map (·.num)))
  else
    let t := s.putLink { l with crcFails := 0, up := false }
    .next (if link < 140 then failChip t (link - 128) else t)

/-- A flit passes its CRC: the failures before it are no longer in a row (R377). -/
def flitPasses (s : State) (n : Nat) : State :=
  match s.link? n with
  | none => s
  | some l => s.putLink { l with crcFails := 0 }

/-! ### Reset and boot (R373) -/

/-- What a device reset leaves of memory: DSTAT and the registers beside it are set, the rest stands (DEDUCED, log 60). -/
def memoryAtReset (s : State) : List Host.Cell := Memory.setAll s.mem (hwinKey 0 0xFFD00) (List.replicate 24 0)

/-- The marks of memory after a device reset: the registers that it sets are written whole (R381). -/
def poisonAtReset (s : State) : List Nat :=
  s.poison.filter (fun u => !(decide (hwinKey 0 0xFFD00 ≤ u) && decide (u < hwinKey 0 0xFFD18)))

/-- Device reset (R373): every core, launch, link, group and table goes; what the flash and the fuses keep stays, and memory's bytes
and marks stand (DEDUCED, log 60). -/
def resetDevice (s : State) : State :=
  showStatus { State.reset with
    agenda := s.agenda, rotor := s.rotor, fresh := s.fresh, nextId := s.nextId, mem := memoryAtReset s, poison := poisonAtReset s
    outputs := s.outputs, devid := s.devid, idGone := s.idGone, ret0 := s.ret0, ret1 := s.ret1, tableSteps := s.tableSteps
    epoch := s.epoch + s.now, failures := s.failures, retiring := s.retiring, retired := s.retired }

/-- DEVICE_RESET: power-on, or a host PCIe reset of the function (R373). -/
def execDeviceReset (s : State) : Host.Outcome State Fault Refusal := .next (resetDevice s)

/-- JUNCTION_OVERTEMP: a junction at 105 °C resets the device (R379). -/
def execJunctionOvertemp (s : State) : Host.Outcome State Fault Refusal := .next (resetDevice s)

/-- Boot clears both HWINs but DSTAT, ECNT and AREQ, and writes DCTL (R357, R373 step 4). -/
def clearWindows (s : State) : State :=
  let kept := s.bytes (hwinKey 0 0xFFD00) 24
  let gone := fun (c : Host.Cell) => decide (hwinKey 0 0 ≤ c.1) && decide (c.1 < hwinKey 0 (2 ^ 21))
  commitBytes { s with
    mem := Memory.setAll (s.mem.filter (fun c => !gone c)) (hwinKey 0 0xFFD00) kept
    poison := s.poison.filter (fun u =>
      !(decide (hwinKey 0 0 ≤ u) && decide (u < hwinKey 0 (2 ^ 21))) || decide (hwinKey 0 0xFFD00 ≤ u) && decide (u < hwinKey 0 0xFFD18)) }
    (hwinKey 0 0xF3400) (leBytes 8 (2 ^ 32 + 2000))

/-- BOOTERR of a step that fails; step 3 has three ways to (R374). -/
def bootError (s : State) : Nat × State :=
  match s.phase with
  | 1 => (1, s)
  | 2 => (2, s)
  | 3 => let v := s.free; (3 + v.1 % 3, v.2)
  | _ => (6, s)

/-- BOOT_STEP: the first step begins; the step under way ends, and the next begins; or it fails, and boot stops there (R373). -/
def execBootStep (ok : Bool) (s : State) : Host.Outcome State Fault Refusal :=
  if s.bootErr ≠ 0 ∨ 6 ≤ s.phase then .next s
  else if s.phase = 0 ∨ s.phase = 5 then .next (showStatus { s with phase := s.phase + 1 })
  else if ok then .next (showStatus { (if s.phase = 4 then clearWindows s else s) with phase := s.phase + 1 })
  else let e := bootError s; .next (showStatus { e.2 with bootErr := e.1 })

/-! ### The security alarm (R376) -/

/-- SECURITY_ALARM: every link of the fabric, whose session keys are erased, goes down, open groups fail, a tamper alarm takes the identity
key, the third in a row, with no 100 ms free of alarms between, resets the device (R369, R376). -/
def execSecurityAlarm (s : State) : Host.Outcome State Fault Refusal :=
  let count := if s.lastAlarm + 85000000 ≤ s.now then 1 else s.alarms + 1
  let t := { s with alarms := count, lastAlarm := s.now, idGone := s.idGone || s.tamperNext, tamperNext := false }
  if 3 ≤ t.alarms then .next (resetDevice t)
  else
    let t := failLinks t ((t.links.map (·.num)).filter (· < 128))
    .next (showStatus (t.groups.foldl (fun (u : State) g =>
      if g.state = .open then putGroup u { g with state := .failed, cause := 4, held := [], closing := false } [.state, .cause] else u) t))

/-- ALARM_QUIET_TIMEOUT: 100 ms without an alarm (R376). -/
def execAlarmQuietTimeout (s : State) : Host.Outcome State Fault Refusal :=
  .next (if s.alarms ≠ 0 ∧ s.lastAlarm + 85000000 ≤ s.now then showStatus { s with alarms := 0 } else s)

/-! ### Parity, scrub, channels (R377, R378) -/

/-- A parity error of the core in focus can be dealt with: its stream is at a boundary, or has ended (R377). -/
def parityReady (s : State) (p : Nat × StreamId × Nat) : Bool :=
  p.1 == s.core.num && (match (s.stream p.2.1).status with
    | .running => s.core.pending.isNone
    | .ended => true
    | .notStarted => true
    | _ => false)

/-- CONTROL_PARITY_ERROR: the next parity error of the core in focus is reported at its stream's next boundary (R377); one of a
stream that has ended is reported nowhere. -/
def execControlParityError (s : State) : Host.Outcome State Fault Refusal :=
  match s.parity.find? (parityReady s) with
  | none => .next s
  | some p =>
    let t := { s with parity := s.parity.erase p }
    .next (if (s.stream p.2.1).status = .running then raiseTrap p.2.1 t { cause := .eccUncorrectable, aux0 := 6 } else t)

/-- PATROL_SCRUB: the scrub corrects an error and writes the data back through the owning port; nothing but the count changes (R377). -/
def execPatrolScrub (s : State) : Host.Outcome State Fault Refusal := .next (countCorrected s)

/-- Cycles in 24 hours. -/
def dayCycles : Nat := 24 * 3600 * 850000000

/-- CHANNEL_FAILURE: a GDDR7 channel that has not been retired fails uncorrectably; a second failure within 24 hours, a device reset between them or not, begins its
retirement (R378; DEDUCED, log 224). -/
def execChannelFailure (channel : Nat) (s : State) : Host.Outcome State Fault Refusal :=
  if 192 ≤ channel ∨ s.retired.contains channel then .next s
  else
    let time := s.epoch + s.now
    let again := s.failures.any (fun f => f.1 == channel && decide (time ≤ f.2 + dayCycles))
    .next { s with failures := (channel, time) :: s.failures.filter (fun f => f.1 != channel)
                   retiring := if again && !s.retiring.contains channel then s.retiring ++ [channel] else s.retiring }

/-- A valid translation entry reaches into the top 1 GB of a die's NEAR range. -/
def Xlat.reaches (e : Xlat) (lo hi : Nat) : Bool :=
  let meet := fun (space a : Nat) => space == 2 && decide (a < hi) && decide (lo < a + e.size)
  meet e.space e.phys || (e.altv && meet (5 - e.space) e.alt) || (e.rdup && meet e.space e.alt)

/-- No valid translation entry maps the top 1 GB of a die's NEAR range (R378). -/
def topFree (s : State) (die : Nat) : Bool :=
  let hi := nearTop s.ret0 s.ret1 die
  let es := s.cores.flatMap (fun k => if k.member.isSome then k.ltt.map (·.2) else []) ++ (exportTable s).map (·.2)
  es.all (fun e => !e.reaches (hi - 10 ^ 9) hi)

/-- CHANNEL_RETIREMENT_END: the channel map changes, and NEAR shrinks (R378). -/
def execChannelRetirementEnd (channel : Nat) (s : State) : Host.Outcome State Fault Refusal :=
  let die := channel / 96
  if s.retiring.contains channel && !s.retired.contains channel && topFree s die then
    .next (showStatus { s with
      retiring := s.retiring.filter (· != channel), retired := s.retired ++ [channel], failures := s.failures.filter (fun f => f.1 != channel), cmap := s.cmap + 1
      ret0 := if die = 0 then s.ret0 + 1 else s.ret0, ret1 := if die = 0 then s.ret1 else s.ret1 + 1 })
  else .next s

end Sys2Proof.Machine
end

