-- ==== Sys2Proof/Machine/Dispatch.lean ====
section
/-! DEFINITION. One arm for each constructor of Instr, each a direct call of its meaning. -/
namespace Sys2Proof.Machine

/-- The meaning of an instruction or an event at a state. -/
def exec (i : Instr) (s : State) : Host.Outcome State Fault Refusal :=
  match i with
  | .cAdd y d a b => Sys2Proof.Machine.execCAdd y d a b s
  | .cSub y d a b => Sys2Proof.Machine.execCSub y d a b s
  | .cAnd y d a b => Sys2Proof.Machine.execCAnd y d a b s
  | .cOr y d a b => Sys2Proof.Machine.execCOr y d a b s
  | .cXor y d a b => Sys2Proof.Machine.execCXor y d a b s
  | .cShl y d a b => Sys2Proof.Machine.execCShl y d a b s
  | .cShr y d a b => Sys2Proof.Machine.execCShr y d a b s
  | .cSra y d a b => Sys2Proof.Machine.execCSra y d a b s
  | .cMul y d a b => Sys2Proof.Machine.execCMul y d a b s
  | .cMulh y d a b => Sys2Proof.Machine.execCMulh y d a b s
  | .cMulhu y d a b => Sys2Proof.Machine.execCMulhu y d a b s
  | .cDiv y d a b => Sys2Proof.Machine.execCDiv y d a b s
  | .cRem y d a b => Sys2Proof.Machine.execCRem y d a b s
  | .cMin y d a b => Sys2Proof.Machine.execCMin y d a b s
  | .cMax y d a b => Sys2Proof.Machine.execCMax y d a b s
  | .cAddi y d a imm => Sys2Proof.Machine.execCAddi y d a imm s
  | .cAndi y d a imm => Sys2Proof.Machine.execCAndi y d a imm s
  | .cOri y d a imm => Sys2Proof.Machine.execCOri y d a imm s
  | .cXori y d a imm => Sys2Proof.Machine.execCXori y d a imm s
  | .cShli y d a n => Sys2Proof.Machine.execCShli y d a n s
  | .cShri y d a n => Sys2Proof.Machine.execCShri y d a n s
  | .cSrai y d a n => Sys2Proof.Machine.execCSrai y d a n s
  | .cLi y d imm => Sys2Proof.Machine.execCLi y d imm s
  | .cLui y d imm => Sys2Proof.Machine.execCLui y d imm s
  | .cSeq y d a b => Sys2Proof.Machine.execCSeq y d a b s
  | .cSne y d a b => Sys2Proof.Machine.execCSne y d a b s
  | .cSlt y d a b => Sys2Proof.Machine.execCSlt y d a b s
  | .cSltu y d a b => Sys2Proof.Machine.execCSltu y d a b s
  | .cSle y d a b => Sys2Proof.Machine.execCSle y d a b s
  | .cSleu y d a b => Sys2Proof.Machine.execCSleu y d a b s
  | .cClz y d a => Sys2Proof.Machine.execCClz y d a s
  | .cPopc y d a => Sys2Proof.Machine.execCPopc y d a s
  | .cB y o => Sys2Proof.Machine.execCB y o s
  | .cBeq y a b o => Sys2Proof.Machine.execCBeq y a b o s
  | .cBne y a b o => Sys2Proof.Machine.execCBne y a b o s
  | .cBlt y a b o => Sys2Proof.Machine.execCBlt y a b o s
  | .cBge y a b o => Sys2Proof.Machine.execCBge y a b o s
  | .cBltu y a b o => Sys2Proof.Machine.execCBltu y a b o s
  | .cBgeu y a b o => Sys2Proof.Machine.execCBgeu y a b o s
  | .cCall y d o => Sys2Proof.Machine.execCCall y d o s
  | .cRet y a => Sys2Proof.Machine.execCRet y a s
  | .cLoop y a e => Sys2Proof.Machine.execCLoop y a e s
  | .cCsrr y d csr => Sys2Proof.Machine.execCCsrr y d csr s
  | .cCsrw y a csr => Sys2Proof.Machine.execCCsrw y a csr s
  | .cCsrs y a csr => Sys2Proof.Machine.execCCsrs y a csr s
  | .cCsrc y a csr => Sys2Proof.Machine.execCCsrc y a csr s
  | .cLdw y d a o => Sys2Proof.Machine.execCLdw y d a o s
  | .cStw y d a o => Sys2Proof.Machine.execCStw y d a o s
  | .cFpush y a => Sys2Proof.Machine.execCFpush y a s
  | .cFpushi y imm => Sys2Proof.Machine.execCFpushi y imm s
  | .cTshape y t a => Sys2Proof.Machine.execCTshape y t a s
  | .cSeal y h a => Sys2Proof.Machine.execCSeal y h a s
  | .cUnseal y h => Sys2Proof.Machine.execCUnseal y h s
  | .cDbar y l => Sys2Proof.Machine.execCDbar y l s
  | .cGenf y => Sys2Proof.Machine.execCGenf y s
  | .cBound y a => Sys2Proof.Machine.execCBound y a s
  | .cMigrate y h a b t => Sys2Proof.Machine.execCMigrate y h a b t s
  | .cFence y o sc => Sys2Proof.Machine.execCFence y o sc s
  | .cFlush y h a b => Sys2Proof.Machine.execCFlush y h a b s
  | .cTsig y side n => Sys2Proof.Machine.execCTsig y side n s
  | .cTwait y side n => Sys2Proof.Machine.execCTwait y side n s
  | .cTapec y h a => Sys2Proof.Machine.execCTapec y h a s
  | .cTrap y code => Sys2Proof.Machine.execCTrap y code s
  | .cRtt y => Sys2Proof.Machine.execCRtt y s
  | .cHalt y => Sys2Proof.Machine.execCHalt y s
  | .cWfe y => Sys2Proof.Machine.execCWfe y s
  | .cLttw y a b => Sys2Proof.Machine.execCLttw y a b s
  | .cLttinv y a => Sys2Proof.Machine.execCLttinv y a s
  | .cDreg y a b => Sys2Proof.Machine.execCDreg y a b s
  | .cDfree y a => Sys2Proof.Machine.execCDfree y a s
  | .cSavec y a b => Sys2Proof.Machine.execCSavec y a b s
  | .cRestc y a b => Sys2Proof.Machine.execCRestc y a b s
  | .aAdd y d a b => Sys2Proof.Machine.execAAdd y d a b s
  | .aSub y d a b => Sys2Proof.Machine.execASub y d a b s
  | .aAnd y d a b => Sys2Proof.Machine.execAAnd y d a b s
  | .aOr y d a b => Sys2Proof.Machine.execAOr y d a b s
  | .aXor y d a b => Sys2Proof.Machine.execAXor y d a b s
  | .aShl y d a b => Sys2Proof.Machine.execAShl y d a b s
  | .aShr y d a b => Sys2Proof.Machine.execAShr y d a b s
  | .aSra y d a b => Sys2Proof.Machine.execASra y d a b s
  | .aMul y d a b => Sys2Proof.Machine.execAMul y d a b s
  | .aMin y d a b => Sys2Proof.Machine.execAMin y d a b s
  | .aMax y d a b => Sys2Proof.Machine.execAMax y d a b s
  | .aSeq y d a b => Sys2Proof.Machine.execASeq y d a b s
  | .aSne y d a b => Sys2Proof.Machine.execASne y d a b s
  | .aSlt y d a b => Sys2Proof.Machine.execASlt y d a b s
  | .aSltu y d a b => Sys2Proof.Machine.execASltu y d a b s
  | .aAddi y d a imm => Sys2Proof.Machine.execAAddi y d a imm s
  | .aAndi y d a imm => Sys2Proof.Machine.execAAndi y d a imm s
  | .aShli y d a n => Sys2Proof.Machine.execAShli y d a n s
  | .aShri y d a n => Sys2Proof.Machine.execAShri y d a n s
  | .aLi y d imm => Sys2Proof.Machine.execALi y d imm s
  | .aLui y d imm => Sys2Proof.Machine.execALui y d imm s
  | .aB y o => Sys2Proof.Machine.execAB y o s
  | .aBeq y a b o => Sys2Proof.Machine.execABeq y a b o s
  | .aBne y a b o => Sys2Proof.Machine.execABne y a b o s
  | .aBlt y a b o => Sys2Proof.Machine.execABlt y a b o s
  | .aBge y a b o => Sys2Proof.Machine.execABge y a b o s
  | .aBltu y a b o => Sys2Proof.Machine.execABltu y a b o s
  | .aBgeu y a b o => Sys2Proof.Machine.execABgeu y a b o s
  | .aLoop y a e => Sys2Proof.Machine.execALoop y a e s
  | .aBrq y qual o => Sys2Proof.Machine.execABrq y qual o s
  | .aOpush y a => Sys2Proof.Machine.execAOpush y a s
  | .aVqpop y d => Sys2Proof.Machine.execAVqpop y d s
  | .aBound y a => Sys2Proof.Machine.execABound y a s
  | .aEnd y => Sys2Proof.Machine.execAEnd y s
  | .aNop y => Sys2Proof.Machine.execANop y s
  | .aLd8 y q h cf b ty o sc => Sys2Proof.Machine.execALd8 y q h cf b ty o sc s
  | .aLd16 y q h cf b ty o sc => Sys2Proof.Machine.execALd16 y q h cf b ty o sc s
  | .aLd32 y q h cf b ty o sc => Sys2Proof.Machine.execALd32 y q h cf b ty o sc s
  | .aLd64 y q h cf b ty o sc => Sys2Proof.Machine.execALd64 y q h cf b ty o sc s
  | .aSt8 y h cf b ty o sc => Sys2Proof.Machine.execASt8 y h cf b ty o sc s
  | .aSt16 y h cf b ty o sc => Sys2Proof.Machine.execASt16 y h cf b ty o sc s
  | .aSt32 y h cf b ty o sc => Sys2Proof.Machine.execASt32 y h cf b ty o sc s
  | .aSt64 y h cf b ty o sc => Sys2Proof.Machine.execASt64 y h cf b ty o sc s
  | .aLdt y q h cf => Sys2Proof.Machine.execALdt y q h cf s
  | .aStt y h cf => Sys2Proof.Machine.execAStt y h cf s
  | .aLdi y q a => Sys2Proof.Machine.execALdi y q a s
  | .aLdv y q d h cf b o sc => Sys2Proof.Machine.execALdv y q d h cf b o sc s
  | .aLdvBqa y q d h cf b o sc => Sys2Proof.Machine.execALdvBqa y q d h cf b o sc s
  | .aLda8 y d h cf ty o sc => Sys2Proof.Machine.execALda8 y d h cf ty o sc s
  | .aLda16 y d h cf ty o sc => Sys2Proof.Machine.execALda16 y d h cf ty o sc s
  | .aLda32 y d h cf ty o sc => Sys2Proof.Machine.execALda32 y d h cf ty o sc s
  | .aLda64 y d h cf ty o sc => Sys2Proof.Machine.execALda64 y d h cf ty o sc s
  | .aSta8 y h cf b ty o sc => Sys2Proof.Machine.execASta8 y h cf b ty o sc s
  | .aSta16 y h cf b ty o sc => Sys2Proof.Machine.execASta16 y h cf b ty o sc s
  | .aSta32 y h cf b ty o sc => Sys2Proof.Machine.execASta32 y h cf b ty o sc s
  | .aSta64 y h cf b ty o sc => Sys2Proof.Machine.execASta64 y h cf b ty o sc s
  | .aCpy y tok hd dcf hs scf len wd => Sys2Proof.Machine.execACpy y tok hd dcf hs scf len wd s
  | .aCpy2d y tok hd dcf hs scf len wd => Sys2Proof.Machine.execACpy2d y tok hd dcf hs scf len wd s
  | .aCpyx y tok hd dcf hs scf len wd => Sys2Proof.Machine.execACpyx y tok hd dcf hs scf len wd s
  | .aDqry y qual d h cf => Sys2Proof.Machine.execADqry y qual d h cf s
  | .aDqryv y qual q h cf b => Sys2Proof.Machine.execADqryv y qual q h cf b s
  | .aDqpf y h cf b => Sys2Proof.Machine.execADqpf y h cf b s
  | .aDscan y h cf b => Sys2Proof.Machine.execADscan y h cf b s
  | .aFence y o sc => Sys2Proof.Machine.execAFence y o sc s
  | .aWaita y h cf => Sys2Proof.Machine.execAWaita y h cf s
  | .aAaddI32 y h cf b o sc => Sys2Proof.Machine.execAAaddI32 y h cf b o sc s
  | .aAaddI64 y h cf b o sc => Sys2Proof.Machine.execAAaddI64 y h cf b o sc s
  | .aAaddF32 y h cf b o sc => Sys2Proof.Machine.execAAaddF32 y h cf b o sc s
  | .aAmin y h cf b ty o sc => Sys2Proof.Machine.execAAmin y h cf b ty o sc s
  | .aAmax y h cf b ty o sc => Sys2Proof.Machine.execAAmax y h cf b ty o sc s
  | .aAand y h cf b ty o sc => Sys2Proof.Machine.execAAand y h cf b ty o sc s
  | .aAor y h cf b ty o sc => Sys2Proof.Machine.execAAor y h cf b ty o sc s
  | .aAxor y h cf b ty o sc => Sys2Proof.Machine.execAAxor y h cf b ty o sc s
  | .aAfaddI32 y d h cf b o sc => Sys2Proof.Machine.execAAfaddI32 y d h cf b o sc s
  | .aAfaddI64 y d h cf b o sc => Sys2Proof.Machine.execAAfaddI64 y d h cf b o sc s
  | .aAfaddF32 y d h cf b o sc => Sys2Proof.Machine.execAAfaddF32 y d h cf b o sc s
  | .aAxchg y d h cf b ty o sc => Sys2Proof.Machine.execAAxchg y d h cf b ty o sc s
  | .aAcas y d h cf b x ty o sc => Sys2Proof.Machine.execAAcas y d h cf b x ty o sc s
  | .aAscat y h cf b ty => Sys2Proof.Machine.execAAscat y h cf b ty s
  | .aNmaddI32 y h cf b => Sys2Proof.Machine.execANmaddI32 y h cf b s
  | .aNmaddF32 y h cf b => Sys2Proof.Machine.execANmaddF32 y h cf b s
  | .aNmmin y h cf b ty => Sys2Proof.Machine.execANmmin y h cf b ty s
  | .aNmmax y h cf b ty => Sys2Proof.Machine.execANmmax y h cf b ty s
  | .aNmfence y => Sys2Proof.Machine.execANmfence y s
  | .aEmbag y q ha acf hb bcf n => Sys2Proof.Machine.execAEmbag y q ha acf hb bcf n s
  | .aKvatt y q ha acf hb bcf n => Sys2Proof.Machine.execAKvatt y q ha acf hb bcf n s
  | .aPut y tok hd dcf hs scf len wd => Sys2Proof.Machine.execAPut y tok hd dcf hs scf len wd s
  | .aPut2d y tok hd dcf hs scf len wd => Sys2Proof.Machine.execAPut2d y tok hd dcf hs scf len wd s
  | .aGet y tok hd dcf hs scf len wd => Sys2Proof.Machine.execAGet y tok hd dcf hs scf len wd s
  | .aGet2d y tok hd dcf hs scf len wd => Sys2Proof.Machine.execAGet2d y tok hd dcf hs scf len wd s
  | .aRadd y h cf b ty => Sys2Proof.Machine.execARadd y h cf b ty s
  | .aRfadd y d h cf b ty => Sys2Proof.Machine.execARfadd y d h cf b ty s
  | .aRcas y d h cf b x ty o sc => Sys2Proof.Machine.execARcas y d h cf b x ty o sc s
  | .aFfence y => Sys2Proof.Machine.execAFfence y s
  | .aAllred y qual d h cf b x ty => Sys2Proof.Machine.execAAllred y qual d h cf b x ty s
  | .aRedscat y qual d h cf b x ty => Sys2Proof.Machine.execARedscat y qual d h cf b x ty s
  | .aAllgath y qual d h cf b x ty => Sys2Proof.Machine.execAAllgath y qual d h cf b x ty s
  | .aBcast y qual d h cf b x ty => Sys2Proof.Machine.execABcast y qual d h cf b x ty s
  | .xAdd y d a b => Sys2Proof.Machine.execXAdd y d a b s
  | .xSub y d a b => Sys2Proof.Machine.execXSub y d a b s
  | .xAnd y d a b => Sys2Proof.Machine.execXAnd y d a b s
  | .xOr y d a b => Sys2Proof.Machine.execXOr y d a b s
  | .xXor y d a b => Sys2Proof.Machine.execXXor y d a b s
  | .xShl y d a b => Sys2Proof.Machine.execXShl y d a b s
  | .xShr y d a b => Sys2Proof.Machine.execXShr y d a b s
  | .xSra y d a b => Sys2Proof.Machine.execXSra y d a b s
  | .xMul y d a b => Sys2Proof.Machine.execXMul y d a b s
  | .xMin y d a b => Sys2Proof.Machine.execXMin y d a b s
  | .xMax y d a b => Sys2Proof.Machine.execXMax y d a b s
  | .xAddi y d a imm => Sys2Proof.Machine.execXAddi y d a imm s
  | .xLi y d imm => Sys2Proof.Machine.execXLi y d imm s
  | .xLui y d imm => Sys2Proof.Machine.execXLui y d imm s
  | .xCmpeq y d a b => Sys2Proof.Machine.execXCmpeq y d a b s
  | .xCmplt y d a b => Sys2Proof.Machine.execXCmplt y d a b s
  | .xCmple y d a b => Sys2Proof.Machine.execXCmple y d a b s
  | .xBtgt y d o => Sys2Proof.Machine.execXBtgt y d o s
  | .xBtgtReg y d a => Sys2Proof.Machine.execXBtgtReg y d a s
  | .xBx y qual ca tb => Sys2Proof.Machine.execXBx y qual ca tb s
  | .xLoop y a e => Sys2Proof.Machine.execXLoop y a e s
  | .xVany y qual d a => Sys2Proof.Machine.execXVany y qual d a s
  | .xVall y qual d a => Sys2Proof.Machine.execXVall y qual d a s
  | .xPcnt y d a => Sys2Proof.Machine.execXPcnt y d a s
  | .xNop y => Sys2Proof.Machine.execXNop y s
  | .xBound y a => Sys2Proof.Machine.execXBound y a s
  | .xEnd y => Sys2Proof.Machine.execXEnd y s
  | .xCsrr y d csr => Sys2Proof.Machine.execXCsrr y d csr s
  | .xCsrw y a csr => Sys2Proof.Machine.execXCsrw y a csr s
  | .xVpop y d q => Sys2Proof.Machine.execXVpop y d q s
  | .xVpops y d q => Sys2Proof.Machine.execXVpops y d q s
  | .xVpush y a => Sys2Proof.Machine.execXVpush y a s
  | .xXpush y a => Sys2Proof.Machine.execXXpush y a s
  | .xOpop y d => Sys2Proof.Machine.execXOpop y d s
  | .xOpush y a => Sys2Proof.Machine.execXOpush y a s
  | .xVadd y d a b g ty => Sys2Proof.Machine.execXVadd y d a b g ty s
  | .xVsub y d a b g ty => Sys2Proof.Machine.execXVsub y d a b g ty s
  | .xVmul y d a b g ty => Sys2Proof.Machine.execXVmul y d a b g ty s
  | .xVmulh y d a b g ty => Sys2Proof.Machine.execXVmulh y d a b g ty s
  | .xVand y d a b g ty => Sys2Proof.Machine.execXVand y d a b g ty s
  | .xVor y d a b g ty => Sys2Proof.Machine.execXVor y d a b g ty s
  | .xVxor y d a b g ty => Sys2Proof.Machine.execXVxor y d a b g ty s
  | .xVshl y d a b g ty => Sys2Proof.Machine.execXVshl y d a b g ty s
  | .xVshr y d a b g ty => Sys2Proof.Machine.execXVshr y d a b g ty s
  | .xVsra y d a b g ty => Sys2Proof.Machine.execXVsra y d a b g ty s
  | .xVmin y d a b g ty => Sys2Proof.Machine.execXVmin y d a b g ty s
  | .xVmax y d a b g ty => Sys2Proof.Machine.execXVmax y d a b g ty s
  | .xVabs y d a g ty => Sys2Proof.Machine.execXVabs y d a g ty s
  | .xVfadd y d a b g ty rnd => Sys2Proof.Machine.execXVfadd y d a b g ty rnd s
  | .xVfsub y d a b g ty rnd => Sys2Proof.Machine.execXVfsub y d a b g ty rnd s
  | .xVfmul y d a b g ty rnd => Sys2Proof.Machine.execXVfmul y d a b g ty rnd s
  | .xVfma y d a b vc g ty rnd => Sys2Proof.Machine.execXVfma y d a b vc g ty rnd s
  | .xVfms y d a b vc g ty rnd => Sys2Proof.Machine.execXVfms y d a b vc g ty rnd s
  | .xVfnma y d a b vc g ty rnd => Sys2Proof.Machine.execXVfnma y d a b vc g ty rnd s
  | .xVfnms y d a b vc g ty rnd => Sys2Proof.Machine.execXVfnms y d a b vc g ty rnd s
  | .xVfmin y d a b g ty rnd => Sys2Proof.Machine.execXVfmin y d a b g ty rnd s
  | .xVfmax y d a b g ty rnd => Sys2Proof.Machine.execXVfmax y d a b g ty rnd s
  | .xVfabs y d a g ty rnd => Sys2Proof.Machine.execXVfabs y d a g ty rnd s
  | .xVfneg y d a g ty rnd => Sys2Proof.Machine.execXVfneg y d a g ty rnd s
  | .xVfdiv y d a b g ty rnd => Sys2Proof.Machine.execXVfdiv y d a b g ty rnd s
  | .xVfsqrt y d a g ty rnd => Sys2Proof.Machine.execXVfsqrt y d a g ty rnd s
  | .xVfrcp y d a g ty rnd => Sys2Proof.Machine.execXVfrcp y d a g ty rnd s
  | .xVfexp2 y d a g ty rnd => Sys2Proof.Machine.execXVfexp2 y d a g ty rnd s
  | .xVflog2 y d a g ty rnd => Sys2Proof.Machine.execXVflog2 y d a g ty rnd s
  | .xVftanh y d a g ty rnd => Sys2Proof.Machine.execXVftanh y d a g ty rnd s
  | .xVfsigm y d a g ty rnd => Sys2Proof.Machine.execXVfsigm y d a g ty rnd s
  | .xVcmp y qual d a b g ty => Sys2Proof.Machine.execXVcmp y qual d a b g ty s
  | .xVfcmp y qual d a b g ty => Sys2Proof.Machine.execXVfcmp y qual d a b g ty s
  | .xPand y d a b => Sys2Proof.Machine.execXPand y d a b s
  | .xPor y d a b => Sys2Proof.Machine.execXPor y d a b s
  | .xPxor y d a b => Sys2Proof.Machine.execXPxor y d a b s
  | .xPnot y d a => Sys2Proof.Machine.execXPnot y d a s
  | .xVsel y d a b g => Sys2Proof.Machine.execXVsel y d a b g s
  | .xVcvtf y d a src g ty pol rnd => Sys2Proof.Machine.execXVcvtf y d a src g ty pol rnd s
  | .xVcvti y d a src g ty pol rnd => Sys2Proof.Machine.execXVcvti y d a src g ty pol rnd s
  | .xVqnt y d a b g ty pol rnd => Sys2Proof.Machine.execXVqnt y d a b g ty pol rnd s
  | .xVdqnt y d a b g ty => Sys2Proof.Machine.execXVdqnt y d a b g ty s
  | .xVbcast y d a g ty => Sys2Proof.Machine.execXVbcast y d a g ty s
  | .xVshuf y d a b g => Sys2Proof.Machine.execXVshuf y d a b g s
  | .xVrot y d a g n => Sys2Proof.Machine.execXVrot y d a g n s
  | .xVextr y d a ty n => Sys2Proof.Machine.execXVextr y d a ty n s
  | .xVins y d a ty n => Sys2Proof.Machine.execXVins y d a ty n s
  | .xVcomp y d a g => Sys2Proof.Machine.execXVcomp y d a g s
  | .xVexp y d a g => Sys2Proof.Machine.execXVexp y d a g s
  | .xVrsum y d a g ty => Sys2Proof.Machine.execXVrsum y d a g ty s
  | .xVrfsum y d a g ty rnd => Sys2Proof.Machine.execXVrfsum y d a g ty rnd s
  | .xVrmax y d a g ty => Sys2Proof.Machine.execXVrmax y d a g ty s
  | .xVrmin y d a g ty => Sys2Proof.Machine.execXVrmin y d a g ty s
  | .xVsortk y d a b g ty => Sys2Proof.Machine.execXVsortk y d a b g ty s
  | .xVsegsum y d a b g ty => Sys2Proof.Machine.execXVsegsum y d a b g ty s
  | .xVtopk y d a g ty k => Sys2Proof.Machine.execXVtopk y d a g ty k s
  | .xTapeon y => Sys2Proof.Machine.execXTapeon y s
  | .xTapeoff y => Sys2Proof.Machine.execXTapeoff y s
  | .xVtape y a g => Sys2Proof.Machine.execXVtape y a g s
  | .xXtape y a => Sys2Proof.Machine.execXXtape y a s
  | .xPtape y a => Sys2Proof.Machine.execXPtape y a s
  | .xVuntape y d => Sys2Proof.Machine.execXVuntape y d s
  | .xXuntape y d => Sys2Proof.Machine.execXXuntape y d s
  | .xPuntape y d => Sys2Proof.Machine.execXPuntape y d s
  | .xTrev y => Sys2Proof.Machine.execXTrev y s
  | .xTmark y a => Sys2Proof.Machine.execXTmark y a s
  | .xTld y d q a => Sys2Proof.Machine.execXTld y d q a s
  | .xTst y ta b => Sys2Proof.Machine.execXTst y ta b s
  | .xTzero y d => Sys2Proof.Machine.execXTzero y d s
  | .xTmovv y d ta b => Sys2Proof.Machine.execXTmovv y d ta b s
  | .xZld y d q a => Sys2Proof.Machine.execXZld y d q a s
  | .xZst y za b => Sys2Proof.Machine.execXZst y za b s
  | .xZzero y d => Sys2Proof.Machine.execXZzero y d s
  | .xZmovv y d za b => Sys2Proof.Machine.execXZmovv y d za b s
  | .xMma y d ta tb wd => Sys2Proof.Machine.execXMma y d ta tb wd s
  | .xMmai y d ta tb wd => Sys2Proof.Machine.execXMmai y d ta tb wd s
  | .xMmah y d ta tb wd => Sys2Proof.Machine.execXMmah y d ta tb wd s
  | .xMmab1 y d ta tb wd => Sys2Proof.Machine.execXMmab1 y d ta tb wd s
  | .xMmab2 y d ta tb vc wd => Sys2Proof.Machine.execXMmab2 y d ta tb vc wd s
  | .xMmas y d ta tb wd => Sys2Proof.Machine.execXMmas y d ta tb wd s
  | .xMmax y d ta tb wd => Sys2Proof.Machine.execXMmax y d ta tb wd s
  | .xMman y d ta tb wd => Sys2Proof.Machine.execXMman y d ta tb wd s
  | .xMmv y d ta b wd => Sys2Proof.Machine.execXMmv y d ta b wd s
  | .tokenWaitResume st => Sys2Proof.Machine.execTokenWaitResume st s
  | .queueWaitResume st => Sys2Proof.Machine.execQueueWaitResume st s
  | .slipStallResume => Sys2Proof.Machine.execSlipStallResume s
  | .scoreboardWaitResume st => Sys2Proof.Machine.execScoreboardWaitResume st s
  | .copySlotFree => Sys2Proof.Machine.execCopySlotFree s
  | .matrixAcceptResume => Sys2Proof.Machine.execMatrixAcceptResume s
  | .commitWaitResume st => Sys2Proof.Machine.execCommitWaitResume st s
  | .loadDataArrival op => Sys2Proof.Machine.execLoadDataArrival op s
  | .watchdogExpiry st => Sys2Proof.Machine.execWatchdogExpiry st s
  | .commandBoundExpiry op => Sys2Proof.Machine.execCommandBoundExpiry op s
  | .sectorCommit op => Sys2Proof.Machine.execSectorCommit op s
  | .writeTransactionCommit op => Sys2Proof.Machine.execWriteTransactionCommit op s
  | .copyCompletion op => Sys2Proof.Machine.execCopyCompletion op s
  | .atomicCommit op => Sys2Proof.Machine.execAtomicCommit op s
  | .nmUnitUpdate turn => Sys2Proof.Machine.execNmUnitUpdate turn s
  | .echoApply op => Sys2Proof.Machine.execEchoApply op s
  | .poolPartialReturn turn => Sys2Proof.Machine.execPoolPartialReturn turn s
  | .attentionPartialReturn turn => Sys2Proof.Machine.execAttentionPartialReturn turn s
  | .claimEnd claim => Sys2Proof.Machine.execClaimEnd claim s
  | .claimTimeout claim op => Sys2Proof.Machine.execClaimTimeout claim op s
  | .dscanBlockRebuild op => Sys2Proof.Machine.execDscanBlockRebuild op s
  | .digestFillComplete op => Sys2Proof.Machine.execDigestFillComplete op s
  | .digestWritebackEnd slot => Sys2Proof.Machine.execDigestWritebackEnd slot s
  | .waitaWake grove => Sys2Proof.Machine.execWaitaWake grove s
  | .barrierComplete level => Sys2Proof.Machine.execBarrierComplete level s
  | .matrixOpStart => Sys2Proof.Machine.execMatrixOpStart s
  | .matrixOpComplete => Sys2Proof.Machine.execMatrixOpComplete s
  | .drainLimit => Sys2Proof.Machine.execDrainLimit s
  | .trapDelivery => Sys2Proof.Machine.execTrapDelivery s
  | .doorbell mailbox => Sys2Proof.Machine.execDoorbell mailbox s
  | .millisecondTick => Sys2Proof.Machine.execMillisecondTick s
  | .softPreemptTimeout launch => Sys2Proof.Machine.execSoftPreemptTimeout launch s
  | .overlayLoad launch => Sys2Proof.Machine.execOverlayLoad launch s
  | .preemptSaveBegin launch => Sys2Proof.Machine.execPreemptSaveBegin launch s
  | .saveEnd launch => Sys2Proof.Machine.execSaveEnd launch s
  | .saveBroken launch => Sys2Proof.Machine.execSaveBroken launch s
  | .teamRestore launch => Sys2Proof.Machine.execTeamRestore launch s
  | .budgetExpiry launch => Sys2Proof.Machine.execBudgetExpiry launch s
  | .launchDone launch => Sys2Proof.Machine.execLaunchDone launch s
  | .migrationDrainEnd mig => Sys2Proof.Machine.execMigrationDrainEnd mig s
  | .migrationArrival mig => Sys2Proof.Machine.execMigrationArrival mig s
  | .rdupInvalidateAck op => Sys2Proof.Machine.execRdupInvalidateAck op s
  | .backInvalidateResponse op => Sys2Proof.Machine.execBackInvalidateResponse op s
  | .remoteAccessArrival => Sys2Proof.Machine.execRemoteAccessArrival s
  | .fabricAck => Sys2Proof.Machine.execFabricAck s
  | .contributionPacket => Sys2Proof.Machine.execContributionPacket s
  | .collectiveComplete op => Sys2Proof.Machine.execCollectiveComplete op s
  | .collectiveDeadline op => Sys2Proof.Machine.execCollectiveDeadline op s
  | .groupOpen group => Sys2Proof.Machine.execGroupOpen group s
  | .groupClose group => Sys2Proof.Machine.execGroupClose group s
  | .groupOpenConfirmed group => Sys2Proof.Machine.execGroupOpenConfirmed group s
  | .groupOpenTimeout group => Sys2Proof.Machine.execGroupOpenTimeout group s
  | .groupCloseComplete group => Sys2Proof.Machine.execGroupCloseComplete group s
  | .sessionReopen group => Sys2Proof.Machine.execSessionReopen group s
  | .linkBringup link => Sys2Proof.Machine.execLinkBringup link s
  | .linkRekey link => Sys2Proof.Machine.execLinkRekey link s
  | .frameReceive link => Sys2Proof.Machine.execFrameReceive link s
  | .tunnelRetransmit link => Sys2Proof.Machine.execTunnelRetransmit link s
  | .flitCrcRetry link => Sys2Proof.Machine.execFlitCrcRetry link s
  | .hostMemoryRequest => Sys2Proof.Machine.execHostMemoryRequest s
  | .hostAtomicop => Sys2Proof.Machine.execHostAtomicop s
  | .hostRequestCompletion op => Sys2Proof.Machine.execHostRequestCompletion op s
  | .attestationRequest => Sys2Proof.Machine.execAttestationRequest s
  | .hwinRegisterWrite => Sys2Proof.Machine.execHwinRegisterWrite s
  | .deviceReset => Sys2Proof.Machine.execDeviceReset s
  | .bootStep ok => Sys2Proof.Machine.execBootStep ok s
  | .securityAlarm => Sys2Proof.Machine.execSecurityAlarm s
  | .alarmQuietTimeout => Sys2Proof.Machine.execAlarmQuietTimeout s
  | .junctionOvertemp => Sys2Proof.Machine.execJunctionOvertemp s
  | .controlParityError => Sys2Proof.Machine.execControlParityError s
  | .patrolScrub => Sys2Proof.Machine.execPatrolScrub s
  | .stampPatrolVisit granule => Sys2Proof.Machine.execStampPatrolVisit granule s
  | .channelFailure channel => Sys2Proof.Machine.execChannelFailure channel s
  | .channelRetirementEnd channel => Sys2Proof.Machine.execChannelRetirementEnd channel s
  | .stampCheckAnswer op => Sys2Proof.Machine.execStampCheckAnswer op s
  | .registerValueArrival op => Sys2Proof.Machine.execRegisterValueArrival op s
  | .saveImageTransferEnd => Sys2Proof.Machine.execSaveImageTransferEnd s

end Sys2Proof.Machine
end

