-- ==== Sys2Proof/Machine/Marks.lean ====
section
/-! DEFINITION. Uncorrectable units of registers, queues and instruction memories (R377, R381): which units each instruction reads and
which it writes whole. -/
namespace Sys2Proof.Machine

/-! ### What instructions read and write -/

/-- A register, an entry or a part of them that an instruction names. -/
inductive Ref where
  | scalar (st : StreamId) (r : Nat)
  /-- the coordinate registers of the operand of a handle, from the first (R75) -/
  | coords (h : Handle) (cf : Nat)
  | vec (r : VReg)
  /-- the lanes of a vector that a predicate selects -/
  | lanes (r : VReg) (g : PReg)
  /-- the lanes of a vector that the record which a VUNTAPE pops restores -/
  | restored (r : VReg)
  | pred (r : PReg)
  | target (r : BtReg)
  | flag (r : CFlag)
  /-- the bytes that its record covers of a half-row of a tile, which a register of X names; the half-row whole; the tile -/
  | half (t : TReg) (x : Reg)
  | wholeHalf (t : TReg) (x : Reg)
  | tile (t : TReg)
  /-- the elements that its record covers of a row of an accumulator, which a register of X names; the accumulator -/
  | row (z : ZReg) (x : Reg)
  | acc (z : ZReg)
  /-- the first entries of a queue: its code, how many -/
  | head (code n : Nat)
  /-- the query that a KVATT on this cache pops (R160) -/
  | query (h : Handle)
  /-- every register and queue entry, as a SAVEC copies them (R124) -/
  | everything
  deriving DecidableEq, Repr

/-- What an instruction reads, and what it writes: a unit of it that is covered whole reads correctly from then on (R381). -/
structure Uses where
  reads : List Ref := []
  writes : List Ref := []

/-- Scalar registers of a stream. -/
def regs (st : StreamId) (r w : List Reg) : Uses := ⟨r.map (fun x => .scalar st x.val), w.map (fun x => .scalar st x.val)⟩

/-- An instruction on an element of memory, with more registers, and the entries of sq that it pops. -/
def element (h : Handle) (cf : Reg) (r w : List Reg) (pops : Nat) : Uses :=
  ⟨.coords h cf.val :: .head 4 pops :: r.map (fun x => .scalar .A x.val), w.map (fun x => .scalar .A x.val)⟩

/-- A comparison of two scalar registers of X. -/
def comparing (d : CFlag) (a b : Reg) : Uses := ⟨[.scalar .X a.val, .scalar .X b.val], [.flag d]⟩

/-- A copy, PUT or GET, with its length registers. -/
def copying (tok : ShortReg) (hd : Handle) (dcf : ShortReg) (hs : Handle) (scf : ShortReg) (len : List Nat) : Uses :=
  ⟨.coords hd dcf.val :: .coords hs scf.val :: len.map (.scalar .A), [.scalar .A tok.val]⟩

/-- A merging vector instruction (R166). -/
def merging (d : VReg) (g : PReg) (r : List VReg) : Uses := ⟨.pred g :: r.map .vec, [.lanes d g]⟩

/-- A matrix instruction, which takes the format word at the head of fq, and its vectors. -/
def formatted (r : List VReg) : Uses := ⟨.head 8 1 :: r.map .vec, []⟩

/-- What each instruction reads and writes; an event reads and writes nothing here (DEDUCED, log 225). -/
def uses : Instr → Uses
  | .tokenWaitResume _ => {}
  | .queueWaitResume _ => {}
  | .scoreboardWaitResume _ => {}
  | .commitWaitResume _ => {}
  | .loadDataArrival _ => {}
  | .watchdogExpiry _ => {}
  | .commandBoundExpiry _ => {}
  | .sectorCommit _ => {}
  | .writeTransactionCommit _ => {}
  | .copyCompletion _ => {}
  | .atomicCommit _ => {}
  | .nmUnitUpdate _ => {}
  | .echoApply _ => {}
  | .poolPartialReturn _ => {}
  | .attentionPartialReturn _ => {}
  | .claimEnd _ => {}
  | .claimTimeout _ _ => {}
  | .dscanBlockRebuild _ => {}
  | .digestFillComplete _ => {}
  | .digestWritebackEnd _ => {}
  | .waitaWake _ => {}
  | .barrierComplete _ => {}
  | .doorbell _ => {}
  | .softPreemptTimeout _ => {}
  | .overlayLoad _ => {}
  | .preemptSaveBegin _ => {}
  | .saveEnd _ => {}
  | .saveBroken _ => {}
  | .teamRestore _ => {}
  | .budgetExpiry _ => {}
  | .launchDone _ => {}
  | .migrationDrainEnd _ => {}
  | .migrationArrival _ => {}
  | .rdupInvalidateAck _ => {}
  | .backInvalidateResponse _ => {}
  | .collectiveComplete _ => {}
  | .collectiveDeadline _ => {}
  | .groupOpen _ => {}
  | .groupClose _ => {}
  | .groupOpenConfirmed _ => {}
  | .groupOpenTimeout _ => {}
  | .groupCloseComplete _ => {}
  | .sessionReopen _ => {}
  | .linkBringup _ => {}
  | .linkRekey _ => {}
  | .frameReceive _ => {}
  | .tunnelRetransmit _ => {}
  | .flitCrcRetry _ => {}
  | .hostRequestCompletion _ => {}
  | .bootStep _ => {}
  | .stampPatrolVisit _ => {}
  | .channelFailure _ => {}
  | .channelRetirementEnd _ => {}
  | .stampCheckAnswer _ => {}
  | .registerValueArrival _ => {}
  | .cAdd _ d a b => regs .C [a, b] [d]
  | .cSub _ d a b => regs .C [a, b] [d]
  | .cAnd _ d a b => regs .C [a, b] [d]
  | .cOr _ d a b => regs .C [a, b] [d]
  | .cXor _ d a b => regs .C [a, b] [d]
  | .cShl _ d a b => regs .C [a, b] [d]
  | .cShr _ d a b => regs .C [a, b] [d]
  | .cSra _ d a b => regs .C [a, b] [d]
  | .cMul _ d a b => regs .C [a, b] [d]
  | .cMulh _ d a b => regs .C [a, b] [d]
  | .cMulhu _ d a b => regs .C [a, b] [d]
  | .cDiv _ d a b => regs .C [a, b] [d]
  | .cRem _ d a b => regs .C [a, b] [d]
  | .cMin _ d a b => regs .C [a, b] [d]
  | .cMax _ d a b => regs .C [a, b] [d]
  | .cAddi _ d a _ => regs .C [a] [d]
  | .cAndi _ d a _ => regs .C [a] [d]
  | .cOri _ d a _ => regs .C [a] [d]
  | .cXori _ d a _ => regs .C [a] [d]
  | .cShli _ d a _ => regs .C [a] [d]
  | .cShri _ d a _ => regs .C [a] [d]
  | .cSrai _ d a _ => regs .C [a] [d]
  | .cLi _ d _ => regs .C [] [d]
  | .cLui _ d _ => regs .C [d] [d]
  | .cSeq _ d a b => regs .C [a, b] [d]
  | .cSne _ d a b => regs .C [a, b] [d]
  | .cSlt _ d a b => regs .C [a, b] [d]
  | .cSltu _ d a b => regs .C [a, b] [d]
  | .cSle _ d a b => regs .C [a, b] [d]
  | .cSleu _ d a b => regs .C [a, b] [d]
  | .cClz _ d a => regs .C [a] [d]
  | .cPopc _ d a => regs .C [a] [d]
  | .cB _ _ => regs .C [] []
  | .cBeq _ a b _ => regs .C [a, b] []
  | .cBne _ a b _ => regs .C [a, b] []
  | .cBlt _ a b _ => regs .C [a, b] []
  | .cBge _ a b _ => regs .C [a, b] []
  | .cBltu _ a b _ => regs .C [a, b] []
  | .cBgeu _ a b _ => regs .C [a, b] []
  | .cCall _ d _ => regs .C [] [d]
  | .cRet _ a => regs .C [a] []
  | .cLoop _ a _ => regs .C [a] []
  | .cCsrr _ d _ => regs .C [] [d]
  | .cCsrw _ a _ => regs .C [a] []
  | .cCsrs _ a _ => regs .C [a] []
  | .cCsrc _ a _ => regs .C [a] []
  | .cLdw _ d a _ => regs .C [a] [d]
  | .cStw _ d a _ => regs .C [a, d] []
  | .cFpush _ a => regs .C [a] []
  | .cFpushi _ _ => regs .C [] []
  | .cTshape _ _ a => regs .C [a] []
  | .cSeal _ _ a => regs .C [a] []
  | .cUnseal _ _ => regs .C [] []
  | .cDbar _ _ => regs .C [] []
  | .cGenf _ => regs .C [] []
  | .cBound _ a => regs .C [a] []
  | .cMigrate _ _ a b _ => regs .C [a, b] []
  | .cFence _ _ _ => regs .C [] []
  | .cFlush _ _ a b => regs .C [a, b] []
  | .cTsig _ _ _ => regs .C [] []
  | .cTwait _ _ _ => regs .C [] []
  | .cTapec _ _ a => regs .C [a] []
  | .cTrap _ _ => regs .C [] []
  | .cRtt _ => regs .C [] []
  | .cHalt _ => regs .C [] []
  | .cWfe _ => regs .C [] []
  | .cLttw _ a b => regs .C [a, b] []
  | .cLttinv _ a => regs .C [a] []
  | .cDreg _ a b => regs .C [a, b] []
  | .cDfree _ a => regs .C [a] []
  | .cSavec _ _ _ => ⟨[.everything], []⟩
  | .cRestc _ a b => regs .C [a, b] []
  | .aAdd _ d a b => regs .A [a, b] [d]
  | .aSub _ d a b => regs .A [a, b] [d]
  | .aAnd _ d a b => regs .A [a, b] [d]
  | .aOr _ d a b => regs .A [a, b] [d]
  | .aXor _ d a b => regs .A [a, b] [d]
  | .aShl _ d a b => regs .A [a, b] [d]
  | .aShr _ d a b => regs .A [a, b] [d]
  | .aSra _ d a b => regs .A [a, b] [d]
  | .aMul _ d a b => regs .A [a, b] [d]
  | .aMin _ d a b => regs .A [a, b] [d]
  | .aMax _ d a b => regs .A [a, b] [d]
  | .aSeq _ d a b => regs .A [a, b] [d]
  | .aSne _ d a b => regs .A [a, b] [d]
  | .aSlt _ d a b => regs .A [a, b] [d]
  | .aSltu _ d a b => regs .A [a, b] [d]
  | .aAddi _ d a _ => regs .A [a] [d]
  | .aAndi _ d a _ => regs .A [a] [d]
  | .aShli _ d a _ => regs .A [a] [d]
  | .aShri _ d a _ => regs .A [a] [d]
  | .aLi _ d _ => regs .A [] [d]
  | .aLui _ d _ => regs .A [d] [d]
  | .aB _ _ => regs .A [] []
  | .aBeq _ a b _ => regs .A [a, b] []
  | .aBne _ a b _ => regs .A [a, b] []
  | .aBlt _ a b _ => regs .A [a, b] []
  | .aBge _ a b _ => regs .A [a, b] []
  | .aBltu _ a b _ => regs .A [a, b] []
  | .aBgeu _ a b _ => regs .A [a, b] []
  | .aLoop _ a _ => regs .A [a] []
  | .aBrq _ _ _ => regs .A [] []
  | .aOpush _ a => regs .A [a] []
  | .aVqpop _ d => ⟨[.head 5 1], [.scalar .A d.val]⟩
  | .aBound _ a => regs .A [a] []
  | .aEnd _ => regs .A [] []
  | .aNop _ => regs .A [] []
  | .aLd8 _ _ h cf b _ _ _ => element h cf [b] [] 0
  | .aLd16 _ _ h cf b _ _ _ => element h cf [b] [] 0
  | .aLd32 _ _ h cf b _ _ _ => element h cf [b] [] 0
  | .aLd64 _ _ h cf b _ _ _ => element h cf [b] [] 0
  | .aSt8 _ h cf b _ _ _ => element h cf [b] [] 1
  | .aSt16 _ h cf b _ _ _ => element h cf [b] [] 1
  | .aSt32 _ h cf b _ _ _ => element h cf [b] [] 1
  | .aSt64 _ h cf b _ _ _ => element h cf [b] [] 1
  | .aLdt _ _ h cf => element h cf [] [] 0
  | .aStt _ h cf => element h cf [] [] 1
  | .aLdi _ _ a => regs .A [a] []
  | .aLdv _ _ d h cf b _ _ => element h cf [b] [d] 0
  | .aLdvBqa _ _ d h cf b _ _ => element h cf [b] [d] 0
  | .aLda8 _ d h cf _ _ _ => element h cf [] [d] 0
  | .aLda16 _ d h cf _ _ _ => element h cf [] [d] 0
  | .aLda32 _ d h cf _ _ _ => element h cf [] [d] 0
  | .aLda64 _ d h cf _ _ _ => element h cf [] [d] 0
  | .aSta8 _ h cf b _ _ _ => element h cf [b] [] 0
  | .aSta16 _ h cf b _ _ _ => element h cf [b] [] 0
  | .aSta32 _ h cf b _ _ _ => element h cf [b] [] 0
  | .aSta64 _ h cf b _ _ _ => element h cf [b] [] 0
  | .aCpy _ tok hd dcf hs scf len _ => copying tok hd dcf hs scf [len.val]
  | .aCpy2d _ tok hd dcf hs scf len _ => copying tok hd dcf hs scf [len.val, len.val + 1]
  | .aCpyx _ tok hd dcf hs scf len _ => copying tok hd dcf hs scf [len.val]
  | .aDqry _ _ d h cf => element h cf [] [d] 0
  | .aDqryv _ _ _ h cf b => element h cf [b] [] 0
  | .aDqpf _ h cf b => element h cf [b] [] 0
  | .aDscan _ h cf b => element h cf [b] [] 0
  | .aFence _ _ _ => regs .A [] []
  | .aWaita _ h cf => element h cf [] [] 0
  | .aAaddI32 _ h cf b _ _ => element h cf [b] [] 0
  | .aAaddI64 _ h cf b _ _ => element h cf [b] [] 0
  | .aAaddF32 _ h cf b _ _ => element h cf [b] [] 0
  | .aAmin _ h cf b _ _ _ => element h cf [b] [] 0
  | .aAmax _ h cf b _ _ _ => element h cf [b] [] 0
  | .aAand _ h cf b _ _ _ => element h cf [b] [] 0
  | .aAor _ h cf b _ _ _ => element h cf [b] [] 0
  | .aAxor _ h cf b _ _ _ => element h cf [b] [] 0
  | .aAfaddI32 _ d h cf b _ _ => element h cf [b] [d] 0
  | .aAfaddI64 _ d h cf b _ _ => element h cf [b] [d] 0
  | .aAfaddF32 _ d h cf b _ _ => element h cf [b] [d] 0
  | .aAxchg _ d h cf b _ _ _ => element h cf [b] [d] 0
  | .aAcas _ d h cf b x _ _ _ => element h cf [b, x] [d] 0
  | .aAscat _ h cf b _ => element h cf [b] [] 2
  | .aNmaddI32 _ h cf b => element h cf [b] [] 1
  | .aNmaddF32 _ h cf b => element h cf [b] [] 1
  | .aNmmin _ h cf b _ => element h cf [b] [] 1
  | .aNmmax _ h cf b _ => element h cf [b] [] 1
  | .aNmfence _ => regs .A [] []
  | .aEmbag _ _ ha acf hb bcf n => ⟨[.coords ha acf.val, .coords hb bcf.val, .scalar .A n.val], []⟩
  | .aKvatt _ _ ha acf hb bcf n => ⟨[.coords ha acf.val, .coords hb bcf.val, .scalar .A n.val, .scalar .A (n.val + 1), .query ha], []⟩
  | .aPut _ tok hd dcf hs scf len _ => copying tok hd dcf hs scf [len.val]
  | .aPut2d _ tok hd dcf hs scf len _ => copying tok hd dcf hs scf [len.val, len.val + 1]
  | .aGet _ tok hd dcf hs scf len _ => copying tok hd dcf hs scf [len.val]
  | .aGet2d _ tok hd dcf hs scf len _ => copying tok hd dcf hs scf [len.val, len.val + 1]
  | .aRadd _ h cf b _ => element h cf [b] [] 0
  | .aRfadd _ d h cf b _ => element h cf [b] [d] 0
  | .aRcas _ d h cf b x _ _ _ => element h cf [b, x] [d] 0
  | .aFfence _ => regs .A [] []
  | .aAllred _ _ d h cf b x _ => element h cf [b, x] [d] 0
  | .aRedscat _ _ d h cf b x _ => element h cf [b, x] [d] 0
  | .aAllgath _ _ d h cf b x _ => element h cf [b, x] [d] 0
  | .aBcast _ _ d h cf b x _ => element h cf [b, x] [d] 0
  | .xAdd _ d a b => regs .X [a, b] [d]
  | .xSub _ d a b => regs .X [a, b] [d]
  | .xAnd _ d a b => regs .X [a, b] [d]
  | .xOr _ d a b => regs .X [a, b] [d]
  | .xXor _ d a b => regs .X [a, b] [d]
  | .xShl _ d a b => regs .X [a, b] [d]
  | .xShr _ d a b => regs .X [a, b] [d]
  | .xSra _ d a b => regs .X [a, b] [d]
  | .xMul _ d a b => regs .X [a, b] [d]
  | .xMin _ d a b => regs .X [a, b] [d]
  | .xMax _ d a b => regs .X [a, b] [d]
  | .xAddi _ d a _ => regs .X [a] [d]
  | .xLi _ d _ => regs .X [] [d]
  | .xLui _ d _ => regs .X [d] [d]
  | .xCmpeq _ d a b => comparing d a b
  | .xCmplt _ d a b => comparing d a b
  | .xCmple _ d a b => comparing d a b
  | .xBtgt _ d _ => ⟨[], [.target d]⟩
  | .xBtgtReg _ d a => ⟨[.scalar .X a.val], [.target d]⟩
  | .xBx _ _ ca tb => ⟨[.flag ca, .target tb], []⟩
  | .xLoop _ a _ => regs .X [a] []
  | .xVany _ _ d a => ⟨[.pred a], [.flag d]⟩
  | .xVall _ _ d a => ⟨[.pred a], [.flag d]⟩
  | .xPcnt _ d a => ⟨[.pred a], [.scalar .X d.val]⟩
  | .xNop _ => regs .X [] []
  | .xBound _ a => regs .X [a] []
  | .xEnd _ => regs .X [] []
  | .xCsrr _ d _ => regs .X [] [d]
  | .xCsrw _ a _ => regs .X [a] []
  | .xVpop _ d _ => ⟨[], [.vec d]⟩
  | .xVpops _ d _ => ⟨[], [.vec d]⟩
  | .xVpush _ a => ⟨[.vec a], []⟩
  | .xXpush _ a => regs .X [a] []
  | .xOpop _ d => ⟨[], [.flag d]⟩
  | .xOpush _ a => ⟨[.flag a], []⟩
  | .xVadd _ d a b g _ => merging d g [a, b]
  | .xVsub _ d a b g _ => merging d g [a, b]
  | .xVmul _ d a b g _ => merging d g [a, b]
  | .xVmulh _ d a b g _ => merging d g [a, b]
  | .xVand _ d a b g _ => merging d g [a, b]
  | .xVor _ d a b g _ => merging d g [a, b]
  | .xVxor _ d a b g _ => merging d g [a, b]
  | .xVshl _ d a b g _ => merging d g [a, b]
  | .xVshr _ d a b g _ => merging d g [a, b]
  | .xVsra _ d a b g _ => merging d g [a, b]
  | .xVmin _ d a b g _ => merging d g [a, b]
  | .xVmax _ d a b g _ => merging d g [a, b]
  | .xVabs _ d a g _ => merging d g [a]
  | .xVfadd _ d a b g _ _ => merging d g [a, b]
  | .xVfsub _ d a b g _ _ => merging d g [a, b]
  | .xVfmul _ d a b g _ _ => merging d g [a, b]
  | .xVfma _ d a b vc g _ _ => merging d g [a, b, vc]
  | .xVfms _ d a b vc g _ _ => merging d g [a, b, vc]
  | .xVfnma _ d a b vc g _ _ => merging d g [a, b, vc]
  | .xVfnms _ d a b vc g _ _ => merging d g [a, b, vc]
  | .xVfmin _ d a b g _ _ => merging d g [a, b]
  | .xVfmax _ d a b g _ _ => merging d g [a, b]
  | .xVfabs _ d a g _ _ => merging d g [a]
  | .xVfneg _ d a g _ _ => merging d g [a]
  | .xVfdiv _ d a b g _ _ => merging d g [a, b]
  | .xVfsqrt _ d a g _ _ => merging d g [a]
  | .xVfrcp _ d a g _ _ => merging d g [a]
  | .xVfexp2 _ d a g _ _ => merging d g [a]
  | .xVflog2 _ d a g _ _ => merging d g [a]
  | .xVftanh _ d a g _ _ => merging d g [a]
  | .xVfsigm _ d a g _ _ => merging d g [a]
  | .xVcmp _ _ d a b g _ => ⟨[.vec a, .vec b, .pred g], [.pred d]⟩
  | .xVfcmp _ _ d a b g _ => ⟨[.vec a, .vec b, .pred g], [.pred d]⟩
  | .xPand _ d a b => ⟨[.pred a, .pred b], [.pred d]⟩
  | .xPor _ d a b => ⟨[.pred a, .pred b], [.pred d]⟩
  | .xPxor _ d a b => ⟨[.pred a, .pred b], [.pred d]⟩
  | .xPnot _ d a => ⟨[.pred a], [.pred d]⟩
  | .xVsel _ d a b g => ⟨[.vec a, .vec b, .pred g], [.vec d]⟩
  | .xVcvtf _ d a _ g _ _ _ => merging d g [a]
  | .xVcvti _ d a _ g _ _ _ => merging d g [a]
  | .xVqnt _ d a b g _ _ _ => merging d g [a, b]
  | .xVdqnt _ d a b g _ => merging d g [a, b]
  | .xVbcast _ d a g _ => ⟨[.scalar .X a.val, .pred g], [.lanes d g]⟩
  | .xVshuf _ d a b g => merging d g [a, b]
  | .xVrot _ d a g _ => merging d g [a]
  | .xVextr _ d a _ _ => ⟨[.vec a], [.scalar .X d.val]⟩
  | .xVins _ _ a _ _ => regs .X [a] []
  | .xVcomp _ d a g => ⟨[.vec a, .pred g], [.vec d]⟩
  | .xVexp _ d a g => ⟨[.vec a, .pred g], [.vec d]⟩
  | .xVrsum _ d a g _ => ⟨[.vec a, .pred g], [.scalar .X d.val]⟩
  | .xVrfsum _ d a g _ _ => ⟨[.vec a, .pred g], [.scalar .X d.val]⟩
  | .xVrmax _ d a g _ => ⟨[.vec a, .pred g], [.scalar .X d.val]⟩
  | .xVrmin _ d a g _ => ⟨[.vec a, .pred g], [.scalar .X d.val]⟩
  | .xVsortk _ d a b g _ => ⟨[.vec a, .vec b, .pred g], [.vec d, .vec (d + 1)]⟩
  | .xVsegsum _ d a b g _ => merging d g [a, b]
  | .xVtopk _ d a g _ _ => ⟨[.vec a, .pred g], [.vec d, .vec (d + 1)]⟩
  | .xTapeon _ => regs .X [] []
  | .xTapeoff _ => regs .X [] []
  | .xVtape _ a g => ⟨[.vec a, .pred g], []⟩
  | .xXtape _ a => regs .X [a] []
  | .xPtape _ a => ⟨[.pred a], []⟩
  | .xVuntape _ d => ⟨[], [.restored d]⟩
  | .xXuntape _ d => regs .X [] [d]
  | .xPuntape _ d => ⟨[], [.pred d]⟩
  | .xTrev _ => regs .X [] []
  | .xTmark _ a => regs .X [a] []
  | .xTld _ d _ a => ⟨[.scalar .X a.val], [.half d a]⟩
  | .xTst _ ta b => ⟨[.scalar .X b.val, .half ta b], []⟩
  | .xTzero _ d => ⟨[], [.tile d]⟩
  | .xTmovv _ d ta b => ⟨[.scalar .X b.val, .wholeHalf ta b], [.vec d]⟩
  | .xZld _ d _ a => ⟨[.scalar .X a.val], [.row d a]⟩
  | .xZst _ za b => ⟨[.scalar .X b.val, .row za b], []⟩
  | .xZzero _ d => ⟨[], [.acc d]⟩
  | .xZmovv _ d za b => ⟨[.scalar .X b.val, .row za b], [.vec d]⟩
  | .xMma _ _ _ _ _ => formatted []
  | .xMmai _ _ _ _ _ => formatted []
  | .xMmah _ _ _ _ _ => formatted []
  | .xMmab1 _ _ _ _ _ => formatted []
  | .xMmab2 _ _ _ _ vc _ => formatted [vc, vc + 1]
  | .xMmas _ _ _ _ _ => formatted []
  | .xMmax _ _ _ _ _ => formatted []
  | .xMman _ _ _ _ _ => formatted []
  | .xMmv _ _ _ b _ => formatted [b]
  | .slipStallResume => {}
  | .copySlotFree => {}
  | .matrixAcceptResume => {}
  | .matrixOpStart => {}
  | .matrixOpComplete => {}
  | .drainLimit => {}
  | .trapDelivery => {}
  | .millisecondTick => {}
  | .remoteAccessArrival => {}
  | .fabricAck => {}
  | .contributionPacket => {}
  | .hostMemoryRequest => {}
  | .hostAtomicop => {}
  | .attestationRequest => {}
  | .hwinRegisterWrite => {}
  | .deviceReset => {}
  | .securityAlarm => {}
  | .alarmQuietTimeout => {}
  | .junctionOvertemp => {}
  | .controlParityError => {}
  | .patrolScrub => {}
  | .saveImageTransferEnd => {}

/-! ### Units -/

/-- The object of a handle, with nothing checked. -/
def Core.rankOf (k : Core) (h : Handle) : Nat := ((k.handle h.val).map (·.rank)).getD 0

/-- Both lanes of a pair are set in a mask. -/
def pairIn (m : Word) (p : Nat) : Bool := m.getLsbD (2 * p) && m.getLsbD (2 * p + 1)

/-- The lanes that the record before the tape position restores. -/
def restoredMask (s : State) : Word :=
  match lastRecord s 1 with
  | .ok r => r.1.mask
  | .error _ => 0

/-- The entry of a queue with this sequence number is among its first `n`. -/
def among {α : Type} (q : Queue α) (seq : BitVec 32) (n : Nat) : Bool := decide ((seq - q.head).toNat < min n q.items.length)

/-- As `among`, for a queue of a core by its code. -/
def Core.amongFirst (k : Core) (code : Nat) (seq : BitVec 32) (n : Nat) : Bool :=
  match code with
  | 4 => among k.sq seq n
  | 5 => among k.vq seq n
  | 8 => among k.fq seq n
  | _ => false

/-- The whole of this unit belongs to what a reference of the core in focus names. -/
def Ref.covers (s : State) : Ref → RegUnit → Bool
  | .scalar st r, .scalar st' r' => r != 0 && st == st' && r == r'
  | .coords h cf, .scalar .A r => r != 0 && decide (cf ≤ r) && decide (r < cf + s.core.rankOf h)
  | .vec r, .vec r' _ => r.val == r'
  | .lanes r g, .vec r' p => r.val == r' && pairIn (s.rp g) p
  | .restored r, .vec r' p => r.val == r' && pairIn (restoredMask s) p
  | .pred r, .pred r' => r.val != 0 && r.val == r'
  | .target r, .target r' => r.val == r'
  | .flag r, .cflag r' => r.val == r'
  | .half t x, .tile t' h p =>
    t.val == t' && h == 2 * bits (s.rx x) 0 6 + bits (s.rx x) 6 1 && decide (8 * p + 8 ≤ halfBytes (s.core.tileRec t) (bits (s.rx x) 6 1))
  | .wholeHalf t x, .tile t' h _ => t.val == t' && h == 2 * bits (s.rx x) 0 6 + bits (s.rx x) 6 1
  | .tile t, .tile t' _ _ => t.val == t'
  | .row z x, .acc z' r p => z.val == z' && r == bits (s.rx x) 0 6 && decide (2 * p + 2 ≤ recCols (s.core.accRec z))
  | .acc z, .acc z' _ _ => z.val == z'
  | .head code n, .entry code' seq _ => code == code' && s.core.amongFirst code seq n
  | .query h, .entry 4 seq _ => s.core.amongFirst 4 seq ((((s.core.handle h.val).map (fun o => o.dims.getD 1 0 / 2)).getD 0 + 127) / 128)
  | .everything, .code _ _ => false
  | .everything, _ => !s.core.c.woken
  | _, _ => false

/-- Some byte of this unit belongs to what a reference names: a row or half-row may end within a unit. -/
def Ref.meets (s : State) : Ref → RegUnit → Bool
  | .half t x, .tile t' h p =>
    t.val == t' && h == 2 * bits (s.rx x) 0 6 + bits (s.rx x) 6 1 && decide (8 * p < halfBytes (s.core.tileRec t) (bits (s.rx x) 6 1))
  | .row z x, .acc z' r p => z.val == z' && r == bits (s.rx x) 0 6 && decide (2 * p < recCols (s.core.accRec z))
  | r, u => r.covers s u

/-- A register of A, or an accumulator, is still to be written: who reads it waits first (R129, R274). -/
def toBeWritten (s : State) : RegUnit → Bool
  | .scalar .A r => !(s.writers r).isEmpty
  | .acc z _ _ => !(s.core.accOps (Fin.ofNat 4 z)).isEmpty
  | _ => false

/-- The instruction reads a marked unit of the core in focus. -/
def readsMarked (s : State) (i : Instr) : Bool :=
  s.marks.any (fun m => m.core == s.core.num && !toBeWritten s m.unit && (uses i).reads.any (fun r => r.meets s m.unit))

/-- A word of the instruction at pc is marked. -/
def fetchMarked (st : StreamId) (s : State) : Bool :=
  let pc := (s.stream st).pc.toNat
  s.marks.any (fun m => m.core == s.core.num && (match m.unit with
    | .code st' w => st' == st && decide (pc / 8 ≤ w) && decide (w ≤ (pc + s.core.lengthAt st pc - 1) / 8)
    | _ => false))

/-- The unit exists in a core; of a queue, while its entry stands in it. -/
def RegUnit.inCore (k : Core) : RegUnit → Bool
  | .scalar _ r => decide (0 < r) && decide (r < 32)
  | .vec r p => decide (r < 64) && decide (p < 32)
  | .pred r => decide (0 < r) && decide (r < 16)
  | .target r => decide (r < 4)
  | .cflag r => decide (r < 8)
  | .tile t h p => decide (t < 8) && decide (h < 128) && decide (p < 32)
  | .acc z r p => decide (z < 4) && decide (r < 64) && decide (p < 32)
  | .entry q seq p => k.amongFirst q seq 64 && decide (p < (if q = 4 then 32 else 1))
  | .code st w => decide (8 * w < imemBytes st)

/-- Mark a unit of a core (R377, R381). -/
def strikeUnit (s : State) (n : Nat) (u : RegUnit) : State :=
  if s.cores.any (fun k => k.num == n && u.inCore k) && !s.marks.contains ⟨n, u⟩ then { s with marks := ⟨n, u⟩ :: s.marks } else s

/-! ### What a turn does to the marks -/

/-- The instruction at pc of a stream has taken effect: the stream goes on, owes only signals, or has ended. -/
def goesOn (v : StreamState) : Bool :=
  match v.status with
  | .running => !v.held
  | .waiting _ _ => v.psig != 0
  | .ended => true
  | _ => false

/-- A matrix operation reads this unit: the bytes that it reads of its tiles' rows (R267, R268) and its accumulator's elements, as its
shapes cover them (R272). -/
def MatOp.readsUnit (o : MatOp) : RegUnit → Bool
  | .tile t h p =>
    let of := fun (r : TReg) (rec : Word) => r.val == t && decide (h / 2 < recRows rec) &&
      (rowReads rec).any (fun q => decide (256 * (h % 2) + 8 * p < q.2) && decide (q.1 < 256 * (h % 2) + 8 * p + 8))
    of o.ta o.shapeA || (match o.tb with | some r => of r o.shapeB | none => false)
  | .acc z r p => o.z.val == z && decide (r < recRows o.shapeZ) && decide (2 * p < recCols o.shapeZ)
  | _ => false

/-- A started operation that reads a marked unit fails at its completion (R275). -/
def Core.strikeOps (k : Core) (marks : List RegMark) : Core :=
  { k with matrix := k.matrix.map (fun o =>
      if o.started.isSome && o.struck.isNone && marks.any (fun m => m.core == k.num && o.readsUnit m.unit) then { o with struck := some 4 } else o) }

/-- A matrix operation of core `a` that has completed in core `b`, with its effect, has written this unit whole (R275). -/
def wroteAcc (a b : Core) : RegUnit → Bool
  | .acc z r p => a.matrix.any (fun o => o.z.val == z && !b.matrix.contains o && o.struck.isNone &&
      b.latches[Fin.ofNat 4 z] == nextLatch a.latches[Fin.ofNat 4 z] 0 o.pc none && decide (r < recRows o.shapeZ) && decide (2 * p + 2 ≤ recCols o.shapeZ))
  | _ => false

/-- A mark of state `s` is gone in state `t`: the instruction `i` of the core in focus, if one ran, has written the unit whole; the
operation whose result the register holds has written it; its queue holds the entry no more; the engine has written it. -/
def unmarked (s t : State) (i : Option (StreamId × Instr)) (m : RegMark) : Bool :=
  (match i with
    | some (st, i) => m.core == s.core.num && goesOn (t.stream st) && !toBeWritten t m.unit && (uses i).writes.any (fun r => r.covers s m.unit)
    | none => false) ||
    (match m.unit with
      | .scalar .A r => s.flights.any (fun f => f.core == m.core && f.reg == some r && !(t.flights.any (fun g => g.id == f.id && g.reg == some r)))
      | .entry code seq _ => !(t.coreAt m.core).amongFirst code seq 64
      | u => wroteAcc (s.coreAt m.core) (t.coreAt m.core) u)

/-- The marks after a turn from state `s` to state `t`. -/
def settleMarks (s : State) (i : Option (StreamId × Instr)) (t : State) : State :=
  if t.marks.isEmpty then t
  else
    let marks := t.marks.filter (fun m => !unmarked s t i m)
    { t with marks := marks }.onCores (fun k => k.strikeOps marks)

end Sys2Proof.Machine
end

