-- ==== Sys2Proof/Machine/Schedule.lean ====
section
/-! DEFINITION. Whose turn it is: what may run, what arrives from outside, and the default schedule (DESIGN CHOICE, log 1, 7). -/
namespace Sys2Proof.Machine

/-! ### Fetching (R17) -/

/-- Whether the instruction at a stream's pc can be fetched (R17): inside the memory, and in user mode below 0xC000. -/
def fetchable (st : StreamId) (s : State) : Bool :=
  let pc := (s.stream st).pc.toNat
  decide (pc + wordSize st ≤ imemBytes st) &&
    (st != .C || s.core.sup || decide (pc < 0xC000)) &&
    (!extBit st (s.core.wordAt st pc) || decide (pc + 16 ≤ imemBytes st))

/-- What a fetch that R17 forbids raises: PRIV in the supervisor's area, else ILLEGAL. -/
def fetchTrap (st : StreamId) (s : State) : TrapInfo :=
  if (s.stream st).pc.toNat + wordSize st ≤ imemBytes st ∧ st = .C then privTrap st s else illegal st s

/-- A stream executes its next instruction: it runs, no stream of its core has executed one in this cycle (R50; DESIGN CHOICE, log 232),
and no drain limit has passed (R289). -/
def canRun (st : StreamId) (s : State) : Bool :=
  decide ((s.stream st).status = .running) && [s.core.c, s.core.a, s.core.x].all (fun v => decide (v.ready ≤ s.now)) &&
    (match s.core.pending with | none => true | some p => decide (s.now ≤ p.since + 4096))

/-- The stream of the core in focus executes an instruction: its next is for a later cycle (DESIGN CHOICE, log 232). -/
def State.takesTurn (s : State) (st : StreamId) : State := s.setStream st { s.stream st with ready := s.now + 1 }

/-- The constructors of Instr that are events of the opcode table: those that no word encodes. -/
def isEvent (i : Instr) : Bool := (operandsOf i).isNone

/-! ### Arrivals from outside -/

/-- An error that has struck an entry of a queue (R22, R377). -/
def struck : Deferred := { info := { cause := .eccUncorrectable, aux0 := 4 }, pc := 0 }

/-- Strike a bit of an outcome queue; one still reserved is yet to be written. -/
def Queue.strikeBit (v : Queue OutBit) (place : Nat) : Queue OutBit :=
  { v with items := v.items.modify place (fun e => if e.bit.isSome then { e with error := some (e.error.getD struck) } else e) }

/-- Strike the entry at a place of a load queue, or of bqa (6) or bqx (7); one still reserved is yet to be written (R22). -/
def strikeEntryOf (k : Core) (q place : Nat) : Core :=
  match q with
  | 6 => { k with bqa := k.bqa.strikeBit place }
  | 7 => { k with bqx := k.bqx.strikeBit place }
  | q =>
    let v := k.loadQueue (Fin.ofNat 4 q)
    k.setLoadQueue (Fin.ofNat 4 q) { v with items := v.items.modify place (fun e =>
      if e.data.isSome then { e with error := some (e.error.getD struck) } else e) }

/-- Strike the oldest started operation of a core's engine: its result becomes an error (R275). -/
def strikeEngine (k : Core) (residue : Bool) : Core :=
  { k with matrix := match k.matrix with
    | o :: r => if o.started.isSome then { o with struck := some (if residue then 5 else 4) } :: r else o :: r
    | [] => [] }

/-- Something reaches the device from outside. -/
def arrive (x : Input) (s : State) : State :=
  match x with
  | .host w a => { s with hostIn := s.hostIn ++ ((a.at? w).map splitHost).getD [] }
  | .hostStore addr data => commitBytes s (hostKey addr) data
  | .hostError op => { s with hostErrors := op :: s.hostErrors }
  | .frame f => (match s.link? f.link with
      | some l => if l.up then flitPasses (s.putLink { l with arrived := l.arrived ++ [f] }) l.port else s
      | none => s)
  | .flit n => flitPasses s n
  | .tableSteps n => if s.phase < 3 ∧ n ≤ 16 then { s with tableSteps := n } else s
  | .signatureFails g => signatureFails s g
  | .frameAck n seq => (match s.link? n with
      | some l => s.putLink { l with unacked := l.unacked.filter (fun u => u.1 != seq) }
      | none => s)
  | .strike k => { s with poison := if s.poison.contains (unitOf k) then s.poison else unitOf k :: s.poison }
  | .strikeEntry g b both =>
    let e := s.entry g b
    (match s.region? g with
      | some _ => s.putEntry g b { e with lost := if both then 2 else max 1 e.lost }
      | none => s)
  | .strikeUnit n u => strikeUnit s n u
  | .strikeQueue n q i => s.onCore n (fun k => strikeEntryOf k q i)
  | .strikeMatrix n residue => s.onCore n (fun k => strikeEngine k residue)
  | .parity n st entry =>
    let t := { s with parity := s.parity ++ [(n, st, s.now)] }
    (match entry with
      | none => t
      | some i => t.onCore n (fun k => { k with ltt := k.ltt.map (fun e => if e.1 = i then (i, { e.2 with broken := true }) else e) }))
  | .strikePartial op chip bag => strikePartial s op chip bag
  | .strikeHandle n h => s.onCore n (fun k => { k with handles := k.handles.map (fun e =>
      if e.1 = h then (h, { e.2 with sealchk := ~~~e.2.crc }) else e) })
  | .tamper => { s with tamperNext := true }

/-! ### What can no longer wait -/

/-- The event that ends a wait, once it can end. -/
def resumeEvent (st : StreamId) (w : Wait) : Option Instr :=
  match w with
  | .tokens _ _ => some (.tokenWaitResume st)
  | .room _ => some (.tokenWaitResume st)
  | .take _ _ => some (.tokenWaitResume st)
  | .wfe => some (.tokenWaitResume st)
  | .genf => some (.tokenWaitResume st)
  | .pop _ _ => some (.queueWaitResume st)
  | .push _ _ => some (.queueWaitResume st)
  | .entry _ => some (.queueWaitResume st)
  | .slip _ _ => some .slipStallResume
  | .scoreboard _ => some (.scoreboardWaitResume st)
  | .accumulator _ => some (.scoreboardWaitResume st)
  | .tileReaders _ => some (.scoreboardWaitResume st)
  | .commits _ _ => some (.commitWaitResume st)
  | .dbar _ _ => some (.commitWaitResume st)
  | .copySlot _ => some .copySlotFree
  | .matrixAccept _ => some .matrixAcceptResume
  | _ => none

/-- An event, if a condition holds. -/
def whenE (b : Bool) (i : Instr) : List Instr := if b then [i] else []

/-! The latest cycle of a turn that the rules do not bound is the model's choice (DESIGN CHOICE, log 232): streams advance (R48). -/

/-- Cycles within which a stream executes its next instruction, and those within which what a load has to read comes. -/
def streamCycles : Nat := 16
def loadCycles : Nat := 1024
/-- Cycles within which the transfer of a save image ends. -/
def transferCycles : Nat := 1048576

/-- The owning port's answer lets an access go on: it does not stay held back. -/
def answerMay (s : State) (op : Nat) : Bool :=
  match execStampCheckAnswer op s with
  | .next t => (match t.core.a.status with | .waiting (.stampCheck _) _ => false | _ => true)
  | _ => false

/-- The transfer of a save image of the core in focus may end. -/
def transferMay (s : State) : Bool :=
  s.transfers.any (fun t => t.core == s.core.num && !areaBroken s s.core t.area && (t.restore || areaQuiet s s.core t.area)) && quiet s s.core.num

/-- The event of a stream of the core in focus that the rules put before every other turn: the end of its wait, once what it
waits for has come, or its watchdog, once the wait has outlasted its bound (R36, R38, R48). -/
def dueWait (s : State) (st : StreamId) : List Instr :=
  match (s.stream st).status with
  | .waiting w t =>
    if waitOver s st w t then match w with
      | .waita _ _ => whenE (wakeMay s (groveOf s.core.num)) (.waitaWake (groveOf s.core.num))
      | w => (resumeEvent st w).toList
    else match w with
      | .stampCheck op => whenE (decide (t + loadCycles ≤ s.now) && answerMay s op) (.stampCheckAnswer op)
      | .saveTransfer => whenE (decide (t + transferCycles ≤ s.now) && transferMay s) .saveImageTransferEnd
      | _ => whenE (watchdogDue s st) (.watchdogExpiry st)
  | _ => []

/-- The engine of the core in focus starts an operation in this cycle (R283). -/
def engineStarts (s : State) : Bool := !s.core.engineHeld && !s.core.engineStopped && (startMatrix s.now s.core s.core.matrix).isSome

/-- The oldest operation of the core in focus completes in this cycle, within its bound (R39, R283). -/
def engineEnds (s : State) : Bool :=
  match s.core.matrix with
  | o :: _ => (match o.started with | some t => decide (t ≤ s.now) && o.inTime | none => false)
  | [] => false

/-- A barrier that the core in focus has arrived at completes. -/
def barrierEvents (s : State) : List Instr :=
  [0, 1].flatMap (fun l => whenE (s.arrivals.any (fun a => a.core == s.core.num && a.level == l) && barrierReady s s.core.num l) (.barrierComplete (BitVec.ofNat 2 l)))

/-- The drain of the core in focus has had its 4,096 cycles, and a stream still runs (R289). -/
def drainOver (s : State) : Bool :=
  match s.core.pending with
  | some p => decide (p.since + 4096 < s.now) && [s.core.c, s.core.a, s.core.x].any (fun v => v.status == .running)
  | none => false

/-- A parity error of the core in focus that struck at most in cycle `t` can be reported (R377). -/
def parityMay (s : State) (t : Nat) : Bool :=
  s.parity.any (fun p => parityReady s p && decide (p.2.2 ≤ t))

/-- The events of a core that can no longer wait: those of its streams, of its engine (R39, R283), of its barrier, of a parity error after
850 cycles (R377), of its drain and its trap (R289). -/
def dueInCore (s : State) : List Instr :=
  dueWait s .C ++ dueWait s .A ++ dueWait s .X ++ whenE (expiredMatrix s).isSome (.commandBoundExpiry 0) ++
    whenE (engineEnds s) .matrixOpComplete ++ whenE (engineStarts s) .matrixOpStart ++ barrierEvents s ++
    whenE (decide (850 ≤ s.now) && parityMay s (s.now - 850)) .controlParityError ++ whenE (drainOver s) .drainLimit ++
    whenE (deliverable s) .trapDelivery

/-- The streams of the core in focus that must execute their next instruction in this cycle (R48). -/
def dueStreams (s : State) : List Turn :=
  ([StreamId.C, .A, .X].filter (fun st => canRun st s && decide ((s.stream st).ready + streamCycles ≤ s.now))).map (.stream s.core.num)

/-- A core on which something may be due. -/
def Core.mayBeDue (k : Core) : Bool :=
  [k.c, k.a, k.x].any (fun v => match v.status with | .waiting _ _ => true | .running => true | _ => false) || !k.matrix.isEmpty || k.pending.isSome

/-- The deadline cycle of a collective that has not completed is past (R345). -/
def deadlinePassed (s : State) (f : Flight) : Bool :=
  match f.job with
  | .collective c => c.mask.isNone && (match c.deadline with | some t => decide (t < s.now) | none => false)
  | _ => false

/-- A collective has every contribution that it needs, and has not completed (R345). -/
def collectiveFull (f : Flight) : Bool :=
  match f.job with
  | .collective c => c.mask.isNone && c.needs.all c.accepted
  | _ => false

/-! ### What can happen to an operation in flight -/

/-- A commit in a block at this time has what it needs of the block's port: its least time, and its entry's slot or the start of its fill
(R218, R219). -/
def portMay (s : State) (f : Flight) (x : Option (Region × Nat)) : Bool := f.updateMay s.now x && !s.slotWaits x

/-- The sector or transaction that an operation may commit next. -/
def commitEvents (s : State) (f : Flight) : List Instr :=
  let p := nextPart s f.todo
  if !mayCommit s f || !partHere f p.2.1 || !portMay s f p.1 then []
  else if f.hostNext then [.hostRequestCompletion f.id]
  else if p.1.isSome then [.writeTransactionCommit f.id] else [.sectorCommit f.id]

/-- The units, or the port, at which an operation on elements may go on (R151, R320). -/
def elemEvents (s : State) (f : Flight) : List Instr :=
  f.job.elems.zipIdx.flatMap (fun e =>
    if spaceOfKey e.1.key = 3 then whenE (unitMay s ⟨chipOf e.1.key, .atomic, f.id⟩ && decide (pendingEchoes s (chipOf e.1.key) < 512)) (.nmUnitUpdate ⟨f.id, e.2⟩)
    else []) ++
    (match takeElem (fun e => spaceOfKey e.key != 3) f.job.elems with
      | none => []
      | some (e, _) => whenE (portMay s f (s.blockAt e.key)) (.atomicCommit f.id))

/-- The chips at which an operation of the units may go on; with none, its list is still to be read. -/
def chipEvents (s : State) (f : Flight) (kind : UnitKind) (left : Option (List Nat)) (i : UnitTurn → Instr) : List Instr :=
  match left with
  | none => whenE (!listWaits s f) (i ⟨f.id, 0⟩)
  | some l => l.flatMap (fun q => whenE (unitMay s ⟨q, kind, f.id⟩) (i ⟨f.id, q⟩))

/-- The event in which a load takes its next step, in the module's own memory. -/
def loadEvent (s : State) (f : Flight) : List Instr :=
  let may := mayPerform s f && decide (f.ready ≤ s.now) && !f.atHost
  match f.job with
  | .ld _ _ _ => whenE may (.loadDataArrival f.id)
  | .ldt _ _ => whenE may (.loadDataArrival f.id)
  | .ldv _ _ _ _ _ _ _ _ _ => whenE (may && queryGo s f) (.loadDataArrival f.id)
  | .lda _ => whenE may (.registerValueArrival f.id)
  | .dqry _ _ _ _ => whenE (may && queryGo s f) (.registerValueArrival f.id)
  | .dqryv _ _ _ _ _ _ => whenE (may && queryGo s f) (.loadDataArrival f.id)
  | _ => []

/-- What can happen to an operation in flight. -/
def flightEvents (s : State) (f : Flight) : List Instr :=
  let may := mayPerform s f && decide (f.ready ≤ s.now)
  whenE (match f.dups with | d :: _ => copyQuiet s d.1 d.2.1 d.2.2 | [] => false) (.rdupInvalidateAck f.id) ++ loadEvent s f ++
    (match f.job with
      | .ld _ _ _ => whenE (may && f.atHost) (.hostRequestCompletion f.id)
      | .ldt _ _ => whenE (may && f.atHost) (.hostRequestCompletion f.id)
      | .lda _ => whenE (may && f.atHost) (.hostRequestCompletion f.id)
      | .ldv _ _ _ _ _ _ _ _ _ => []
      | .dqry _ _ _ _ => []
      | .dqryv _ _ _ _ _ _ => []
      | .dscan g bs => whenE (may && portMay s f ((s.region? g).bind (fun r => bs.head?.map (fun b => (r, b))))) (.dscanBlockRebuild f.id)
      | .store => commitEvents s f
      | .tapeWrite => commitEvents s f
      | .copy _ x => (if f.todo.isEmpty && x.isNone then [.copyCompletion f.id] else commitEvents s f) ++
          whenE (boundPassed s f) (.commandBoundExpiry f.id)
      | .get _ _ => (if copyOver f then [.copyCompletion f.id] else commitEvents s f) ++
          whenE (boundPassed s f) (.commandBoundExpiry f.id)
      | .put _ _ => whenE (f.hostNext && mayPerform s f) (.hostRequestCompletion f.id) ++ whenE (boundPassed s f) (.commandBoundExpiry f.id)
      | .atomic _ _ _ _ => if may then elemEvents s f else []
      | .nm _ _ _ _ => if may then elemEvents s f else []
      | .embag _ _ _ _ _ _ _ _ w _ _ => if may then chipEvents s f .pool (w.map (·.left)) .poolPartialReturn else []
      | .kvatt _ _ _ _ _ _ _ _ w _ _ => if may then chipEvents s f .attention (w.map (·.left)) .attentionPartialReturn else []
      | .collective c => commitEvents s f ++ whenE (collectiveFull f) (.collectiveComplete f.id) ++
          whenE (s.inbox.isEmpty && c.mask.isNone && (match c.deadline with | some t => decide (t ≤ s.now) | none => false)) (.collectiveDeadline f.id)
      | .remoteAtomic _ => []
      | .flush _ => [.backInvalidateResponse f.id])

/-- What can happen in the device's own memory beside the operations: migrations, echoes, claims, fills. -/
def memoryEvents (s : State) : List Instr :=
  s.migrations.flatMap (fun m => if m.draining then whenE (drained s m) (.migrationDrainEnd m.id) else [.migrationArrival m.id]) ++
    s.echoes.flatMap (fun e => whenE (echoMay s e && !s.slotWaits (e.block s)) (.echoApply e.id)) ++
    s.claims.flatMap (fun c => whenE (claimOver s c) (.claimEnd c.id)) ++
    s.cache.flatMap (fun c => whenE (match c.filling with | some t => decide (t ≤ s.now) | none => false) (.digestFillComplete c.id))

/-! ### Whose turn cannot wait -/

/-- The events of operations in flight that can no longer wait: the abandonment of a copy, PUT or GET (R39), the completion of one that has
written all its bytes, that of a collective with every contribution, its deadline (R345), the data of a load (R48). -/
def dueFlight (s : State) (f : Flight) : List Instr :=
  whenE (boundPassed s f) (.commandBoundExpiry f.id) ++ whenE (copyOver f) (.copyCompletion f.id) ++
    whenE (collectiveFull f) (.collectiveComplete f.id) ++ whenE (deadlinePassed s f) (.collectiveDeadline f.id) ++
    (if f.ready + loadCycles ≤ s.now then loadEvent s f else [])

/-- The events of launches that can no longer wait: DONE (R12), the end of a budget (R359), the turn of a soft pre-emption (R295). -/
def dueLaunch (s : State) (l : Launch) : List Instr :=
  whenE (launchOver s l) (.launchDone l.id) ++ whenE (budgetSpent s l) (.budgetExpiry l.id) ++
    (match s.preemption with
      | some p => whenE (p.victim == l.id && softOver s l p) (.softPreemptTimeout l.id)
      | none => [])

/-- The events of the rest of the device that have a latest time: a whole millisecond (R356), the 50 µs of a reduction behind a claim (R328),
the 10 s of an open (R365), the 2 ms of a tunnel's frame (R361), the 100 ms after an alarm (R376). -/
def dueDevice (s : State) : List Instr :=
  whenE (decide (s.lastTick < s.now / 850000)) .millisecondTick ++
    s.claims.flatMap (fun c => (c.waiting.filter (fun w => w.overdue s.now)).map (fun w => .claimTimeout c.id w.op)) ++
    s.groups.flatMap (fun g => whenE (g.state == .opening && decide (g.openedAt + 8500000000 ≤ s.now)) (.groupOpenTimeout g.num)) ++
    s.links.flatMap (fun l => whenE (l.unacked.any (fun u => decide (u.2.1 + 1700000 ≤ s.now))) (.tunnelRetransmit l.num)) ++
    whenE (s.alarms != 0 && decide (s.lastAlarm + 85000000 ≤ s.now)) .alarmQuietTimeout

/-- An access of a C-stream to CORE is under way: whatever the device itself can do for it goes on at once (R36; DEDUCED, log 117). -/
def dueHeld (s : State) : List Instr :=
  if (s.core :: s.others).any (fun k => k.c.held && k.c.status == .running) then
    let out := outsideOps s
    (s.flights.filter (fun f => !out.contains f.id)).flatMap (flightEvents s) ++ memoryEvents s
  else []

/-- The turns that come before any turn of the agenda: what has a latest time. -/
def dueTurns (s : State) : List Turn :=
  ((s.core :: s.others).filter Core.mayBeDue).flatMap (fun k => let t := s.focus k.num; (dueInCore t).map (.event k.num)) ++
    (s.flights.flatMap (dueFlight s) ++ s.launches.flatMap (dueLaunch s) ++ dueDevice s ++ dueHeld s).map (.event s.core.num) ++
    ((s.core :: s.others).filter Core.mayBeDue).flatMap (fun k => dueStreams (s.focus k.num))

/-! ### What can happen next -/

/-- What can happen to a stream that waits, in the core in focus. -/
def waitEvents (s : State) (st : StreamId) : List Instr :=
  match (s.stream st).status with
  | .waiting w t =>
    (match w with
      | .stampCheck op => [.stampCheckAnswer op]
      | .saveTransfer => whenE (transferMay s) .saveImageTransferEnd
      | w => if waitOver s st w t then (resumeEvent st w).toList else []) ++
      whenE (watchdogDue s st) (.watchdogExpiry st)
  | _ => []

/-- What can happen in the core in focus. -/
def coreEvents (s : State) : List Instr :=
  waitEvents s .C ++ waitEvents s .A ++ waitEvents s .X ++ whenE (engineStarts s) .matrixOpStart ++ whenE (engineEnds s) .matrixOpComplete ++
    whenE (expiredMatrix s).isSome (.commandBoundExpiry 0) ++ barrierEvents s ++ whenE (drainOver s) .drainLimit ++
    whenE (deliverable s) .trapDelivery ++ whenE (parityMay s s.now) .controlParityError

/-- What can happen to a launch. -/
def launchEvents (s : State) (l : Launch) : List Instr :=
  match l.state with
  | .loading => if l.saved then [.teamRestore l.id] else [.overlayLoad l.id]
  | .running =>
    whenE (launchOver s l) (.launchDone l.id) ++ whenE (budgetSpent s l) (.budgetExpiry l.id) ++ whenE (brokenMember s l).isSome (.saveBroken l.id) ++
      (match s.preemption with
        | none => []
        | some p =>
          if p.victim ≠ l.id then []
          else if p.saving then whenE (brokenMember s l).isNone (.saveEnd l.id)
          else whenE (l.members.all (fun n => (if p.hard then atStop s n else atFence s n) && quiet s n)) (.preemptSaveBegin l.id) ++
            whenE (softOver s l p) (.softPreemptTimeout l.id))
  | _ => []

/-- What the host's next request asks for. -/
def hostEvents (s : State) : List Instr :=
  match s.hostIn with
  | .write k d :: _ => (match hostWriteSort k d.length with
      | .plain =>
        let bs := blocksMet s [(k, d.length)]
        whenE (hostMayWrite s k d.length && (bs.all s.slotHere || bs.any (fun b => !s.slotHere b && !s.slotWaits (some b)))) .hostMemoryRequest
      | .register => [.hwinRegisterWrite]
      | .doorbell _ => (List.range 64).flatMap (fun m => whenE (bellsTo m s.hostIn).isSome (.doorbell m))
      | .ctrl g => [.groupOpen g, .groupClose g, .hwinRegisterWrite]
      | .areq => [.attestationRequest, .hwinRegisterWrite])
  | .read _ _ :: _ => [.hostMemoryRequest]
  | .atomicOp _ _ _ _ _ :: _ => [.hostAtomicop]
  | [] => []

/-- What can happen in the rest of the device. -/
def deviceEvents (s : State) : List Instr :=
  hostEvents s ++ whenE s.attesting.isSome .attestationRequest ++
    (List.range 16 ++ (List.range 64).map (· + 64)).flatMap (fun n => whenE (linkMayRise s n).isSome (.linkBringup n)) ++
    s.links.flatMap (fun l => whenE (!l.arrived.isEmpty) (.frameReceive l.num) ++ whenE (l.up && decide (2 ^ 31 ≤ l.frames)) (.linkRekey l.num) ++
      whenE (l.unacked.any (fun u => decide (u.2.1 + 1700000 ≤ s.now))) (.tunnelRetransmit l.num)) ++
    whenE (nextAccess s).isSome .remoteAccessArrival ++
    whenE (s.inbox.any (ackReady s)) .fabricAck ++
    whenE (s.inbox.any Packet.contributes) .contributionPacket ++
    s.groups.flatMap (fun g => whenE (g.state == .opening && !s.idGone) (.groupOpenConfirmed g.num) ++
      whenE (g.state == .opening && decide (g.openedAt + 8500000000 ≤ s.now)) (.groupOpenTimeout g.num) ++
      whenE (g.closing && g.low == g.next) (.groupCloseComplete g.num) ++
      whenE (g.exhausted && collectiveWaits s g.num) (.sessionReopen g.num)) ++
    memoryEvents s ++ s.claims.flatMap (fun c => (c.waiting.filter (fun w => w.overdue s.now)).map (fun w => .claimTimeout c.id w.op)) ++
    s.writeback.map (fun c => .digestWritebackEnd c.id) ++ (s.watch.filter (fun w => w.woken && wakeMay s w.grove)).map (fun w => .waitaWake w.grove) ++
    s.retiring.flatMap (fun c => whenE (topFree s (c / 96)) (.channelRetirementEnd c)) ++
    whenE (s.alarms != 0 && decide (s.lastAlarm + 85000000 ≤ s.now)) .alarmQuietTimeout ++
    whenE (decide (s.lastTick < s.now / 850000)) .millisecondTick

/-- The streams of the core in focus that can run. -/
def runnable (s : State) : List StreamId := [StreamId.C, .A, .X].filter (fun st => canRun st s)

/-- The cores at work: those of the launches, and the core in focus. -/
def atWork (s : State) : List Nat := s.core.num :: s.launches.flatMap (fun l => l.members.filter (· != s.core.num))

/-- Every turn that can be taken now. -/
def possible (s : State) : List Turn :=
  (atWork s).flatMap (fun n => (runnable (s.focus n)).map (.stream n) ++ (coreEvents (s.focus n)).map (.event n)) ++
    (s.flights.flatMap (flightEvents s) ++ s.launches.flatMap (launchEvents s) ++ deviceEvents s).map (.event s.core.num)

/-- The cycles at which something of a core may become possible, or due. -/
def coreTimes (k : Core) : List Nat :=
  k.matrix.flatMap (fun o => o.started.toList ++ [o.accepted + 1, o.accepted + o.bound + 1]) ++ [k.engineFree] ++
    (k.bqa.items ++ k.bqx.items).map (fun b => b.since + 2) ++ (match k.pending with | some p => [p.since + 4097] | none => []) ++
    [(k.c, k.wdc), (k.a, k.wda), (k.x, k.wdx)].flatMap (fun v => match v.1.status with
      | .waiting (.stampCheck _) t => [t + loadCycles]
      | .waiting .saveTransfer t => [t + transferCycles]
      | .waiting _ t => [t + v.2.toNat + 1]
      | .running => [v.1.ready, v.1.ready + streamCycles]
      | _ => [])

/-- The cycles at which something of an operation in flight may become possible, or due. -/
def flightTimes (f : Flight) : List Nat :=
  [f.ready, f.ready + loadCycles, f.issued + hitCycles, f.issued + 128] ++ (f.expires.map (· + 1)).toList ++
    (match f.job with | .collective c => c.deadline.toList ++ (c.deadline.map (· + 1)).toList | _ => [])

/-- The first cycle in which a member's ticks have reached its launch's budget, once that cycle is over (R359). -/
def launchTimes (s : State) (l : Launch) : List Nat :=
  l.members.filterMap (fun n => let k := s.coreAt n
    k.cyclesSince.map (fun t => t + (l.record.budget * 1024 - k.cyclesBase) + 1)) ++
    (match s.preemption with | some p => [p.since + 1048576] | none => [])

/-- The cycles to come at which something may become possible, or due. -/
def comingTimes (s : State) : List Nat :=
  s.flights.flatMap flightTimes ++ s.cores.flatMap coreTimes ++ s.launches.flatMap (launchTimes s) ++
    s.cache.flatMap (fun c => c.filling.toList) ++ s.claims.flatMap (fun c => c.waiting.map (fun w => w.since + 42500)) ++
    s.echoes.map (fun e => e.since + hitCycles) ++ s.arrivals.flatMap (fun a => [a.since + barrierLatency 0, a.since + barrierLatency 1]) ++
    s.parity.map (fun p => p.2.2 + 850) ++ s.links.flatMap (fun l => l.unacked.map (fun u => u.2.1 + 1700000)) ++
    s.groups.map (fun g => g.openedAt + 8500000000) ++ [s.lastAlarm + 85000000, (s.now / 850000 + 1) * 850000]

/-- The cycles, beyond this one, in which nothing becomes possible or due: a pass of the dispatcher ends its cycle (R356). -/
def quietFor (s : State) : Nat :=
  if s.passDue || s.watch.any (·.woken) then 0 else (((comingTimes s).filter (fun t => decide (s.now < t))).foldl min (s.now + 850000)) - s.now - 1

/-- With nothing possible, cycles pass until something may be. -/
def idle (s : State) : Turn := .time (quietFor s)

/-- The turn of the default schedule: boot first, then what is possible, in rotation (DESIGN CHOICE, log 7). -/
def defaultTurn (s : State) : Turn :=
  if s.phase < 6 ∧ s.bootErr = 0 then .event s.core.num (.bootStep true)
  else
    let ts := possible s
    ts.getD (s.rotor % ts.length) (idle s)

end Sys2Proof.Machine
end

