-- ==== Sys2Proof/Machine/Step.lean ====
section
/-! DEFINITION. One step of the module: the turn that is next, and one device cycle. -/
namespace Sys2Proof.Machine

/-- The sync field of an instruction. -/
def syncOf (i : Instr) : BitVec 4 :=
  match operandsOf i with
  | some (_, _, y :: _, _) => BitVec.ofNat 4 y
  | _ => 0

/-- What a turn of the core in focus of `s` answers, with the marks as they then are (R381), and with what fabric operations have then to
send (R162). -/
def remarked (s : State) (i : Option (StreamId × Instr)) : Host.Outcome State Fault Refusal → Host.Outcome State Fault Refusal
  | .next t => .next (sendHeld (settleMarks s i t))
  | o => o

/-- The instruction at a stream's pc, fetched and decoded (R17, R18, R63): it runs, or its word raises ILLEGAL or PRIV. A marked word of
it, or a marked unit that it reads, raises ECC_UNCORRECTABLE, after PRIV of step 2; which unit taux0 names for a word is open (R287; DEDUCED, log 225). -/
noncomputable def runStream (st : StreamId) (s : State) : Host.Outcome State Fault Refusal :=
  let pc := (s.stream st).pc.toNat
  if !fetchable st s then .next (raiseTrap st s (fetchTrap st s))
  else if fetchMarked st s then .next (raiseTrap st s.free.2 { cause := .eccUncorrectable, aux0 := BitVec.ofNat 64 s.free.1 })
  else
    let w := s.core.wordAt st pc
    match decodeWord st w (s.core.extAt st pc) with
    | .ok i => if readsMarked s i && (s.core.sup || !supervisorOnly st w) then issue st (syncOf i) s (fun _ => .raise { cause := .eccUncorrectable, aux0 := 4 })
      else remarked s (some (st, i)) (exec i s)
    | .error e => .next (raiseTrap st s (if e = .reserved ∧ supervisorOnly st w ∧ !s.core.sup then privTrap st s else illegal st s))

/-- One turn: a stream that runs executes its next instruction; an event happens; cycles pass, up to the next in which something may
happen; something arrives. -/
noncomputable def takeTurn (t : Turn) (s : State) : Host.Outcome State Fault Refusal :=
  match t with
  | .stream n st => if canRun st (s.focus n) then runStream st ((s.focus n).takesTurn st) else .next s
  | .event n i => if isEvent i then remarked (s.focus n) none (exec i (s.focus n)) else .next s
  | .time n => .next { s with now := s.now + min n (quietFor s) }
  | .input x => .next (arrive x s)

/-- A device cycle passes (DESIGN CHOICE, log 2), with the one pass of the dispatcher that it may call for (R356). -/
def tick : Host.Outcome State Fault Refusal → Host.Outcome State Fault Refusal
  | .next s => .next { passOfCycle s with now := s.now + 1 }
  | o => o

/-- One step: what can no longer wait comes first, in no time; else the first turn of the agenda, or, with none, the default
schedule's turn (DESIGN CHOICE, log 1, 7). -/
noncomputable def step (s : State) : Host.Outcome State Fault Refusal :=
  match dueTurns s with
  | t :: _ => takeTurn t s
  | [] => match s.agenda with
    | t :: rest => tick (takeTurn t { s with agenda := rest })
    | [] => tick (takeTurn (defaultTurn s) { s with rotor := s.rotor + 1 })

/-- The stream whose word a table word is (DESIGN CHOICE, log 8). -/
noncomputable def tableStream (nbits w : Nat) : StreamId :=
  if nbits ≤ 32 then .C
  else if nbits ≤ 64 then (match decodeWord .A (w % 2 ^ 64) 0 with | .ok _ => .A | .error _ => .X)
  else .X

/-- Bytes of a table word as the stream fetches it. -/
def tableBytes (st : StreamId) (w : Nat) : List Byte :=
  match st with
  | .C => leBytes 4 w
  | .A => leBytes 8 w
  | .X => leBytes 16 w

/-- Put bytes into a stream's instruction memory. -/
def Core.putImem (k : Core) (st : StreamId) (pc : Nat) (l : List Byte) : Core :=
  match st with
  | .C => { k with imemC := Memory.setAll k.imemC pc l }
  | .A => { k with imemA := Memory.setAll k.imemA pc l }
  | .X => { k with imemX := Memory.setAll k.imemX pc l }

/-- The state with this instruction at the pc of its stream, in the core in focus, that stream running, and the next turn
that stream's: it stands for the overlay loader's work (R47; DEDUCED, log 9). -/
noncomputable def State.withFetchWord (s : State) (nbits w : Nat) : State :=
  let st := tableStream nbits w
  let k := s.core.putImem st (s.stream st).pc.toNat (tableBytes st w)
  let early := fun (v : StreamState) => { v with ready := min v.ready s.now }
  let k := { k with c := early k.c, a := early k.a, x := early k.x }
  { s with core := k.withStream st { k.stream st with status := .running }
           agenda := [.stream s.core.num st] }

end Sys2Proof.Machine
end

