-- ==== Sys2Proof/Safety.lean ====
section
/-! DEFINITION. What the statements speak of: what an instruction may change, where it goes on, and what holds of every state. -/
namespace Sys2Proof.Machine

/-- The memory of the module has its canonical form. -/
def State.MemOk (s : State) : Prop := Memory.wf s.mem = true

/-- The operations in flight have numbers of their own, which have been given out. -/
def State.IdsOk (s : State) : Prop := (s.flights.map (·.id)).Nodup ∧ ∀ f ∈ s.flights, f.id < s.nextId

/-- Every digest entry that the device holds is of a declared region: DREG adds regions, and DFREE takes the entries with their region. -/
def State.EntriesDeclared (s : State) : Prop := ∀ e ∈ s.entries, (s.region? e.1.1).isSome = true

/-- Every byte of memory reads in `t` as in `s`. -/
def SameMemory (s t : State) : Prop := ∀ k : Nat, Memory.get t.mem k = Memory.get s.mem k

/-- `k` with the streams, the token counters and the pending trap of `j`: what every instruction may change, by going on, by
waiting or by raising a trap. -/
def Core.controlOf (k j : Core) : Core := { k with c := j.c, a := j.a, x := j.x, tokens := j.tokens, pending := j.pending }

/-- `t` differs from `s` in nothing but the control state of the core in focus. -/
def OnlyControl (s t : State) : Prop := t = { s with core := s.core.controlOf t.core }

/-- The instruction at pc transfers to `target`; a target out of place raises ILLEGAL at it, with the state `s` (R17). -/
def transferTo (st : StreamId) (y : BitVec 4) (s u : State) (target : Word) : State :=
  if target.toNat % wordSize st = 0 ∧ target.toNat < imemBytes st then
    moveTo st y u target (branchLoops (s.stream st).pc target (s.stream st).loops)
  else raiseTrap st s (illegal st s)

/-- The address of the instruction after the one at pc. -/
def nextPc (st : StreamId) (s : State) : Word := (s.stream st).pc + BitVec.ofNat 64 (s.core.lengthAt st (s.stream st).pc.toNat)

/-- No outstanding operation writes these address registers, and no error of one is still to be reported (R128, R129); of a0 nothing is
asked. -/
def RegsFree (s : State) (regs : List Nat) : Prop := ∀ r ∈ regs, r ≠ 0 → s.writers r = [] ∧ s.core.report? r = none

/-- Handle `h` with first coordinate register `cf` names the operand `p`: checks 1 to 3 of R126 pass, and its coordinate registers and
those of `more` are free. -/
def Names (s : State) (h : Handle) (cf : Nat) (more : List Nat) (p : Operand) : Prop :=
  named s h cf = .ok p.obj ∧ p = operandAt s h cf p.obj ∧ RegsFree s (coordRegs cf p.obj.rank ++ more)

/-- Two handles name the operands `p` and `q` (R126). -/
def Names2 (s : State) (h1 : Handle) (c1 : Nat) (h2 : Handle) (c2 : Nat) (more : List Nat) (p q : Operand) : Prop :=
  named2 s h1 c1 h2 c2 = .ok (p.obj, q.obj) ∧ p = operandAt s h1 c1 p.obj ∧ q = operandAt s h2 c2 q.obj ∧
    RegsFree s (coordRegs c1 p.obj.rank ++ coordRegs c2 q.obj.rank ++ more)

/-- An access of these byte ranges passes checks 6 to 8 of R126, and no watched space asks for a stamp check. -/
def Passes (s : State) (ops : List Operand) (l : List Span) : Prop := checkSpans s ops l = .ok () ∧ watchedSpans s l = false

/-- A core holds the user context of a save image (R300–R302): its registers, queues, tiles, accumulators and handles are those at the
places that R301 gives them. The sync clock's values, the translation table and the trap banks have rules of their own. -/
def Reinstated (raw : List Byte) (k : Core) : Prop :=
  let word := fun (o : Nat) => BitVec.ofNat 64 (fieldAt raw o 8)
  let reg := fun (n : Nat) => word (0x600 + 8 * n)
  let lane := fun (o : Nat) => BitVec.ofNat 32 (fieldAt raw o 4)
  let head := fun (n : Nat) => (reg n).setWidth 32
  let count := fun (n : Nat) => ((reg n >>> 32).setWidth 32 - head n).toNat
  let slot := fun (n size i : Nat) => ((head n).toNat + i) % size
  k.gen = word 0x10 ∧
  (∀ r : Fin 32, r ≠ 0 → k.sregs[r] = word (0x100 + 8 * r.val) ∧ k.aregs[r] = word (0x200 + 8 * r.val) ∧ k.xregs[r] = word (0x300 + 8 * r.val)) ∧
  (∀ r : Fin 16, r ≠ 0 → k.p[r] = word (0x400 + 8 * r.val)) ∧ (∀ r : Fin 4, k.bt[r] = word (0x480 + 8 * r.val)) ∧
  (∀ r : Fin 8, k.flags[r] = (raw.getD (0x4A0 + r.val) 0).getLsbD 0) ∧ (∀ r : Fin 12, k.shapes[r] = word (0x4B0 + 8 * r.val)) ∧
  k.halted = (reg 0).getLsbD 3 ∧ k.cyclesBase = (reg 4).toNat ∧ k.tbudget = reg 6 ∧ k.dmem = reg 8 ∧ k.gphase = (reg 9).setWidth 32 ∧
  k.tphase = (reg 9 >>> 32).setWidth 32 ∧ k.mvthr = reg 0x10 ∧ k.isat = (reg 0x12).getLsbD 0 ∧ k.slipmax = reg 0x18 ∧
  k.ldcnt = (reg 0x19).setWidth 32 ∧ k.wdc = reg 0x20 ∧ k.wda = reg 0x21 ∧ k.wdx = reg 0x22 ∧ (∀ i : Fin 6, k.tokens[i] = bits (reg 0x39) (8 * i.val) 8) ∧
  (∀ i : Fin 8, k.sh[i] = reg (0x40 + i.val)) ∧ k.tvec = reg 0x100 ∧ k.tscr0 = reg 0x101 ∧ k.tscr1 = reg 0x102 ∧
  (∀ (r l : Fin 64), k.v[r][l] = lane (0x2000 + 256 * r.val + 4 * l.val)) ∧
  (∀ (z : Fin 4) (r l : Fin 64), k.accs[z][r][l] = lane (0x30000 + 16384 * z.val + 256 * r.val + 4 * l.val)) ∧
  (∀ (t : Fin 8) (r : Fin 128) (l : Fin 64), k.tiles[t][r][l] = lane (0x40000 + 32768 * t.val + 256 * r.val + 4 * l.val)) ∧
  (∀ q : Fin 4, k.lq[q].head = head (0x30 + q.val) ∧ k.lq[q].items.length = min 64 (count (0x30 + q.val)) ∧ ∀ i e, k.lq[q].items[i]? = some e →
    ∃ v : Vec, e.data = some v ∧ ∀ l : Fin 64, v[l] = lane (0x1C000 + 16384 * q.val + 256 * slot (0x30 + q.val) 64 i + 4 * l.val)) ∧
  (k.sq.head = head 0x34 ∧ k.sq.items.length = min 64 (count 0x34) ∧ ∀ i v, k.sq.items[i]? = some v → ∀ l : Fin 64,
    v[l] = lane (0x2C000 + 256 * slot 0x34 64 i + 4 * l.val)) ∧
  (k.vq.head = head 0x35 ∧ k.vq.items.length = min 32 (count 0x35) ∧ ∀ i x, k.vq.items[i]? = some x → x = word (0x1C00 + 8 * slot 0x35 32 i)) ∧
  (∀ q ∈ ([(k.bqa, 0x36, 0x1D00), (k.bqx, 0x37, 0x1D10)] : List (Queue OutBit × Nat × Nat)),
    q.1.head = head q.2.1 ∧ q.1.items.length = min 128 (count q.2.1) ∧ ∀ i e, q.1.items[i]? = some e →
      e.bit = some ((raw.getD (q.2.2 + slot q.2.1 128 i / 8) 0).getLsbD (slot q.2.1 128 i % 8))) ∧
  (k.fq.head = head 0x38 ∧ k.fq.items.length = min 64 (count 0x38) ∧ ∀ i x, k.fq.items[i]? = some x → x = word (0x1D20 + 8 * slot 0x38 64 i)) ∧
  (∀ h < 1024, (k.handle h).map (fun o => { o with sealchk := 0, chanMap := 0 }) = (handleAt raw h).map parseShape ∧
    ∀ o, k.handle h = some o → o.sealchk = o.crc) ∧
  (∀ i < 35, (k.report? i).map (fun d => (d.info.cause.code, d.pc)) =
    (if 1 ≤ fieldAt raw (0x20 + 4 * i) 1 ∧ fieldAt raw (0x20 + 4 * i) 1 ≤ 19 then
      some (fieldAt raw (0x20 + 4 * i) 1, BitVec.ofNat 64 (fieldAt raw (0x20 + 4 * i) 4 / 256 % 2 ^ 17)) else none)) ∧
  (∀ z : Fin 4, (k.latches[z]).map (fun l => (l.info.cause.code, l.pc, l.count)) =
    (if 1 ≤ fieldAt raw (0x1F20 + 16 * z.val) 1 ∧ fieldAt raw (0x1F20 + 16 * z.val) 1 ≤ 19 then
      some (fieldAt raw (0x1F20 + 16 * z.val) 1, BitVec.ofNat 64 (fieldAt raw (0x1F20 + 16 * z.val) 8 / 256 % 2 ^ 17), word (0x1F28 + 16 * z.val)) else none)) ∧
  k.tape.word = reg 0x50

/-- What an operation issued by the A-stream carries: its core, its stream, the pc of its instruction, the generation. -/
def IssuedBy (s : State) (f : Flight) : Prop :=
  f.core = s.core.num ∧ f.stream = .A ∧ f.pc = s.core.a.pc ∧ f.gen = s.core.gen ∧ f.issued = s.now

end Sys2Proof.Machine
end

