-- ==== Sys2Proof/Certificates/Slice0/Obligations.lean ====
section
/-! DEFINITION. The statements for the provers. -/
open Sys2Proof Sys2Proof.Machine

/-- R16: s0, a0 and x0 read zero and discard writes; p0 reads all-true and discards writes; every other register reads
what was last written to it, and a write to one leaves the others of its file alone. -/
def Obligations.RegisterFiles : Prop :=
  ∀ (s : State) (r q : Reg) (g m : PReg) (x : Word),
    s.rs 0 = 0 ∧ s.ra 0 = 0 ∧ s.rx 0 = 0 ∧ s.ws 0 x = s ∧ s.wa 0 x = s ∧ s.wx 0 x = s ∧
    s.rp 0 = BitVec.allOnes 64 ∧ s.wp 0 x = s ∧
    (r ≠ 0 → (s.ws r x).rs q = if q = r then x else s.rs q) ∧
    (r ≠ 0 → (s.wa r x).ra q = if q = r then x else s.ra q) ∧
    (r ≠ 0 → (s.wx r x).rx q = if q = r then x else s.rx q) ∧
    (g ≠ 0 → (s.wp g x).rp m = if m = g then x else s.rp m)

/-- How an instruction retires: its signals, the loops that end at it, and the tokens it waits for before it starts.
-/
def Obligations.Retirement : Prop :=
  -- R27, R28, R56: an instruction that retires with no BX transfer pending leaves its stream where the check of the
  -- loops that end at it puts it: at the next word, or at a loop's start. With room for its signals each is given;
  -- without room they are owed and the stream waits. Nothing else changes.
  (∀ (st : StreamId) (y : BitVec 4) (s : State), (s.stream st).bx = none →
     let t := retireAt st y s
     let r := loopStep (s.stream st).pc (nextPc st s) (s.stream st).loops
     OnlyControl s t ∧ (t.stream st).pc = r.1 ∧ (t.stream st).loops = r.2 ∧
     (s.core.signalRoom st (y.setWidth 2) = true →
       (t.stream st).status = .running ∧ t.core.tokens = (s.core.giveSync st (y.setWidth 2)).tokens) ∧
     (s.core.signalRoom st (y.setWidth 2) = false →
       (t.stream st).psig = y.setWidth 2 ∧ (t.stream st).status = .waiting (.room (signalWant st (y.setWidth 2))) s.now ∧
         t.core.tokens = s.core.tokens)) ∧
  -- R56: when the instruction at the innermost loop's end retires without a taken branch, remaining is decremented;
  -- nonzero, execution continues at start; zero, the entry is popped, and the next enclosing loop that ends there is
  -- checked in the same retirement.
  (∀ (pc next : Word) (e : LoopEntry) (rest : List LoopEntry),
     loopStep pc next [] = (next, []) ∧
     (e.stop ≠ pc → loopStep pc next (e :: rest) = (next, e :: rest)) ∧
     (e.stop = pc → e.remaining - 1 ≠ 0 → loopStep pc next (e :: rest) = (e.start, { e with remaining := e.remaining - 1 } :: rest)) ∧
     (e.stop = pc → e.remaining - 1 = 0 → loopStep pc next (e :: rest) = loopStep pc next rest)) ∧
  -- R27: an instruction whose tokens are not there waits before it starts and takes nothing: said of instructions of
  -- several kinds in each stream.
  (∀ (y : BitVec 4) (d a b : Reg) (h : Handle) (ty : ElemCode) (v w : VReg) (g : PReg) (s : State),
     (∀ i ∈ ([.cAdd y d a b, .cLdw y d a 0, .cFence y 2 3, .cSeal y h a, .cHalt y] : List Instr), syncReady .C y s = false →
       exec i s = .next (blockOn .C s (.tokens (y.getLsbD 3) (y.getLsbD 2)))) ∧
     (∀ i ∈ ([.aAdd y d a b, .aLda32 y d h a ty 0 0, .aSta32 y h a b ty 0 0, .aEnd y] : List Instr), syncReady .A y s = false →
       exec i s = .next (blockOn .A s (.tokens (y.getLsbD 3) (y.getLsbD 2)))) ∧
     (∀ i ∈ ([.xAdd y d a b, .xVadd y v v w g ty, .xVpush y v, .xEnd y] : List Instr), syncReady .X y s = false →
       exec i s = .next (blockOn .X s (.tokens (y.getLsbD 3) (y.getLsbD 2)))))

/-- R17, R18, R38, R39, R48, R63, R73, R345, R356, R381: what can no longer wait comes first, in no time; else a step
takes the first turn of the agenda, or, with none, the default schedule's turn, and one device cycle passes, with the
dispatcher's pass where one is due. The turn of a stream that can run executes what its word decodes to, in its core;
a word that decodes to nothing raises PRIV where its opcode is supervisor-only and the level is user, else ILLEGAL; a
marked word, or a marked unit that the instruction reads, raises ECC_UNCORRECTABLE, but after PRIV; after a turn
fabric operations that waited and now may go are sent; an event's turn is that event; and time, which passes only
while nothing can happen, or an input changes nothing else. The agenda and the default schedule (logs 1, 7), one cycle
a step (log 2), when a turn is due where no rule bounds it (log 232), and which units an instruction reads (log 225)
are the model's choice. -/
def Obligations.StepRunsDecoded : Prop :=
  ∀ (s r : State) (t : Turn) (out : Host.Outcome State Fault Refusal → Host.Outcome State Fault Refusal),
    (r = s ∧ out = id ∧ (∃ rest, dueTurns s = t :: rest)) ∨
      (dueTurns s = [] ∧ out = tick ∧ (s.agenda = t :: r.agenda ∧ r = { s with agenda := r.agenda } ∨
        s.agenda = [] ∧ t = defaultTurn s ∧ r = { s with rotor := s.rotor + 1 })) →
    (∀ n st, t = .stream n st → canRun st (r.focus n) = false → step s = out (.next r)) ∧
    (∀ n st, t = .stream n st → canRun st (r.focus n) = true →
      let f := (r.focus n).takesTurn st
      let pc := (f.stream st).pc.toNat
      let w := f.core.wordAt st pc
      (fetchable st f = false → step s = out (.next (raiseTrap st f (fetchTrap st f)))) ∧
      (fetchable st f = true → fetchMarked st f = true → ∃ x, step s =
        out (.next (raiseTrap st { f with fresh := f.fresh + 1 } { cause := .eccUncorrectable, aux0 := x }))) ∧
      (fetchable st f = true → fetchMarked st f = false →
        (∀ i, decodeWord st w (f.core.extAt st pc) = .ok i → wellFormed i = true ∧
          (readsMarked f i = false ∨ (supervisorOnly st w = true ∧ f.core.sup = false) → step s = out (remarked f (some (st, i)) (exec i f))) ∧
          (readsMarked f i = true → supervisorOnly st w = false ∨ f.core.sup = true → step s = out (issue st (syncOf i) f (fun _ => .raise { cause := .eccUncorrectable, aux0 := 4 })))) ∧
        (decodeWord st w (f.core.extAt st pc) = .error .unassigned → step s = out (.next (raiseTrap st f (illegal st f)))) ∧
        (decodeWord st w (f.core.extAt st pc) = .error .reserved →
          step s = out (.next (raiseTrap st f (if supervisorOnly st w = true ∧ f.core.sup = false then privTrap st f else illegal st f))))) ∧
      (s.marks = [] → fetchMarked st f = false ∧ ∀ i, readsMarked f i = false)) ∧
    (∀ n i, t = .event n i → isEvent i = true → step s = out (remarked (r.focus n) none (exec i (r.focus n)))) ∧
    (∀ n, t = .time n → step s = out (.next { r with now := r.now + min n (quietFor r) })) ∧
    (∀ x, t = .input x → step s = out (.next (arrive x r))) ∧
    (∀ u, tick (.next u) = .next { passOfCycle u with now := u.now + 1 } ∧ (u.passDue = false → passOfCycle u = u)) ∧
    (∀ f i u, u.marks = [] → remarked f i (.next u) = .next (sendHeld u) ∧ ((∀ g ∈ u.flights, g.unsent = none) → sendHeld u = u))

/-- The words that the spec works out bit by bit decode to the instructions that they stand for; the zero word decodes
in no stream. -/
def Obligations.DecodeWords : Prop :=
  decodeWord .C 0x18C02800 0 = .ok (.cFpush 1 5) ∧ decodeWord .C 0x07270003 0 = .ok (.cLoop 0 7 3) ∧
  decodeWord .C 0x08A30801 0 = .ok (.cStw 0 3 1 1) ∧ decodeWord .C 0x29204840 0 = .ok (.cSeal 2 9 1) ∧
  decodeWord .A 0x0016296000000000 0 = .ok (.aAdd 0 12 10 11) ∧ decodeWord .A 0x03100480C8040000 0 = .ok (.aLd16 0 0 1 4 25 1 0 0) ∧
  decodeWord .A 0x0480180208790028 0 = .ok (.aCpy 0 7 6 0 2 8 9 0x28) ∧ decodeWord .A 0x08800805309004E0 0 = .ok (.aAllred 0 1 5 2 0 6 7 0x24) ∧
  decodeWord .X 0x04306002100A0000 0 = .ok (.xVfma 0 3 0 1 2 0 5 0) ∧ decodeWord .X 0x8908000200000000 0x28 = .ok (.xMma 8 0 0 1 (some 0x28)) ∧
  decodeWord .X 0x01600C0000000002 0 = .ok (.xLoop 0 24 2) ∧
  ∀ st, decodeWord st 0 0 = .error .unassigned

/-- R62, R63, R69, R74, R78, R80, R81: decoding the words that encode a well-formed instruction gives it back, with
every operand at every value the encoding admits. An instruction that a word decodes to is well-formed, is no event,
and its words are that word, the bits that R78 ignores cleared, with its extension word. -/
def Obligations.EncodeDecode : Prop :=
  (∀ i : Instr, wellFormed i = true → isEvent i = false → ∃ st w x, encode i = some (st, w, x) ∧ decodeWord st w x = .ok i) ∧
  (∀ i : Instr, isEvent i = true → encode i = none) ∧
  ∀ (st : StreamId) (w x : Nat) (i : Instr), decodeWord st w x = .ok i → wellFormed i = true ∧ isEvent i = false ∧
    ∃ r, rowOf st ((opField st).get w) = some r ∧ encode i = some (st, clearIgnored r w, if extBit st w then x else 0)

/-- R374, R99, R100, R23, R27, R43, R31, R34, R37, R232: the machine right after reset: PHASE 0, no launch, the 160
cores with the control registers at the reset values of the map, every queue, counter, loop stack, table and unit
empty. That the general registers are 0 (log 3) and that memory reads 0 where nothing is written (log 5), and that
RET0 and RET1 are 0, with no channel retired (log 11), are the model's choices. -/
def Obligations.ResetState : Prop :=
  let s := State.reset
  s.MemOk ∧ s.IdsOk ∧ (∀ k : Nat, Memory.get s.mem k = 0) ∧ s.phase = 0 ∧ s.bootErr = 0 ∧ s.launches = [] ∧ s.flights = [] ∧ s.regions = [] ∧
  s.stamps = [] ∧ s.entries = [] ∧ s.poison = [] ∧ s.marks = [] ∧ s.units = [] ∧ s.echoes = [] ∧ s.gathering = [] ∧ s.groups = [] ∧ s.links = [] ∧
  s.drops = {} ∧ s.corr = 0 ∧ s.idGone = false ∧ s.alarms = 0 ∧ s.cmap = 0 ∧ s.ret0 = 0 ∧ s.ret1 = 0 ∧ s.retired = [] ∧ s.parity = [] ∧
  s.passDue = false ∧ s.attesting = none ∧ s.syncclk = 0 ∧ s.cache = [] ∧ s.watch = [] ∧ s.migrations = [] ∧ s.claims = [] ∧ s.agenda = [] ∧ s.now = 0 ∧
  s.cores.map (·.num) = List.range 160 ∧
  ∀ k ∈ s.cores,
    k.cycles s.now = 0 ∧ k.ticks s.now = 0 ∧ k.tphase = 0 ∧ k.gphase = 0 ∧ k.gen = 0 ∧ k.lastrel = 0 ∧ k.lastacq = 0 ∧ k.unpublished = false ∧
    k.mvthr = 32 ∧ k.mlate = 0 ∧ k.isat = false ∧ k.slipmax = 256 ∧ k.ldcnt = 0 ∧ k.wdc = 0x01000000 ∧ k.wda = 0x01000000 ∧
    k.wdx = 0x01000000 ∧ (∀ q : LqNum, (k.loadQueue q).seqWord = 0) ∧ k.sq.seqWord = 0 ∧ k.vq.seqWord = 0 ∧ k.bqa.seqWord = 0 ∧
    k.bqx.seqWord = 0 ∧ k.fq.seqWord = 0 ∧ k.kcnt = 0 ∧ k.tape.word = 0 ∧ k.tvec = 0xC000 ∧ k.tscr0 = 0 ∧ k.tscr1 = 0 ∧ k.banks = [] ∧
    k.halted = false ∧ k.pending = none ∧ k.handles = [] ∧ k.ltt = [] ∧ k.reports = [] ∧ k.matrix = [] ∧ k.member = none ∧
    k.imemC = [] ∧ k.imemA = [] ∧ k.imemX = [] ∧
    (∀ r : Nat, k.sregs.toList.getD r 0 = 0 ∧ k.aregs.toList.getD r 0 = 0 ∧ k.xregs.toList.getD r 0 = 0 ∧ k.p.toList.getD r 0 = 0) ∧
    ∀ st, (k.stream st).status = .notStarted ∧ (k.stream st).loops = [] ∧ (k.stream st).waited = false ∧ (k.stream st).pc = 0

/-- The memory keeps its canonical form (addresses rising, no entry equal to what an unlisted address reads as, log 5)
in every step, whatever the instruction, the event or the input. -/
def Obligations.MemoryKept : Prop :=
  ∀ s t : State, s.MemOk → step s = .next t → t.MemOk

/-- In every step the operations in flight keep numbers of their own, below the next one to be given out: no two
operations ever share a number that a fence, a report or an answer goes by (the numbers are the model's, log 2). -/
def Obligations.OperationNumbers : Prop :=
  ∀ s t : State, s.IdsOk → step s = .next t → t.IdsOk

/-- The results of the C-stream's arithmetic, set, bit-count and immediate instructions. -/
def Obligations.CArithmeticResults : Prop :=
  -- R92, R93: the CR-format arithmetic, set and bit-count instructions. Each retires with its result in sD.
  (∀ (y : BitVec 4) (d a b : Reg) (s : State), syncReady .C y s = true →
     let u := synced .C y s
     let x := s.rs a
     let z := s.rs b
     let n := z.toNat % 64
     let gives := fun (i : Instr) (v : Word) => exec i s = .next (retireAt .C y (u.ws d v))
     gives (.cAdd y d a b) (x + z) ∧ gives (.cSub y d a b) (x - z) ∧
     gives (.cAnd y d a b) (x &&& z) ∧ gives (.cOr y d a b) (x ||| z) ∧ gives (.cXor y d a b) (x ^^^ z) ∧
     gives (.cShl y d a b) (x <<< n) ∧ gives (.cShr y d a b) (x >>> n) ∧ gives (.cSra y d a b) (x.sshiftRight n) ∧
     gives (.cMul y d a b) (x * z) ∧
     gives (.cMulh y d a b) (BitVec.ofInt 64 (x.toInt * z.toInt / 2 ^ 64)) ∧
     gives (.cMulhu y d a b) (BitVec.ofNat 64 (x.toNat * z.toNat / 2 ^ 64)) ∧
     gives (.cDiv y d a b) (if z = 0 then BitVec.allOnes 64 else BitVec.ofInt 64 (x.toInt.tdiv z.toInt)) ∧
     gives (.cRem y d a b) (if z = 0 then x else BitVec.ofInt 64 (x.toInt.tmod z.toInt)) ∧
     gives (.cMin y d a b) (if x.toInt ≤ z.toInt then x else z) ∧ gives (.cMax y d a b) (if x.toInt ≤ z.toInt then z else x) ∧
     gives (.cSeq y d a b) (if x = z then 1 else 0) ∧ gives (.cSne y d a b) (if x = z then 0 else 1) ∧
     gives (.cSlt y d a b) (if x.toInt < z.toInt then 1 else 0) ∧ gives (.cSltu y d a b) (if x.toNat < z.toNat then 1 else 0) ∧
     gives (.cSle y d a b) (if x.toInt ≤ z.toInt then 1 else 0) ∧ gives (.cSleu y d a b) (if x.toNat ≤ z.toNat then 1 else 0) ∧
     gives (.cClz y d a) (if x = 0 then 64 else BitVec.ofNat 64 (63 - x.toNat.log2)) ∧
     gives (.cPopc y d a) (BitVec.ofNat 64 ((List.range 64).countP (fun i => x.getLsbD i)))) ∧
  -- R94, R71: the immediate forms, LI and LUI.
  (∀ (y : BitVec 4) (d a : Reg) (i : BitVec 11) (n : BitVec 6) (j : BitVec 16) (s : State), syncReady .C y s = true →
     let u := synced .C y s
     let x := s.rs a
     let m := i.signExtend 64
     let gives := fun (i : Instr) (v : Word) => exec i s = .next (retireAt .C y (u.ws d v))
     gives (.cAddi y d a i) (x + m) ∧ gives (.cAndi y d a i) (x &&& m) ∧ gives (.cOri y d a i) (x ||| m) ∧
     gives (.cXori y d a i) (x ^^^ m) ∧ gives (.cShli y d a n) (x <<< n.toNat) ∧ gives (.cShri y d a n) (x >>> n.toNat) ∧
     gives (.cSrai y d a n) (x.sshiftRight n.toNat) ∧ gives (.cLi y d j) (j.signExtend 64) ∧
     gives (.cLui y d j) (s.rs d <<< 16 ||| j.setWidth 64))

/-- Where the C-stream's branches go, and LOOP of the three streams. -/
def Obligations.CBranchesAndLoops : Prop :=
  -- R95, R17: where each branch of the C-stream goes, what CALL writes, and that a target out of place raises ILLEGAL
  -- at the branch with nothing written.
  (∀ (y : BitVec 4) (d a b : Reg) (o : BitVec 11) (w : BitVec 16) (s : State), syncReady .C y s = true →
     let u := synced .C y s
     let pc := s.core.c.pc
     let x := s.rs a
     let z := s.rs b
     let near := pc + 4 * o.signExtend 64
     let far := pc + 4 * w.signExtend 64
     let when := fun (i : Instr) (c : Prop) [Decidable c] =>
       exec i s = .next (if c then transferTo .C y u u near else retireAt .C y u)
     exec (.cB y w) s = .next (transferTo .C y u u far) ∧
     when (.cBeq y a b o) (x = z) ∧ when (.cBne y a b o) (x ≠ z) ∧
     when (.cBlt y a b o) (x.toInt < z.toInt) ∧ when (.cBge y a b o) (z.toInt ≤ x.toInt) ∧
     when (.cBltu y a b o) (x.toNat < z.toNat) ∧ when (.cBgeu y a b o) (z.toNat ≤ x.toNat) ∧
     exec (.cCall y d w) s = .next (transferTo .C y u (u.ws d (pc + 4)) far) ∧
     exec (.cRet y a) s = .next (transferTo .C y u u x)) ∧
  -- R55, R96, R132, R173: LOOP of the three streams, by its five cases in order; on the A-stream once its register is
  -- free (R129).
  (∀ (y : BitVec 4) (a : Reg) (e : BitVec 16) (f : BitVec 32) (s : State),
     let does := fun (st : StreamId) (i : Instr) (words : Nat) (count : Word) => syncReady st y s = true →
       let u := synced st y s
       let v := s.stream st
       let stop := v.pc.toNat + wordSize st * words
       let beyond := ∃ l ∈ v.loops.head?, l.stop.toNat < stop
       (imemBytes st ≤ stop → exec i s = .next (raiseTrap st u (illegal st u))) ∧
       (stop < imemBytes st → beyond → exec i s = .next (raiseTrap st u (illegalSequence st u))) ∧
       (stop < imemBytes st → ¬beyond → count = 0 →
         let r := loopStep (BitVec.ofNat 64 stop) (BitVec.ofNat 64 (stop + s.core.lengthAt st stop)) v.loops
         exec i s = .next (moveTo st y u r.1 r.2)) ∧
       (stop < imemBytes st → ¬beyond → count ≠ 0 → v.loops.length = 4 →
         exec i s = .next (raiseTrap st u (illegalSequence st u))) ∧
       (stop < imemBytes st → ¬beyond → count ≠ 0 → v.loops.length ≠ 4 →
         exec i s = .next (moveTo st y u (nextPc st s) (⟨nextPc st s, BitVec.ofNat 64 stop, count⟩ :: v.loops)))
     does .C (.cLoop y a e) e.toNat (s.rs a) ∧ (RegsFree s [a.val] → does .A (.aLoop y a e) e.toNat (s.ra a)) ∧
     does .X (.xLoop y a f) f.toNat (s.rx a))

/-- Control registers: the map and what each reads, the checks of an access, the values they take, the watchdog
bounds. -/
def Obligations.ControlRegisters : Prop :=
  -- R97, R98: the checks of a control-register access in their order, and the effects of CSRR, CSRW, CSRS and CSRC. A
  -- trap names the register in taux1 (R287) and leaves every register unchanged. The model's choices: the checks come
  -- after the tokens (log 213), and a bit above the one of a W1C register that a mask sets raises ILLEGAL, as a
  -- reserved bit that is written with 1 (log 111).
  (∀ (y : BitVec 4) (d a : Reg) (n : BitVec 11) (s : State), syncReady .C y s = true →
     let u := synced .C y s
     let k := n.toNat
     let x := s.rs a
     let writes : List (Instr × Word) := [(.cCsrw y a n, x), (.cCsrs y a n, u.csr k ||| x), (.cCsrc y a n, u.csr k &&& ~~~x)]
     let raises := fun (i : Instr) (c : Cause) => exec i s = .next (raiseTrap .C u { wordTrap .C u c with aux1 := BitVec.ofNat 64 k })
     (csrClass k = none → raises (.cCsrr y d n) .illegal ∧ ∀ w ∈ writes, raises w.1 .illegal) ∧
     (csrClass k = some .sv → s.core.sup = false → raises (.cCsrr y d n) .priv ∧ ∀ w ∈ writes, raises w.1 .priv) ∧
     (csrClass k ≠ none → (csrClass k = some .sv → s.core.sup = true) →
       exec (.cCsrr y d n) s = .next (retireAt .C y (u.ws d (u.csr k)))) ∧
     (csrClass k = some .ro → ∀ w ∈ writes, raises w.1 .illegal) ∧
     (csrClass k = some .w1c → raises (.cCsrs y a n) .illegal ∧ raises (.cCsrc y a n) .illegal ∧
       (x.toNat < 2 → exec (.cCsrw y a n) s =
         .next (retireAt .C y (u.setCore { u.core with isat := s.core.isat && !x.getLsbD 0 }))) ∧
       (2 ≤ x.toNat → raises (.cCsrw y a n) .illegal)) ∧
     (csrClass k = some .rw ∨ (csrClass k = some .sv ∧ s.core.sup = true) → ∀ w ∈ writes,
       (writeCsr u.core k w.2 = none → raises w.1 .illegal) ∧
       (∀ c, writeCsr u.core k w.2 = some c → exec w.1 s = .next (retireAt .C y (u.setCore c))))) ∧
  -- R99: the class of every number of the control-register map, and what each register of it shows: fields of cstat,
  -- coreid and kcnt (R100), the queues' sequence words (R23), dphase (R43), tapest (R333), the trap banks (R286), and
  -- the core's other registers.
  ((∀ n : Nat, csrClass n =
     if n ∈ [0, 1, 2, 4, 5, 6, 8, 9, 0xA, 0xC, 0xD, 0xE, 0x11] ∨ (0x40 ≤ n ∧ n ≤ 0x47) then some .ro
     else if n ∈ [0x10, 0x20, 0x21, 0x22] then some .rw
     else if n = 0x12 then some .w1c
     else if n ∈ [0x18, 0x19, 0x50, 0x100, 0x101, 0x102] ∨ (0x30 ≤ n ∧ n ≤ 0x39) ∨ (0x110 ≤ n ∧ n ≤ 0x12F) then some .sv
     else none) ∧
   ∀ s : State,
     let k := s.core
     (k.banks.length ≤ 2 → bits (s.csr 0) 0 1 = (if k.banks = [] then 0 else 1) ∧ bits (s.csr 0) 1 2 = k.banks.length ∧
       bits (s.csr 0) 3 1 = (if k.halted then 1 else 0) ∧ bits (s.csr 0) 4 60 = 0) ∧
     (k.num < 160 → bits (s.csr 1) 16 48 = k.num ∧ bits (s.csr 1) 8 8 = k.num / 80 ∧ bits (s.csr 1) 4 4 = k.num / 8 % 10 ∧
       bits (s.csr 1) 0 4 = k.num % 8) ∧
     (s.devid < 2 ^ 14 → s.csr 2 = BitVec.ofNat 64 s.devid) ∧
     s.csr 4 = BitVec.ofNat 64 (k.cycles s.now) ∧ s.csr 5 = BitVec.ofNat 64 (k.cycles s.now / 1024) ∧ s.csr 6 = k.tbudget ∧ s.csr 8 = k.dmem ∧
     bits (s.csr 9) 32 32 = k.tphase.toNat ∧ bits (s.csr 9) 0 32 = k.gphase.toNat ∧ s.csr 0xA = k.gen ∧ s.csr 0xC = s.syncclk ∧
     s.csr 0xD = k.lastrel ∧ s.csr 0xE = k.lastacq ∧ s.csr 0x10 = k.mvthr ∧ s.csr 0x11 = k.mlate ∧ s.csr 0x12 = (if k.isat then 1 else 0) ∧
     s.csr 0x18 = k.slipmax ∧ s.csr 0x19 = k.ldcnt.setWidth 64 ∧ s.csr 0x20 = k.wdc ∧ s.csr 0x21 = k.wda ∧ s.csr 0x22 = k.wdx ∧
     (∀ p ∈ ([(0x30, k.lq[0].head, k.lq[0].items.length), (0x31, k.lq[1].head, k.lq[1].items.length),
         (0x32, k.lq[2].head, k.lq[2].items.length), (0x33, k.lq[3].head, k.lq[3].items.length), (0x34, k.sq.head, k.sq.items.length),
         (0x35, k.vq.head, k.vq.items.length), (0x36, k.bqa.head, k.bqa.items.length), (0x37, k.bqx.head, k.bqx.items.length),
         (0x38, k.fq.head, k.fq.items.length)] : List (Nat × BitVec 32 × Nat)),
       bits (s.csr p.1) 0 32 = p.2.1.toNat ∧ bits (s.csr p.1) 32 32 = (p.2.1.toNat + p.2.2) % 2 ^ 32) ∧
     ((∀ i : Fin 6, k.tokens[i] ≤ 255) → bits (s.csr 0x39) 48 16 = 0 ∧ ∀ i : Fin 6, bits (s.csr 0x39) (8 * i.val) 8 = k.tokens[i]) ∧
     (∀ i : Fin 8, s.csr (0x40 + i.val) = k.sh[i]) ∧
     (k.tape.mode < 4 → k.tape.handle < 2 ^ 10 → k.tape.limit < 2 ^ 25 → k.tape.pos < 2 ^ 25 →
       bits (s.csr 0x50) 62 2 = k.tape.mode ∧ bits (s.csr 0x50) 61 1 = (if k.tape.incomplete then 1 else 0) ∧
       bits (s.csr 0x50) 60 1 = (if k.tape.drop then 1 else 0) ∧ bits (s.csr 0x50) 50 10 = k.tape.handle ∧
       bits (s.csr 0x50) 25 25 = k.tape.limit ∧ bits (s.csr 0x50) 0 25 = k.tape.pos) ∧
     s.csr 0x100 = k.tvec ∧ s.csr 0x101 = k.tscr0 ∧ s.csr 0x102 = k.tscr1 ∧
     ∀ (i : Nat) (b : TrapBank), i < 2 → k.banks[i]? = some b →
       let reg := fun (j : Nat) => s.csr (0x110 + 16 * i + j)
       reg 0 = b.tcause ∧ reg 1 = b.tpcc ∧ reg 2 = b.tpca ∧ reg 3 = b.tpcx ∧ reg 4 = b.taddr ∧ reg 5 = b.thnd ∧ reg 6 = b.tissue ∧ reg 7 = b.taux0 ∧
         reg 8 = b.taux1 ∧ reg 9 = b.taux2) ∧
  -- R99, R100, R31, R34, R37, R333, R286, R293: the values that writable control registers take, and the register
  -- each write changes. In tapest only INC, DROP and LIMIT may change, LIMIT to what R333 allows; in a bank in use
  -- only FAIL, which a cause that is not resumable keeps, and SKIP, which a stream that had stopped with STOP 3 does
  -- not take; a write to a bank not in use is discarded.
  (∀ (k : Core) (x : Word),
     writeCsr k 0x010 x = (if x.toNat < 2 ^ 16 then some { k with mvthr := x } else none) ∧
     writeCsr k 0x018 x = (if 1 ≤ x.toNat ∧ x.toNat ≤ 256 then some { k with slipmax := x } else none) ∧
     writeCsr k 0x019 x = (if x.toNat < 2 ^ 32 then some { k with ldcnt := x.setWidth 32 } else none) ∧
     writeCsr k 0x020 x = (if x.toNat < 2 ^ 32 then some { k with wdc := x } else none) ∧
     writeCsr k 0x021 x = (if x.toNat < 2 ^ 32 then some { k with wda := x } else none) ∧
     writeCsr k 0x022 x = (if x.toNat < 2 ^ 32 then some { k with wdx := x } else none) ∧
     writeCsr k 0x100 x =
       (if x.toNat % 4 = 0 ∧ 0xC000 ≤ x.toNat ∧ x.toNat ≤ 0xFFFC then some { k with tvec := x } else none) ∧
     writeCsr k 0x101 x = some { k with tscr0 := x } ∧ writeCsr k 0x102 x = some { k with tscr1 := x } ∧
     (∀ n, 0x30 ≤ n → n ≤ 0x39 → writeCsr k n x = none) ∧
     (let tape := writeCsr k 0x050 x
       let t := k.tape
       let limit := bits x 25 25
       let stays := ∀ i < 64, i = 60 ∨ i = 61 ∨ (25 ≤ i ∧ i < 50) ∨ x.getLsbD i = t.word.getLsbD i
       let allowed := limit = t.limit ∨ (t.limit ≠ 0 ∧ 2 ≤ limit ∧ 2 + t.pos ≤ limit ∧ tapeCovers k limit = true)
       ((¬stays ∨ limit = 0 ∨ ¬allowed) → tape = none) ∧
       (stays → limit ≠ 0 → allowed → ∃ l, (limit = t.limit → l = t.xlats) ∧
         tape = some { k with tape := { t with incomplete := x.getLsbD 61, drop := x.getLsbD 60, limit := limit, xlats := l } })) ∧
     ∀ i < 2,
       let bank := fun (j : Nat) => writeCsr k (0x110 + 16 * i + j) x
       (∀ j, 10 ≤ j → j < 16 → bank j = none) ∧
       (k.banks[i]? = none → ∀ j < 10, bank j = some k) ∧
       ∀ b, k.banks[i]? = some b →
         let differ := fun (j free : Nat) => ∃ m < 64, m ≠ free ∧ x.getLsbD m ≠ (b.reg j).getLsbD m
         let keeps := bits b.tcause 0 8 = 18 ∨ (bits b.tcause 0 8 = 4 ∧ bits b.tcause 10 2 ≠ 2)
         let becomes := fun (j : Nat) (c : TrapBank) => bank j = some { k with banks := k.banks.set i c }
         (differ 0 8 ∨ (keeps ∧ x.getLsbD 8 = false) → bank 0 = none) ∧
         (¬differ 0 8 → x.getLsbD 8 = true ∨ ¬keeps → becomes 0 { b with tcause := x }) ∧
         (∀ j, 1 ≤ j → j ≤ 3 → differ j 20 ∨ (x.getLsbD 20 = true ∧ bits x 21 3 = 3) → bank j = none) ∧
         (let may := fun (j : Nat) => ¬differ j 20 ∧ (x.getLsbD 20 = false ∨ bits x 21 3 ≠ 3);
           (may 1 → becomes 1 { b with tpcc := x }) ∧ (may 2 → becomes 2 { b with tpca := x }) ∧ (may 3 → becomes 3 { b with tpcx := x })) ∧
         ∀ j, 4 ≤ j → j < 10 → (x ≠ b.reg j → bank j = none) ∧ (x = b.reg j → bank j = some k)) ∧
  -- R112, R134, R193: BOUND writes the watchdog bound of its stream; a value with bits [63:32] nonzero raises
  -- ILLEGAL.
  (∀ (y : BitVec 4) (a : Reg) (s : State),
     (syncReady .C y s = true → let u := synced .C y s
       exec (.cBound y a) s = .next (if (s.rs a).toNat < 2 ^ 32 then retireAt .C y (u.setCore { u.core with wdc := s.rs a })
         else raiseTrap .C u (illegal .C u))) ∧
     (syncReady .A y s = true → RegsFree s [a.val] → let u := synced .A y s
       exec (.aBound y a) s = .next (if (s.ra a).toNat < 2 ^ 32 then retireAt .A y (u.setCore { u.core with wda := s.ra a })
         else raiseTrap .A u (illegal .A u))) ∧
     (syncReady .X y s = true → let u := synced .X y s
       exec (.xBound y a) s = .next (if (s.rx a).toNat < 2 ^ 32 then retireAt .X y (u.setCore { u.core with wdx := s.rx a })
         else raiseTrap .X u (illegal .X u))))

/-- LDW and STW on the core store, and where they trap. -/
def Obligations.CoreStoreAccess : Prop :=
  -- R101: STW stores the eight bytes of sD, little-endian, at offset sA + 8 × SEXT(OFF11) of this core's store; every
  -- other byte of memory reads as before. LDW gives the word that stands there, and of an uncorrectable word raises
  -- ECC_UNCORRECTABLE. The model's choices (log 117): both act at once; while an access of the core that they follow
  -- has not performed, their access is under way, and acts as soon as it has.
  (∀ (y : BitVec 4) (d a : Reg) (o : BitVec 11) (s : State), syncReady .C y s = true →
     let off := (s.rs a + 8 * o.signExtend 64).toNat
     let k := coreKey s.core.num off
     let u := synced .C y s
     s.MemOk → off % 8 = 0 → off + 8 ≤ 1572864 →
     (coreHeld u off 8 = true → ∀ i ∈ ([.cStw y d a o, .cLdw y d a o] : List Instr),
       exec i s = .next (u.setStream .C { u.core.c with held := true })) ∧
     (coreHeld u off 8 = false →
       (∃ t, exec (.cStw y d a o) s = .next (retireAt .C y t) ∧
         (∀ i < 8, Memory.get (retireAt .C y t).mem (k + i) = BitVec.ofNat 8 ((s.rs d).toNat / 256 ^ i)) ∧
         (∀ j, (j < k ∨ k + 8 ≤ j) → Memory.get (retireAt .C y t).mem j = Memory.get s.mem j)) ∧
       (s.poisoned k 8 = false → exec (.cLdw y d a o) s = .next (retireAt .C y (u.ws d (BitVec.ofNat 64 (s.word k 8))))) ∧
       (s.poisoned k 8 = true → exec (.cLdw y d a o) s = .next (raiseTrap .C u { cause := .eccUncorrectable, aux0 := 0 })))) ∧
  -- R101: an offset that is no multiple of 8 raises ILLEGAL; one whose word passes the core store raises
  -- PROGRAM_ADDRESS (that taddr holds the offset is the model's choice, log 117).
  (∀ (y : BitVec 4) (d a : Reg) (o : BitVec 11) (s : State), syncReady .C y s = true →
     let u := synced .C y s
     let off := (s.rs a + 8 * o.signExtend 64).toNat
     ∀ i ∈ ([.cLdw y d a o, .cStw y d a o] : List Instr),
       (off % 8 ≠ 0 → exec i s = .next (raiseTrap .C u (illegal .C u))) ∧
       (off % 8 = 0 → 1572864 < off + 8 →
         ∃ t, t.cause = .programAddress ∧ t.addr = BitVec.ofNat 64 off ∧ exec i s = .next (raiseTrap .C u t)))

/-- R102, R103: FPUSH and FPUSHI push to fq while it holds fewer than 64 entries and wait while it is full; TSHAPE
writes a valid record and raises ILLEGAL for any other. -/
def Obligations.FormatWordsAndShapes : Prop :=
  ∀ (y t : BitVec 4) (a : Reg) (i : BitVec 21) (s : State), syncReady .C y s = true →
    let u := synced .C y s
    let f := fun (x : Word) => u.setCore { u.core with fq := { u.core.fq with items := u.core.fq.items ++ [x] } }
    (s.core.fq.items.length < 64 →
      exec (.cFpush y a) s = .next (retireAt .C y (f (s.rs a))) ∧ exec (.cFpushi y i) s = .next (retireAt .C y (f (i.setWidth 64)))) ∧
    (64 ≤ s.core.fq.items.length →
      exec (.cFpush y a) s = .next (blockOn .C u (.push 8 1)) ∧ exec (.cFpushi y i) s = .next (blockOn .C u (.push 8 1))) ∧
    (exec (.cTshape y t a) s = .next (if (if t.toNat < 8 then tileRecordOk (s.rs a) else accRecordOk (s.rs a)) = true then
        retireAt .C y (u.setCore { u.core with shapes := u.core.shapes.set (Fin.ofNat 12 t.toNat) (s.rs a) })
        else raiseTrap .C u (illegal .C u)))

/-- SEAL and UNSEAL: the reasons that refuse a description, and what they do to the handle table. -/
def Obligations.SealedHandles : Prop :=
  -- R105, R106: SEAL of a description that passes the checks puts the sealed object into the free entry and nothing
  -- else changes; a failing check raises SEAL_FAIL with its reason; an entry that already holds an object is reason
  -- 13. UNSEAL frees its entry, and of a free entry it has no effect. SEAL reads CORE as LDW does (log 117).
  (∀ (y : BitVec 4) (h : Handle) (a : Reg) (s : State), syncReady .C y s = true →
     let u := synced .C y s
     let off := (s.rs a).toNat
     let raw := s.bytes (coreKey s.core.num off) 96
     let fails := fun (n : Nat) => exec (.cSeal y h a) s = .next (raiseTrap .C u (sealTrap h.val n))
     (off % 8 ≠ 0 ∨ 1572864 < off + 96 → exec (.cSeal y h a) s = .next (raiseTrap .C u (illegal .C u))) ∧
     (off % 8 = 0 → off + 96 ≤ 1572864 → coreHeld u off 96 = true →
       exec (.cSeal y h a) s = .next (u.setStream .C { u.core.c with held := true })) ∧
     (off % 8 = 0 → off + 96 ≤ 1572864 → coreHeld u off 96 = false → s.poisoned (coreKey s.core.num off) 96 = true →
       exec (.cSeal y h a) s = .next (raiseTrap .C u { cause := .eccUncorrectable, aux0 := 0 })) ∧
     (off % 8 = 0 → off + 96 ≤ 1572864 → coreHeld u off 96 = false → s.poisoned (coreKey s.core.num off) 96 = false →
       (∀ n, sealReason u u.core.ltt raw = some n → fails n) ∧
       (sealReason u u.core.ltt raw = none → (s.core.handle h.val).isSome = true → fails 13) ∧
       (sealReason u u.core.ltt raw = none → s.core.handle h.val = none →
         exec (.cSeal y h a) s =
           .next (retireAt .C y (u.setCore { u.core with handles := insertEntry h.val (sealed u raw) u.core.handles })))) ∧
     exec (.cUnseal y h) s = .next (retireAt .C y (u.setCore { u.core with handles := eraseEntry h.val u.core.handles }))) ∧
  -- R105, R104: the reason that SEAL gives is the number of the first row of R105's table whose check fails on the 96
  -- bytes; with none failing the object takes the bytes' fields, the CRC-32C of bytes 0x00–0x5B, and the channel map
  -- of the moment (R285). The model's choices (log 121): a PADSZ above 9 is reason 10, a reserved bit [7:4] of a
  -- transform step is reason 1, and a bit of its ARG that its kind leaves unused is reason 10.
  (∀ (s : State) (ltt : List (Nat × Xlat)) (raw : List Byte),
     let f := fieldAt raw
     let space := f 8 1
     let rank := f 9 1
     let ty : ElemCode := BitVec.ofNat 6 (f 10 1)
     let dim := fun (k : Nat) => f (16 + 4 * k) 4
     let stride := fun (k : Nat) => f (40 + 6 * k) 6
     let step := fun (j : Nat) => f (76 + 3 * j) 3
     let last := ((List.range rank).map (fun k => (dim k - 1) * stride k)).sum
     let size := if ty = 7 then last / 8 + 1 else (last + 1) * elemBytes ty
     let packs := ∃ j < 4, step j % 16 = 1 ∨ step j % 16 = 2
     let malformed := fun (x : Nat) =>
       let a := x / 256
       (x % 16 = 0 ∧ a ≠ 0) ∨ (x % 16 = 1 ∧ (a ≠ 0 ∨ space ≠ 1)) ∨ (x % 16 = 2 ∧ (a ≠ 0 ∨ space ≠ 0)) ∨
       (x % 16 = 3 ∧ ¬(a % 8 < rank ∧ a / 8 % 8 < rank ∧ a % 8 ≠ a / 8 % 8 ∧ a < 64)) ∨
       (x % 16 = 4 ∧ (shapeType (BitVec.ofNat 6 a) = false ∨ a % 64 = 7 ∨ polOk (BitVec.ofNat 6 a) (BitVec.ofNat 2 (a / 64)) = false ∨ 1024 ≤ a)) ∨
       (x % 16 = 5 ∧ a < dim (rank - 1)) ∨ 6 ≤ x % 16
     let fails := fun (n : Nat) =>
       (n = 1 ∧ (4 ≤ f 11 1 ∨ f 90 2 ≠ 0 ∨ f 92 4 ≠ 0 ∨ (f 11 1 < 2 ∧ f 14 2 ≠ 0) ∨ ∃ j < 4, step j / 16 % 16 ≠ 0)) ∨
       (n = 2 ∧ 7 ≤ space) ∨
       (n = 3 ∧ (rank < 1 ∨ 6 < rank ∨ (∃ k < rank, dim k = 0 ∨ 2 ^ 31 < dim k) ∨ ∃ k < 6, rank ≤ k ∧ (dim k ≠ 0 ∨ stride k ≠ 0))) ∨
       (n = 4 ∧ (64 ≤ f 10 1 ∨ f 10 1 = 6 ∨ (8 ≤ f 10 1 ∧ isBinary8 ty = false))) ∨
       (n = 5 ∧ (f 0 8 % elemBytes ty ≠ 0 ∨ (ty = 7 ∧ ∃ k, k + 1 < rank ∧ stride k % 8 ≠ 0))) ∨
       (n = 6 ∧ ((space ≠ 4 ∧ f 12 2 ≠ 0) ∨ 2 ^ 14 ≤ f 12 2)) ∨
       (n = 7 ∧ 2 ≤ f 11 1 ∧ space ≠ 4 ∧ (space < 2 ∨ 3 < space ∨ s.region? (f 14 2) = none ∨ ∃ g, s.region? (f 14 2) = some g ∧
         (g.ty ≠ ty ∨ f 0 8 < g.base ∨ g.base + g.size < f 0 8 + size))) ∨
       (n = 8 ∧ ((f 11 1 % 2 = 1 ∧ space ≠ 2) ∨ (f 88 1 ≠ 0 ∧ space ≠ 0))) ∨ (n = 9 ∧ 47 < f 88 1) ∨
       (n = 10 ∧ ((∃ j < 4, malformed (step j)) ∨ (∃ i < 4, ∃ j < 4, i < j ∧ step i = 0 ∧ step j ≠ 0) ∨ (f 89 1 ≠ 0 ↔ ¬packs) ∨ 9 < f 89 1)) ∨
       (n = 11 ∧ space ≠ 4 ∧ ∃ p ∈ piecesOf ltt (f 0 8) size, ∀ e, p.entry = some e → e.2.space ≠ space) ∨
       (n = 12 ∧ space = 0 ∧ 1572864 < f 0 8 + size)
     (∀ n, sealReason s ltt raw = some n → fails n ∧ ∀ m < n, ¬fails m) ∧
     (sealReason s ltt raw = none → (∀ m, ¬fails m) ∧
       let o := sealed s raw
       o.base = f 0 8 ∧ o.space = space ∧ o.rank = rank ∧ o.ty = ty ∧ o.exact = decide (f 11 1 % 2 = 1) ∧ o.hasReg = decide (2 ≤ f 11 1) ∧
         o.dev = f 12 2 ∧ o.region = f 14 2 ∧ o.dims = (List.range 6).map dim ∧ o.strides = (List.range 6).map stride ∧
         o.xforms = (List.range 4).map step ∧ o.perm = f 88 1 ∧ o.padsz = f 89 1 ∧ o.chanMap = s.cmap ∧
         (raw.length = 96 → o.sealchk = crc32c (raw.take 92)))) ∧
  -- R106, R107: what SEAL and UNSEAL do to the handle table: the entry of their own handle, and no other.
  (∀ (k : Core) (h g : Nat) (o : Shape),
     { k with handles := insertEntry h o k.handles }.handle g = (if g = h then some o else k.handle g) ∧
     { k with handles := eraseEntry h k.handles }.handle g = (if g = h then none else k.handle g))

/-- The C-stream's FENCE, what each scope covers, TSIG, TWAIT, GENF and WFE. -/
def Obligations.CSynchronisation : Prop :=
  -- R109, R232: FENCE with nothing outstanding that it waits for. A release advances the sync clock and copies it to
  -- lastrel; an acquire copies it to lastacq; `.sc` does both. With such operations in flight it waits for exactly
  -- those.
  (∀ (y : BitVec 4) (o sc : BitVec 2) (s : State), syncReady .C y s = true → s.core.c.awaited = none →
     let u := synced .C y s
     (fenceOps u o sc = [] →
       ∃ t, exec (.cFence y o sc) s = .next (retireAt .C y t) ∧ SameMemory s t ∧
         t.syncclk = (if o.getLsbD 1 then s.syncclk + 1 else s.syncclk) ∧
         t.core.lastrel = (if o.getLsbD 1 then s.syncclk + 1 else s.core.lastrel) ∧
         t.core.lastacq = (if o.getLsbD 0 then t.syncclk else s.core.lastacq)) ∧
     (fenceOps u o sc ≠ [] →
       exec (.cFence y o sc) s = .next (blockOn .C (u.setStream .C { u.core.c with awaited := some (fenceOps u o sc) })
         (.commits 0x54 (fenceOps u o sc))))) ∧
  -- R229, R231, R226, R130: which operations of the core a fence waits for, and which an access must follow. A scope
  -- covers an operation by the spaces that it accesses; a release covers each, an acquire still in flight holds back
  -- the accesses that it covers, `.sc` operations wider than `.core` follow each other, and what a release waits for
  -- comes before later accesses: engine operations before all, the A-stream's own accesses before those of engines.
  -- The model's choice: what was issued before counts as earlier in core order (log 117, 131).
  ((∀ p < 7, (covers 0 [p] = true ↔ p = 0) ∧ (covers 1 [p] = true ↔ p ≠ 4 ∧ p ≠ 5) ∧ (covers 2 [p] = true ↔ p ≠ 4) ∧ covers 3 [p] = true) ∧
   (∀ (sc : BitVec 2) (l : List Nat), sc ≠ 3 → (covers sc l = true ↔ ∃ p ∈ l, covers sc [p] = true)) ∧
   ∀ (s : State) (f : Flight) (o sc : BitVec 2) (l : List Nat), f ∈ s.flights → f.core = s.core.num →
     (o.getLsbD 1 = true → covers sc f.spaces = true → f.id ∈ fenceOps s o sc) ∧
     (o.getLsbD 1 = true → covers sc f.spaces = true → f.id ∈ orderAfter s o sc l) ∧
     (f.ord.getLsbD 0 = true → covers f.sco l = true → f.id ∈ orderAfter s o sc l) ∧
     (o = 3 → sc ≠ 0 → f.ord = 3 → f.sco ≠ 0 → f.id ∈ fenceOps s o sc ∧ f.id ∈ orderAfter s o sc l) ∧
     (f.job.direct = false → (∃ r ∈ s.flights, r.core = s.core.num ∧ r.ord.getLsbD 1 = true ∧ f.id ∈ r.after) → f.id ∈ orderAfter s o sc l) ∧
     ((∃ r ∈ s.flights, r.core = s.core.num ∧ r.ord.getLsbD 1 = true ∧ f.id ∈ r.after) → f.id ∈ engineAfter s o sc l) ∧
     (f.id ∈ orderAfter s o sc l → f.id ∈ engineAfter s o sc l) ∧
     (s.IdsOk → o.getLsbD 1 = false → o ≠ 3 → f.ord = 0 → (∀ r ∈ s.flights, r.ord.getLsbD 1 = false) →
       f.id ∉ fenceOps s o sc ∧ f.id ∉ orderAfter s o sc l ∧ f.id ∉ engineAfter s o sc l)) ∧
  -- R111: TSIG gives its tokens when they, with a signal of its word to the same counter, keep it at or below 255,
  -- and waits otherwise; TWAIT takes its tokens when they are there, and waits otherwise.
  (∀ (y : BitVec 4) (side : Bool) (n : BitVec 8) (s : State), syncReady .C y s = true →
     let u := synced .C y s
     let m : StreamId := if side then .X else .A
     let also := if (if side then y.getLsbD 0 else y.getLsbD 1) then 1 else 0
     exec (.cTsig y side n) s = .next (if u.core.tokensOf .C m + n.toNat + also ≤ 255 then
       retireAt .C y (u.setCore (u.core.addTokens .C m n.toNat))
       else blockOn .C u (.room [((counter .C m).val, n.toNat + also)])) ∧
     exec (.cTwait y side n) s = .next (if n.toNat ≤ u.core.tokensOf m .C then
       retireAt .C y (u.setCore (u.core.takeTokens m .C n.toNat))
       else blockOn .C u (.take (counter m .C).val n.toNat))) ∧
  -- R113, R114: GENF adds 1 to gen and retires, unless a soft pre-emption of the team is pending, when it waits. WFE
  -- retires at once when a token, a delivered trap or a soft pre-emption is there, taking no token, and waits
  -- otherwise.
  (∀ (y : BitVec 4) (s : State), syncReady .C y s = true →
     let u := synced .C y s
     exec (.cGenf y) s = .next (if s.core.softPending then blockOn .C u .genf
       else retireAt .C y (u.setCore { u.core with gen := s.core.gen + 1 })) ∧
     exec (.cWfe y) s = .next (if s.core.c.woken ∨ 0 < u.core.tokensOf .A .C ∨ 0 < u.core.tokensOf .X .C ∨ s.core.softPending then
       retireAt .C y u else blockOn .C u .wfe))

/-- R42, R108: DBAR raises ILLEGAL_SEQUENCE in supervisor mode. In user mode it waits for what its release waits for;
with nothing of that in flight it makes a release, arrives once and waits; when BARRIER_COMPLETE has ended the wait,
it retires. The model's choice: the scope of its release is `.dev` (log 131). -/
def Obligations.BarrierArrival : Prop :=
  ∀ (y : BitVec 4) (l : BitVec 2) (s : State), syncReady .C y s = true →
    let u := synced .C y s
    let w : Wait := .dbar l.toNat ((if l = 0 then s.core.gphase else s.core.tphase) + 1).toNat
    (s.core.sup = true → exec (.cDbar y l) s = .next (raiseTrap .C u (illegalSequence .C u))) ∧
    (s.core.sup = false → s.core.c.woken = true → exec (.cDbar y l) s = .next (retireAt .C y u)) ∧
    (s.core.sup = false → s.core.c.woken = false → s.core.c.awaited = none → s.arrived s.core.num = false → coveredOps u 2 ≠ [] →
      exec (.cDbar y l) s = .next (blockOn .C (u.setStream .C { u.core.c with awaited := some (coveredOps u 2) }) w)) ∧
    (s.core.sup = false → s.core.c.woken = false → s.core.c.awaited = none → s.arrived s.core.num = false → coveredOps u 2 = [] →
      ∃ t, exec (.cDbar y l) s = .next (blockOn .C t w) ∧ t.syncclk = s.syncclk + 1 ∧ t.core.lastrel = s.syncclk + 1 ∧
        t.arrivals = s.arrivals ++ [⟨s.core.num, l.toNat, s.now⟩] ∧ SameMemory s t)

/-- FLUSH and TAPEC. -/
def Obligations.FlushAndTapeBinding : Prop :=
  -- R110: FLUSH through a sealed handle. CORE and REMOTE raise ILLEGAL; a range of no bytes, and HOST, HWIN and
  -- GROVE, have no effect; a range that passes the footprint raises PROGRAM_ADDRESS; else, once the core's writes
  -- have committed, a snoop goes out for every line of the range, and the instruction retires when they have been
  -- answered. The model's choices: CORE and REMOTE raise ILLEGAL for a range of no bytes too, the snoops go out in
  -- ascending order, after the core's own writes (log 139).
  (∀ (y : BitVec 4) (h : Handle) (a b : Reg) (s : State) (o : Shape), syncReady .C y s = true →
     let u := synced .C y s
     let off := (s.rs a).toNat
     let n := (s.rs b).toNat
     useHandle u.core h.val = .ok o →
     (o.space = 0 ∨ o.space = 4 → exec (.cFlush y h a b) s = .next (raiseTrap .C u (illegal .C u))) ∧
     (o.space ≠ 0 → o.space ≠ 4 → n = 0 ∨ (o.space ≠ 2 ∧ o.space ≠ 3) → exec (.cFlush y h a b) s = .next (retireAt .C y u)) ∧
     (o.space = 2 ∨ o.space = 3 → 0 < n →
       (o.footprint < off + n → ∃ t, t.cause = .programAddress ∧ exec (.cFlush y h a b) s = .next (raiseTrap .C u t)) ∧
       (off + n ≤ o.footprint → s.core.c.awaited = none → ownWrites u = [] → s.core.c.woken = false →
         ∃ t, exec (.cFlush y h a b) s = .next (blockOn .C t (.commits 0x55 [s.nextId])) ∧ SameMemory s t ∧
           t.outputs = s.outputs ++
             (linesOf u.core.num (piecesOf u.core.ltt (o.base + off) n)).map (fun p => Output.backInvalidate p.1 p.2)) ∧
       (off + n ≤ o.footprint → s.core.c.woken = true → s.core.c.awaited = some [] →
         exec (.cFlush y h a b) s = .next (retireAt .C y u)))) ∧
  -- R116, R332, R333: TAPEC. While recording is on it raises ILLEGAL_SEQUENCE; a limit of 0 unbinds the tape; a limit
  -- or a space that R116 refuses raises ILLEGAL (which limits is in part the model's choice, log 113), and a byte
  -- that no translation fit for a tape holds the cause of its check; else it binds the tape at position 0 with INC
  -- and DROP clear, and writes the header.
  (∀ (y : BitVec 4) (h : Handle) (a : Reg) (s : State) (o : Shape), syncReady .C y s = true →
     let u := synced .C y s
     let n := (s.rs a).toNat
     (s.core.tape.mode = 1 → exec (.cTapec y h a) s = .next (raiseTrap .C u (illegalSequence .C u))) ∧
     (s.core.tape.mode ≠ 1 → useHandle u.core h.val = .ok o →
       (n = 0 → exec (.cTapec y h a) s = .next (retireAt .C y (u.setCore { u.core with tape := { handle := h.val } }))) ∧
       (n ≠ 0 → n % 8 ≠ 0 ∨ n < 16 ∨ 2 ^ 28 ≤ n ∨ o.footprint < n ∨ o.space ≠ 2 → exec (.cTapec y h a) s = .next (raiseTrap .C u (illegal .C u))) ∧
       (16 ≤ n → n % 8 = 0 → n < 2 ^ 28 → n ≤ o.footprint → o.space = 2 →
         (∀ t, tapeFault o h.val (piecesOf u.core.ltt o.base n) = some t → exec (.cTapec y h a) s = .next (raiseTrap .C u t)) ∧
         (tapeFault o h.val (piecesOf u.core.ltt o.base n) = none →
         ∀ tp : Tape, tp.mode = 0 → tp.incomplete = false → tp.drop = false → tp.pos = 0 → tp.dropped = 0 →
             tp.handle = h.val → tp.limit = n / 8 → tp.obj = some o →
             tp.xlats = (piecesOf u.core.ltt o.base n).filterMap (fun p => p.entry.map (·.2)) →
           ∀ t, tapeWrite (u.setTape tp) .C 0 (tapeHeader tp) = .ok t → exec (.cTapec y h a) s = .next (retireAt .C y t)))))

/-- R115, R310, R319: MIGRATE through a sealed handle, by the checks of R115 and the rows of R310's table: an entry
that is pinned, read-duplicated or without ALTV raises PERMISSION, and so does one of whose page another valid entry
is (the model's choice, log 234); a present page in the tier asked for stays; an accepted entry takes the STATE of its
row in every table of the core, and its page begins its course; an absent page that is to leave its tier exchanges its
places at once. One already on its way there takes the deadline as well, and each request is judged (log 239). -/
def Obligations.MigrateRequests : Prop :=
  ∀ (y : BitVec 4) (h : Handle) (a b : Reg) (far : Bool) (s : State) (o : Shape), syncReady .C y s = true →
    let u := synced .C y s
    let va := (BitVec.ofNat 64 o.base + s.rs a).toNat
    let tier := if far then 3 else 2
    let raises := fun (c : Cause) => ∃ t, t.cause = c ∧ exec (.cMigrate y h a b far) s = .next (raiseTrap .C u t)
    useHandle u.core h.val = .ok o →
    (o.space ≠ 2 → o.space ≠ 3 → raises .illegal) ∧
    (o.space = 2 ∨ o.space = 3 →
      (lookup u.core.ltt va = none → raises .programAddress) ∧
      ∀ i e, lookup u.core.ltt va = some (i, e) →
        let fixed := ∃ x ∈ e :: pageEntries u e, x.pin = true ∨ x.rdup = true ∨ x.altv = false
        (e.pin = true ∨ e.rdup = true ∨ e.altv = false → raises .permission) ∧ (fixed → raises .permission) ∧
        (¬fixed → migrationOf u e = none →
          let becomes := fun (t : State) (f : Xlat → Xlat) =>
            t.core.ltt = s.core.ltt.map (fun q => if q.2.isPage e.space e.phys e.size then (q.1, f q.2) else q)
          (e.state = .present → e.space = tier → exec (.cMigrate y h a b far) s = .next (retireAt .C y u)) ∧
          (e.state = .present → e.space ≠ tier → ∃ t, exec (.cMigrate y h a b far) s = .next (retireAt .C y t) ∧
            becomes t (fun x => { x with state := .migratingOut }) ∧
            t.migrations = s.migrations ++ [⟨s.nextId, e.space, e.phys, e.alt, e.size, true, true, [(s.core.num, s.rs b)], []⟩]) ∧
          (e.state = .absent → e.space = tier → ∃ t, exec (.cMigrate y h a b far) s = .next (retireAt .C y t) ∧
            becomes t (fun x => { x with state := .migratingIn }) ∧
            t.migrations = s.migrations ++ [⟨s.nextId, 5 - e.space, e.alt, e.phys, e.size, false, false, [(s.core.num, s.rs b)], []⟩]) ∧
          (e.state = .absent → e.space ≠ tier → ∃ t, exec (.cMigrate y h a b far) s = .next (retireAt .C y t) ∧
            becomes t (fun x => { x with space := 5 - x.space, phys := x.alt, alt := x.phys, state := .present }) ∧ t.migrations = s.migrations)) ∧
        (¬fixed → ∀ m, migrationOf u e = some m →
          (5 - m.space ≠ tier → raises .illegalSequence) ∧
          (5 - m.space = tier → exec (.cMigrate y h a b far) s = .next (retireAt .C y { u with
            migrations := s.migrations.map (fun x => if x.id = m.id then
              { x with requests := x.requests ++ [(s.core.num, s.rs b)] } else x) }))))

/-- TRAP, HALT and the return from a trap, with SKIP and FAIL. -/
def Obligations.TrapHaltAndReturn : Prop :=
  -- R117: TRAP, with room for its signals, retires, gives them and raises the cause TRAP with its code: the trap is
  -- recorded with the C-stream as its origin, standing where the retirement puts it. The model's choices: room is
  -- waited for first (log 12), and a TRAP at the end of a loop performs that loop's step (log 212).
  (∀ (y : BitVec 4) (code : BitVec 16) (s : State), syncReady .C y s = true →
     let u := synced .C y s
     u.core.signalRoom .C (y.setWidth 2) = true → s.core.pending = none → s.core.c.psig = 0 →
       ∃ t, exec (.cTrap y code) s = .next t ∧ t.core.pending = some ⟨.C, s.now, { cause := .trap, code := code }⟩ ∧
         t.core.c.status = .stopped 1 ∧ t.core.c.pc = (retireAt .C y u).core.c.pc ∧
         t.core.tokens = (u.core.giveSync .C (y.setWidth 2)).tokens ∧ t.core.sregs = s.core.sregs ∧ t.mem = s.mem) ∧
  -- R12, R119: HALT in user mode, with room for its signals (waited for first by the model's choice, log 12), ends
  -- the C-stream and sets HALTED; in supervisor mode it raises ILLEGAL_SEQUENCE.
  (∀ (y : BitVec 4) (s : State), syncReady .C y s = true →
     let u := synced .C y s
     (s.core.sup = true → exec (.cHalt y) s = .next (raiseTrap .C u (illegalSequence .C u))) ∧
     (s.core.sup = false → u.core.signalRoom .C (y.setWidth 2) = true →
       ∃ t, exec (.cHalt y) s = .next t ∧ t.core.c.status = .ended ∧ t.core.halted = true ∧ t.mem = s.mem)) ∧
  -- R118, R286, R293, R59: RTT in supervisor mode, from a bank whose FAIL is clear, frees the highest bank in use.
  -- From bank 1 the C-stream goes on in the handler; from bank 0 user mode returns, and each stream stands again at
  -- its saved pc with its saved loops, WAITED and owed signals, or, with SKIP set, where the retirement of the
  -- instruction there puts it. That a WFE whose wait the delivery ended retires when it starts again is the model's
  -- choice (log 116).
  (∀ (y : BitVec 4) (s : State) (b : TrapBank), syncReady .C y s = true →
     let u := synced .C y s
     let stands := fun (t : State) (st : StreamId) (w : Word) (loops : List LoopEntry) (bx : Option BxPending) =>
       let v := t.stream st
       let pc := BitVec.ofNat 64 (bits w 0 17)
       let r := loopStep pc (pc + BitVec.ofNat 64 (s.core.lengthAt st pc.toNat)) loops
       v.psig = BitVec.ofNat 2 (bits w 24 2) ∧
       (bits w 18 1 = 1 → v.status = .ended ∧ v.pc = pc) ∧
       (bits w 18 1 = 0 → v.status = if bits w 24 2 = 0 then .running else .waiting (.room (signalWant st (BitVec.ofNat 2 (bits w 24 2)))) s.now) ∧
       (w.getLsbD 20 = false → v.pc = pc ∧ v.loops = loops ∧ v.bx = bx ∧ v.waited = decide (bits w 17 1 = 1)) ∧
       (w.getLsbD 20 = true → bits w 18 1 = 0 → v.waited = false ∧
         (bx = none → v.pc = r.1 ∧ v.loops = r.2 ∧ v.bx = none) ∧
         ∀ q, bx = some q → (2 ≤ q.slots → v.pc = r.1 ∧ v.loops = r.2 ∧ v.bx = some { q with slots := q.slots - 1 }) ∧
           (q.slots ≤ 1 → v.bx = none ∧ (q.taken = true → v.pc = q.target) ∧ (q.taken = false → v.pc = r.1 ∧ v.loops = r.2)))
     u.core.signalRoom .C (y.setWidth 2) = true → b.tcause.getLsbD 8 = false → s.core.hardStop = false →
     (∀ b0, s.core.banks = [b0, b] →
       ∃ t, exec (.cRtt y) s = .next t ∧ t.core.banks = [b0] ∧ t.core.sup = true ∧ stands t .C b.tpcc b.loopsC none ∧ t.core.a = s.core.a ∧
         t.core.x = s.core.x ∧ SameMemory s t) ∧
     (s.core.banks = [b] →
       ∃ t, exec (.cRtt y) s = .next t ∧ t.core.banks = [] ∧ t.core.sup = false ∧ stands t .C b.tpcc b.loopsC none ∧
         stands t .A b.tpca b.loopsA none ∧ stands t .X b.tpcx b.loopsX b.bx ∧ t.core.sregs = s.core.sregs ∧ t.core.aregs = s.core.aregs ∧
         t.core.xregs = s.core.xregs ∧ SameMemory s t)) ∧
  -- R293, R354: RTT from a bank whose FAIL is set fails the launch with the cause of the trap and the member's index:
  -- its cores are reset, its STATUS says so, and its vector is sent.
  (∀ (y : BitVec 4) (s : State) (b : TrapBank) (l : Launch) (i : Nat), syncReady .C y s = true → s.MemOk → s.core.sup = true →
     (synced .C y s).core.signalRoom .C (y.setWidth 2) = true → s.core.banks.getLast? = some b → b.tcause.getLsbD 8 = true →
     s.core.member = some (l.id, i) → s.launches = [l] → s.core.num ∈ l.members → teamOver s l = false →
     ∃ t, exec (.cRtt y) s = .next t ∧ t.launches = [] ∧ t.core.member = none ∧ t.core.banks = [] ∧ (∀ st, (t.stream st).status = .notStarted) ∧
       t.word (mailboxKey l.mailbox + 0x70) 8 = statusWord l.tag i (bits b.tcause 0 8) l.refused 6 % 2 ^ 64 ∧ .msix l.mailbox ∈ t.outputs)

/-- The supervisor instructions: PRIV in user mode, and their effects in supervisor mode. -/
def Obligations.SupervisorInstructions : Prop :=
  -- R73, R118: the supervisor instructions raise PRIV in user mode before anything else is examined, with the
  -- instruction word in taux0.
  (∀ (y : BitVec 4) (a b : Reg) (s : State), s.core.sup = false →
     ∀ i ∈ ([.cRtt y, .cLttw y a b, .cLttinv y a, .cDreg y a b, .cDfree y a, .cSavec y a b, .cRestc y a b] : List Instr),
       ∃ t, t.cause = .priv ∧ t.aux0 = BitVec.ofNat 64 (s.core.wordAt .C s.core.c.pc.toNat) ∧ exec i s = .next (raiseTrap .C s t)) ∧
  -- R120: LTTW writes a well-formed entry that overlaps no other valid one, or an invalid one; it raises ILLEGAL for
  -- an index past 255, a block out of place, a malformed entry or an overlap, and ECC_UNCORRECTABLE for an
  -- uncorrectable block. LTTINV marks an entry invalid.
  (∀ (y : BitVec 4) (a b : Reg) (s : State), syncReady .C y s = true → s.core.sup = true →
     let u := synced .C y s
     let i := (s.rs a).toNat
     let off := (s.rs b).toNat
     let raw := s.bytes (coreKey s.core.num off) 32
     let bad := fun (j : Instr) => exec j s = .next (raiseTrap .C u (illegal .C u))
     (255 < i → bad (.cLttw y a b) ∧ bad (.cLttinv y a)) ∧
     (i ≤ 255 →
       exec (.cLttinv y a) s = .next (retireAt .C y (u.setCore { u.core with ltt := eraseEntry i u.core.ltt })) ∧
       (off % 32 ≠ 0 ∨ 1572864 < off + 32 → bad (.cLttw y a b)) ∧
       (off % 32 = 0 → off + 32 ≤ 1572864 → coreHeld u off 32 = false → s.poisoned (coreKey s.core.num off) 32 = true →
         exec (.cLttw y a b) s = .next (raiseTrap .C u { cause := .eccUncorrectable, aux0 := 0 })) ∧
       (off % 32 = 0 → off + 32 ≤ 1572864 → coreHeld u off 32 = false → s.poisoned (coreKey s.core.num off) 32 = false →
         (parseXlat s.ret0 s.ret1 raw = none → bad (.cLttw y a b)) ∧
         (∀ e, parseXlat s.ret0 s.ret1 raw = some (false, e) →
           exec (.cLttw y a b) s = .next (retireAt .C y (u.setCore { u.core with ltt := eraseEntry i u.core.ltt }))) ∧
         (∀ e, parseXlat s.ret0 s.ret1 raw = some (true, e) →
           ((∃ q ∈ s.core.ltt, q.1 ≠ i ∧ q.2.overlaps e = true) → bad (.cLttw y a b)) ∧
           ((∀ q ∈ s.core.ltt, q.1 ≠ i → q.2.overlaps e = false) →
             exec (.cLttw y a b) s = .next (retireAt .C y (u.setCore { u.core with ltt := insertEntry i e u.core.ltt }))))))) ∧
  -- R121, R123: DREG declares a region whose 32 bytes pass the checks, every entry of it EMPTY with version 0, and
  -- raises ILLEGAL for any other. DFREE of a region that no operation has still to write or query frees its number
  -- and discards its entries; with such operations out it waits for them (the model's choice, log 138); of a number
  -- not declared it raises ILLEGAL. The entries of a new region are empty in every state in which each entry held is
  -- of a declared region, which DREG and DFREE keep.
  (∀ (y : BitVec 4) (a b : Reg) (s : State), syncReady .C y s = true → s.core.sup = true →
     let u := synced .C y s
     let n := (s.rs a).toNat
     let off := (s.rs b).toNat
     let raw := s.bytes (coreKey s.core.num off) 32
     (off % 8 ≠ 0 ∨ 1572864 < off + 32 → exec (.cDreg y a b) s = .next (raiseTrap .C u (illegal .C u))) ∧
     (off % 8 = 0 → off + 32 ≤ 1572864 → coreHeld u off 32 = false → s.poisoned (coreKey s.core.num off) 32 = false →
       (declared u n raw = none → exec (.cDreg y a b) s = .next (raiseTrap .C u (illegal .C u))) ∧
       (∀ g, declared u n raw = some g →
         exec (.cDreg y a b) s = .next (retireAt .C y { u with regions := g :: u.regions }) ∧
         g.num = n ∧ g.kind = fieldAt raw 2 1 ∧ g.ty.toNat = fieldAt raw 3 1 ∧ g.watch = decide (fieldAt raw 4 1 = 1) ∧
         g.blockBytes = 2 ^ fieldAt raw 5 1 ∧ g.base = fieldAt raw 8 8 ∧ g.size = fieldAt raw 16 8 ∧ g.seed = BitVec.ofNat 64 (fieldAt raw 24 8) ∧
         n < 4096 ∧ s.region? n = none ∧ 8 ≤ g.blockBytes ∧ g.blockBytes ≤ 2 ^ 20 ∧ g.size ≠ 0 ∧ g.base % g.blockBytes = 0 ∧ g.size % g.blockBytes = 0 ∧
         (∀ r ∈ s.regions, r.base + r.size ≤ g.base ∨ g.base + g.size ≤ r.base) ∧
         (s.EntriesDeclared → { u with regions := g :: u.regions }.EntriesDeclared ∧
           ∀ k, (retireAt .C y { u with regions := g :: u.regions }).entry n k = { version := 0, state := .empty, payload := 0 }))) ∧
     (s.region? n = none → exec (.cDfree y a) s = .next (raiseTrap .C u (illegal .C u))) ∧
     (∀ g, s.region? n = some g → s.core.c.awaited = none →
       (regionOps u g.num ≠ [] → exec (.cDfree y a) s =
         .next (blockOn .C (u.setStream .C { u.core.c with awaited := some (regionOps u g.num) }) (.commits 0x73 (regionOps u g.num)))) ∧
       (regionOps u g.num = [] → ∃ t, exec (.cDfree y a) s = .next (retireAt .C y t) ∧ t.region? n = none ∧ (∀ e ∈ t.entries, e.1.1 ≠ n) ∧
         SameMemory s t ∧ (∀ m, m ≠ n → t.region? m = s.region? m ∧ ∀ k, t.entry m k = s.entry m k) ∧ (s.EntriesDeclared → t.EntriesDeclared)))) ∧
  -- R124, R300: SAVEC and RESTC in supervisor mode. A size below that of the image, an area out of place and, for
  -- RESTC, an image that is not valid raise ILLEGAL (of the place that it is ILLEGAL is the model's choice, log 237);
  -- an area that fails a check of R124 raises its cause, and SAVEC of a core store with an uncorrectable unit
  -- ECC_UNCORRECTABLE (the model's choice, log 225); else the transfer begins and holds the instruction, and once it
  -- is over the instruction retires. What the transfer writes and reads is SAVE_IMAGE_TRANSFER_END's.
  (∀ (y : BitVec 4) (a b : Reg) (s : State), syncReady .C y s = true → s.core.sup = true →
     let u := synced .C y s
     let va := (s.rs a).toNat
     ∀ i ∈ ([(.cSavec y a b, false), (.cRestc y a b, true)] : List (Instr × Bool)),
       (s.core.c.woken = true → exec i.1 s = .next (retireAt .C y u)) ∧
       (s.core.c.woken = false → va % 65536 ≠ 0 ∨ (s.rs b).toNat < 2097152 → exec i.1 s = .next (raiseTrap .C u (illegal .C u))) ∧
       (s.core.c.woken = false → va % 65536 = 0 → 2097152 ≤ (s.rs b).toNat →
         (∀ t, areaTrap u va (s.rs b).toNat (!i.2) = some t → exec i.1 s = .next (raiseTrap .C u t)) ∧
         (areaTrap u va (s.rs b).toNat (!i.2) = none →
           (i.2 = true → areaBroken u u.core va = false → imageValid u (readImage u u.core va) = false →
             exec i.1 s = .next (raiseTrap .C u (illegal .C u))) ∧
           (i.2 = false → s.poisoned (coreKey s.core.num 0) 1572864 = true → exec i.1 s = .next (raiseTrap .C u { cause := .eccUncorrectable })) ∧
           ((if i.2 then imageValid u (readImage u u.core va) = true else s.poisoned (coreKey s.core.num 0) 1572864 = false) →
             s.core.engineHeld = false →
             exec i.1 s = .next (blockOn .C { u.setCore { u.core with engineHeld := true } with
               transfers := s.transfers ++ [⟨s.core.num, i.2, va⟩] } .saveTransfer)))))

/-- What the C-stream's instructions leave unchanged. -/
def Obligations.CStreamFrames : Prop :=
  -- Whatever happens to them, the C-stream's instructions that write one s register change nothing else: no other s
  -- register, no register of another file, no special register, no queue, no byte of memory.
  (∀ (y : BitVec 4) (d a b : Reg) (i o : BitVec 11) (n : BitVec 6) (w : BitVec 16) (s t : State),
     ∀ j ∈ ([.cAdd y d a b, .cSub y d a b, .cAnd y d a b, .cOr y d a b, .cXor y d a b, .cShl y d a b, .cShr y d a b, .cSra y d a b,
         .cMul y d a b, .cMulh y d a b, .cMulhu y d a b, .cDiv y d a b, .cRem y d a b, .cMin y d a b, .cMax y d a b,
         .cSeq y d a b, .cSne y d a b, .cSlt y d a b, .cSltu y d a b, .cSle y d a b, .cSleu y d a b, .cClz y d a, .cPopc y d a,
         .cAddi y d a i, .cAndi y d a i, .cOri y d a i, .cXori y d a i, .cShli y d a n, .cShri y d a n, .cSrai y d a n,
         .cLi y d w, .cLui y d w, .cCall y d w, .cCsrr y d i, .cLdw y d a o] : List Instr),
       exec j s = .next t →
         t = { s with core := { s.core.controlOf t.core with sregs := t.core.sregs } } ∧ (∀ r, r ≠ d → t.rs r = s.rs r) ∧ SameMemory s t) ∧
  -- Branches, LOOP, TSIG, TWAIT and WFE change the control state of the core's streams and nothing else.
  (∀ (y : BitVec 4) (a b : Reg) (o : BitVec 11) (w : BitVec 16) (side : Bool) (n : BitVec 8) (s t : State),
     ∀ j ∈ ([.cB y w, .cBeq y a b o, .cBne y a b o, .cBlt y a b o, .cBge y a b o, .cBltu y a b o, .cBgeu y a b o, .cRet y a,
         .cLoop y a w, .cTsig y side n, .cTwait y side n, .cWfe y] : List Instr),
       exec j s = .next t → OnlyControl s t ∧ SameMemory s t) ∧
  -- What the C-stream's other instructions that write no memory leave unchanged: each its own piece of the core's
  -- state apart, everything.
  (∀ (y m : BitVec 4) (a b : Reg) (h : Handle) (i : BitVec 21) (o sc : BitVec 2) (s t : State),
     (∀ j ∈ ([.cFpush y a, .cFpushi y i] : List Instr), exec j s = .next t →
       t = { s with core := { s.core.controlOf t.core with fq := t.core.fq } } ∧ SameMemory s t) ∧
     (exec (.cTshape y m a) s = .next t → t = { s with core := { s.core.controlOf t.core with shapes := t.core.shapes } } ∧ SameMemory s t) ∧
     (∀ j ∈ ([.cSeal y h a, .cUnseal y h] : List Instr), exec j s = .next t →
       t = { s with core := { s.core.controlOf t.core with handles := t.core.handles } } ∧ SameMemory s t) ∧
     (exec (.cGenf y) s = .next t → t = { s with core := { s.core.controlOf t.core with gen := t.core.gen } } ∧ SameMemory s t) ∧
     (exec (.cBound y a) s = .next t → t = { s with core := { s.core.controlOf t.core with wdc := t.core.wdc } } ∧ SameMemory s t) ∧
     (exec (.cFence y o sc) s = .next t →
       t = { s with syncclk := t.syncclk, core := { s.core.controlOf t.core with
         lastrel := t.core.lastrel, lastacq := t.core.lastacq, unpublished := t.core.unpublished } } ∧ SameMemory s t) ∧
     (∀ j ∈ ([.cLttinv y a, .cLttw y a b] : List Instr), exec j s = .next t →
       t = { s with core := { s.core.controlOf t.core with ltt := t.core.ltt } } ∧ SameMemory s t)) ∧
  -- STW stores eight bytes, at the address that R101 gives, or nothing; no register of any file changes.
  (∀ (y : BitVec 4) (d a : Reg) (o : BitVec 11) (s t : State), s.MemOk → exec (.cStw y d a o) s = .next t →
     let k := coreKey s.core.num (wordOffset s a o)
     (∀ j, (j < k ∨ k + 8 ≤ j) → Memory.get t.mem j = Memory.get s.mem j) ∧
     t.core.sregs = s.core.sregs ∧ t.core.aregs = s.core.aregs ∧ t.core.xregs = s.core.xregs ∧ t.core.v = s.core.v ∧ t.core.p = s.core.p ∧
     t.core.flags = s.core.flags ∧ t.core.bt = s.core.bt ∧ t.core.tiles = s.core.tiles ∧ t.core.accs = s.core.accs ∧
     t.core.shapes = s.core.shapes ∧ t.core.handles = s.core.handles ∧ t.core.ltt = s.core.ltt ∧ t.core.banks = s.core.banks ∧
     t.core.lq = s.core.lq ∧ t.core.sq = s.core.sq ∧ t.core.vq = s.core.vq ∧ t.core.bqa = s.core.bqa ∧ t.core.bqx = s.core.bqx ∧
     t.core.fq = s.core.fq ∧ t.core.gen = s.core.gen ∧ t.core.lastrel = s.core.lastrel ∧ t.core.lastacq = s.core.lastacq ∧
     t.core.tape = s.core.tape ∧ t.core.tvec = s.core.tvec ∧ t.core.wdc = s.core.wdc ∧ t.syncclk = s.syncclk) ∧
  -- What barriers, traps, the ends of streams, FLUSH, the tape's binding and the supervisor's region and save
  -- instructions leave unchanged: each its own pieces of the state apart, everything; and no byte of memory changes.
  -- Of RTT this is said where it ends neither a launch nor a member.
  (∀ (y : BitVec 4) (a b : Reg) (h : Handle) (l : BitVec 2) (code : BitVec 16) (s t : State),
     (exec (.cDbar y l) s = .next t → t = { s with syncclk := t.syncclk, arrivals := t.arrivals, core := { s.core.controlOf t.core with
       lastrel := t.core.lastrel, unpublished := t.core.unpublished } } ∧ SameMemory s t) ∧
     (exec (.cFlush y h a b) s = .next t →
       t = { s with flights := t.flights, nextId := t.nextId, outputs := t.outputs, core := s.core.controlOf t.core } ∧ SameMemory s t) ∧
     (exec (.cTapec y h a) s = .next t →
       t = { s with flights := t.flights, nextId := t.nextId, core := { s.core.controlOf t.core with tape := t.core.tape } } ∧ SameMemory s t) ∧
     (exec (.cTrap y code) s = .next t → OnlyControl s t ∧ SameMemory s t) ∧
     (exec (.cHalt y) s = .next t → t = { s with syncclk := t.syncclk, core := { s.core.controlOf t.core with
       halted := t.core.halted, lastrel := t.core.lastrel, unpublished := t.core.unpublished } } ∧ SameMemory s t) ∧
     (exec (.cRtt y) s = .next t → s.core.hardStop = false → (∀ k, s.core.banks.getLast? = some k → k.tcause.getLsbD 8 = false) →
       t = { s with core := { s.core.controlOf t.core with banks := t.core.banks } } ∧ SameMemory s t) ∧
     (exec (.cDreg y a b) s = .next t → t = { s with regions := t.regions, core := s.core.controlOf t.core } ∧ SameMemory s t) ∧
     (exec (.cDfree y a) s = .next t → t = { s with
       regions := t.regions, entries := t.entries, stamps := t.stamps, cache := t.cache, writeback := t.writeback
       core := s.core.controlOf t.core } ∧ SameMemory s t) ∧
     (∀ i ∈ ([.cSavec y a b, .cRestc y a b] : List Instr), exec i s = .next t →
       t = { s with transfers := t.transfers, core := { s.core.controlOf t.core with engineHeld := t.core.engineHeld } } ∧ SameMemory s t)) ∧
  -- What MIGRATE leaves unchanged: of the core in focus all but its control state, translations (those its tape was
  -- bound to among them), late count and note of its last read; of memory all but the export entries and the entries
  -- of the translation images of launches, 32 bytes each.
  (∀ (y : BitVec 4) (h : Handle) (a b : Reg) (far : Bool) (s t : State), s.MemOk → exec (.cMigrate y h a b far) s = .next t →
     t.core = { s.core.controlOf t.core with ltt := t.core.ltt, mlate := t.core.mlate, lastRead := t.core.lastRead, tape := { s.core.tape with xlats := t.core.tape.xlats } } ∧
     t.others.map (·.num) = s.others.map (·.num) ∧ t.flights = s.flights ∧ t.entries = s.entries ∧ t.stamps = s.stamps ∧ t.syncclk = s.syncclk ∧
     ∀ j, (∀ i < 256, j < hwinKey 0 (0xE0000 + 32 * i) ∨ hwinKey 0 (0xE0000 + 32 * i) + 32 ≤ j) →
       (∀ l ∈ s.launches, ∀ i < l.record.lttn, j < nearKey (l.record.lttimg + 32 * i) ∨ nearKey (l.record.lttimg + 32 * i) + 32 ≤ j) →
       Memory.get t.mem j = Memory.get s.mem j)

/-- The results of the A-stream's arithmetic, set and immediate instructions. -/
def Obligations.AArithmeticResults : Prop :=
  -- R131, R92: the A-stream's arithmetic and sets. Once the registers are free each retires with its result in aD.
  (∀ (y : BitVec 4) (d a b : Reg) (s : State), syncReady .A y s = true → RegsFree s [a.val, b.val, d.val] →
     let u := synced .A y s
     let x := s.ra a
     let z := s.ra b
     let n := z.toNat % 64
     let gives := fun (i : Instr) (v : Word) => exec i s = .next (retireAt .A y (u.wa d v))
     gives (.aAdd y d a b) (x + z) ∧ gives (.aSub y d a b) (x - z) ∧
     gives (.aAnd y d a b) (x &&& z) ∧ gives (.aOr y d a b) (x ||| z) ∧ gives (.aXor y d a b) (x ^^^ z) ∧
     gives (.aShl y d a b) (x <<< n) ∧ gives (.aShr y d a b) (x >>> n) ∧ gives (.aSra y d a b) (x.sshiftRight n) ∧
     gives (.aMul y d a b) (x * z) ∧
     gives (.aMin y d a b) (if x.toInt ≤ z.toInt then x else z) ∧ gives (.aMax y d a b) (if x.toInt ≤ z.toInt then z else x) ∧
     gives (.aSeq y d a b) (if x = z then 1 else 0) ∧ gives (.aSne y d a b) (if x = z then 0 else 1) ∧
     gives (.aSlt y d a b) (if x.toInt < z.toInt then 1 else 0) ∧ gives (.aSltu y d a b) (if x.toNat < z.toNat then 1 else 0)) ∧
  -- R131, R77: the A-stream's immediate forms, LI and LUI; NOP (R134).
  (∀ (y : BitVec 4) (d a : Reg) (i : BitVec 32) (n : BitVec 6) (s : State), syncReady .A y s = true → RegsFree s [a.val, d.val] →
     let u := synced .A y s
     let x := s.ra a
     let gives := fun (i : Instr) (v : Word) => exec i s = .next (retireAt .A y (u.wa d v))
     gives (.aAddi y d a i) (x + i.signExtend 64) ∧ gives (.aAndi y d a i) (x &&& i.signExtend 64) ∧
     gives (.aShli y d a n) (x <<< n.toNat) ∧ gives (.aShri y d a n) (x >>> n.toNat) ∧
     gives (.aLi y d i) (i.signExtend 64) ∧ gives (.aLui y d i) (s.ra d <<< 32 ||| i.setWidth 64) ∧
     exec (.aNop y) s = .next (retireAt .A y u))

/-- Where the A-stream's branches go, and OPUSH, VQPOP and LDI. -/
def Obligations.ABranchesAndQueues : Prop :=
  -- R132: where each branch of the A-stream goes. BRQ pops the outcome at the head of bqx, two cycles old or more,
  -- whether or not it transfers.
  (∀ (y q : BitVec 4) (a b : Reg) (o : BitVec 16) (s : State), syncReady .A y s = true → RegsFree s [a.val, b.val] →
     let u := synced .A y s
     let x := s.ra a
     let z := s.ra b
     let target := s.core.a.pc + 8 * o.signExtend 64
     let when := fun (i : Instr) (c : Prop) [Decidable c] =>
       exec i s = .next (if c then transferTo .A y u u target else retireAt .A y u)
     exec (.aB y o) s = .next (transferTo .A y u u target) ∧
     when (.aBeq y a b o) (x = z) ∧ when (.aBne y a b o) (x ≠ z) ∧
     when (.aBlt y a b o) (x.toInt < z.toInt) ∧ when (.aBge y a b o) (z.toInt ≤ x.toInt) ∧
     when (.aBltu y a b o) (x.toNat < z.toNat) ∧ when (.aBgeu y a b o) (z.toNat ≤ x.toNat) ∧
     (∀ e rest v, s.core.bqx.items = e :: rest → e.error = none → e.bit = some v → e.since + 2 ≤ s.now →
       let t := u.setCore { u.core with bqx := { head := s.core.bqx.head + 1, items := rest } }
       exec (.aBrq y q o) s = .next (if v = q.getLsbD 0 then transferTo .A y u t target else retireAt .A y t))) ∧
  -- R21, R30, R133: what OPUSH, VQPOP and LDI do to their queues, and when they wait.
  (∀ (y : BitVec 4) (a : Reg) (q : LqNum) (s : State), syncReady .A y s = true → RegsFree s [a.val] →
     let u := synced .A y s
     (s.core.bqa.items.length < 128 →
       exec (.aOpush y a) s = .next (retireAt .A y (u.setCore { u.core with bqa :=
         { u.core.bqa with items := u.core.bqa.items ++ [⟨some (s.ra a != 0), s.now, none⟩] } }))) ∧
     (128 ≤ s.core.bqa.items.length → exec (.aOpush y a) s = .next (blockOn .A u (.push 6 1))) ∧
     (∀ x rest, s.core.vq.items = x :: rest →
       exec (.aVqpop y a) s = .next (retireAt .A y ((u.setCore { u.core with vq := ⟨s.core.vq.head + 1, rest⟩ }).wa a x))) ∧
     (s.core.vq.items = [] → exec (.aVqpop y a) s = .next (blockOn .A (countLoss u) (.pop 5 1))) ∧
     (lqWait s.core q 1 = none →
       ∃ t, exec (.aLdi y q a) s = .next (retireAt .A y t) ∧
         (t.core.loadQueue q).items = (s.core.loadQueue q).items ++
           [⟨some (vecOfLanes [(s.ra a).setWidth 32, (s.ra a >>> 32).setWidth 32]), none⟩] ∧ SameMemory s t) ∧
     (∀ w, lqWait s.core q 1 = some w → exec (.aLdi y q a) s = .next (blockOn .A u w)))

/-- The A-stream's loads issue: to a queue, to a register, with their version. -/
def Obligations.ALoadsIssue : Prop :=
  -- R135, R137, R139: a load whose operand passes the checks of R126 and whose queue has room issues: it reserves its
  -- entry at the tail and is in flight to the places of its elements; it writes no memory. A run of no elements gives
  -- an entry of zeros.
  (∀ (y : BitVec 4) (q : LqNum) (h : Handle) (cf b : Reg) (ty : ElemCode) (o sc : BitVec 2) (s : State) (p : Operand),
     syncReady .A y s = true →
     let u := synced .A y s
     let n := runCount s b ty
     (Names u h cf.val [b.val] p → accepts p ty = true → n ≤ runLimit ty → lqWait s.core q 1 = none →
       ∀ i ∈ ([.aLd8 y q h cf b ty o sc, .aLd16 y q h cf b ty o sc, .aLd32 y q h cf b ty o sc, .aLd64 y q h cf b ty o sc] : List Instr),
         (0 < n → p.obj.inBounds p.crd n = true → Passes u [p] (p.run n false) →
           ∃ t f, exec i s = .next (retireAt .A y t) ∧ t.flights = s.flights ++ [f] ∧ IssuedBy s f ∧ f.write = false ∧
             f.job = .ld q.val (s.core.loadQueue q).tail ty ∧ f.todo = segsOfSpans u (p.run n false) ∧ f.ord = o ∧ f.sco = sc ∧
             (t.core.loadQueue q).items = (s.core.loadQueue q).items ++ [⟨none, none⟩] ∧ SameMemory s t) ∧
         (n = 0 → ∃ t, exec i s = .next (retireAt .A y t) ∧ t.flights = s.flights ∧
           (t.core.loadQueue q).items = (s.core.loadQueue q).items ++ [⟨some Vec.zero, none⟩] ∧ SameMemory s t)) ∧
     (Names u h cf.val [] p → sliceOk p = true → lqWait s.core q 1 = none → p.obj.inBounds p.crd 1 = true →
       Passes u [p] [⟨p, p.va, p.sliceBytes, false⟩] →
       ∃ t f, exec (.aLdt y q h cf) s = .next (retireAt .A y t) ∧ t.flights = s.flights ++ [f] ∧ IssuedBy s f ∧ f.write = false ∧
         f.job = .ldt q.val (s.core.loadQueue q).tail ∧ f.todo = segsOfSpans u [⟨p, p.va, p.sliceBytes, false⟩] ∧
         (t.core.loadQueue q).items = (s.core.loadQueue q).items ++ [⟨none, none⟩] ∧ SameMemory s t)) ∧
  -- R129, R139: LDA issues when its operand passes the checks: its register has an outstanding writer from then on.
  (∀ (y : BitVec 4) (d : Reg) (h : Handle) (cf : Reg) (ty : ElemCode) (o sc : BitVec 2) (s : State) (p : Operand),
     syncReady .A y s = true →
     let u := synced .A y s
     Names u h cf.val [d.val] p → accepts p ty = true → p.obj.inBounds p.crd 1 = true → Passes u [p] (p.run 1 false) →
     ∀ i ∈ ([.aLda8 y d h cf ty o sc, .aLda16 y d h cf ty o sc, .aLda32 y d h cf ty o sc, .aLda64 y d h cf ty o sc] : List Instr),
       ∃ t f, exec i s = .next (retireAt .A y t) ∧ t.flights = s.flights ++ [f] ∧ IssuedBy s f ∧ f.write = false ∧ f.job = .lda ty ∧
         f.todo = segsOfSpans u (p.run 1 false) ∧ f.reg = (if d = 0 then none else some d.val) ∧ (d ≠ 0 → t.writers d.val ≠ []) ∧
         t.core.aregs = s.core.aregs ∧ SameMemory s t) ∧
  -- R138, R161: LDV reserves the entries of its whole block, and in its outcome form a bit of bqa, in one step.
  (∀ (y : BitVec 4) (q : LqNum) (d : Reg) (h : Handle) (cf b : Reg) (o sc : BitVec 2) (s : State) (p : Operand) (g : Region) (k : Nat),
     syncReady .A y s = true →
     let u := synced .A y s
     let n := blockEntries g.blockBytes
     Names u h cf.val [b.val, d.val] p → regionOf u p = some (g, k) → n ≤ 64 → n ≤ s.core.slipmax.toNat →
     p.obj.inBounds p.crd 1 = true → Passes u [p] [blockSpan p g k 1] → lqWait s.core q n = none → s.core.bqa.items.length < 128 →
     ∀ i ∈ ([(.aLdv y q d h cf b o sc, false), (.aLdvBqa y q d h cf b o sc, true)] : List (Instr × Bool)),
       ∃ t f, exec i.1 s = .next (retireAt .A y t) ∧ t.flights = s.flights ++ [f] ∧ IssuedBy s f ∧ f.write = false ∧
         f.job = .ldv q.val (s.core.loadQueue q).tail n g.num k ((s.ra b).setWidth 32) none none (if i.2 then some s.core.bqa.tail else none) ∧
         (t.core.loadQueue q).items = (s.core.loadQueue q).items ++ List.replicate n ⟨none, none⟩ ∧
         t.core.bqa.items = s.core.bqa.items ++ (if i.2 then [⟨none, 0, none⟩] else []) ∧ SameMemory s t)

/-- R136, R137, R139: a store whose operand passes the checks issues with its data and commits later: no byte of
memory has changed yet. ST and STT pop the head of sq; a run of no elements pops it and issues nothing, after the
checks on its operand (the element named must lie in bounds: the model's choice, log 226). -/
def Obligations.AStoresIssue : Prop :=
  ∀ (y : BitVec 4) (h : Handle) (cf b : Reg) (ty : ElemCode) (o sc : BitVec 2) (s : State) (p : Operand) (v : Vec) (rest : List Vec),
    syncReady .A y s = true →
    let u := synced .A y s
    let n := runCount s b ty
    let issues := fun (i : Instr) (l : List Span) (data : List Byte) =>
      ∃ t f, exec i s = .next (retireAt .A y t) ∧ t.flights = s.flights ++ [f] ∧ IssuedBy s f ∧ f.job = .store ∧ f.write = true ∧
        f.todo = fillSegs (segsOfSpans u l) data ∧ SameMemory s t
    let pops := fun (i : Instr) => ∃ t, exec i s = .next (retireAt .A y t) ∧ t.core.sq = ⟨s.core.sq.head + 1, rest⟩
    (Names u h cf.val [b.val] p → accepts p ty = true → s.core.sq.items = v :: rest → n ≤ runLimit ty →
      ∀ i ∈ ([.aSt8 y h cf b ty o sc, .aSt16 y h cf b ty o sc, .aSt32 y h cf b ty o sc, .aSt64 y h cf b ty o sc] : List Instr),
        (0 < n → p.obj.inBounds p.crd n = true → Passes u [p] (p.run n true) →
          issues i (p.run n true) (storeBytes ty v n) ∧ pops i) ∧
        (n = 0 → p.obj.inBounds p.crd 1 = true → Passes u [p] (p.run 0 true) →
          pops i ∧ ∃ t, exec i s = .next t ∧ t.flights = s.flights ∧ SameMemory s t) ∧
        (p.obj.inBounds p.crd (max 1 n) = false → exec i s = .next (raiseTrap .A u (p.outOfBounds true)))) ∧
    (Names u h cf.val [] p → sliceOk p = true → s.core.sq.items = v :: rest → p.obj.inBounds p.crd 1 = true →
      Passes u [p] [⟨p, p.va, p.sliceBytes, true⟩] →
      issues (.aStt y h cf) [⟨p, p.va, p.sliceBytes, true⟩] ((vecBytes v).take p.sliceBytes) ∧ pops (.aStt y h cf)) ∧
    (Names u h cf.val [b.val] p → accepts p ty = true → p.obj.inBounds p.crd 1 = true → Passes u [p] (p.run 1 true) →
      ∀ i ∈ ([.aSta8 y h cf b ty o sc, .aSta16 y h cf b ty o sc, .aSta32 y h cf b ty o sc, .aSta64 y h cf b ty o sc] : List Instr),
        issues i (p.run 1 true) (leBytes (elemBytes ty) (s.ra b).toNat))

/-- What an access raises or waits for, check by check, and what the checks promise. -/
def Obligations.AccessChecks : Prop :=
  -- R126: what an access raises, in the order of the checks: a free handle SEAL_FAIL with reason 14, an object that
  -- it does not accept ILLEGAL, an element out of bounds PROGRAM_ADDRESS with its address, and then the cause of the
  -- first check of R126 that fails; an access that passes them and meets a watched space waits for its stamp check.
  -- That the address named is the element's (log 122), that the stamp check is waited for as an operation of its own
  -- (log 137), and that a page whose arrival was waited for passes (log 147) are the model's choices.
  (∀ (y : BitVec 4) (r : Reg) (h : Handle) (cf : Reg) (ty : ElemCode) (s : State) (p : Operand), syncReady .A y s = true →
     let u := synced .A y s
     ∀ i ∈ ([(.aLda32 y r h cf ty 0 0, false), (.aSta32 y h cf r ty 0 0, true)] : List (Instr × Bool)),
       let raises := fun (t : TrapInfo) => exec i.1 s = .next (raiseTrap .A u t)
       (s.core.handle h.val = none → ∃ t, t.cause = .sealFail ∧ t.detail = 14 ∧ raises t) ∧
       (Names u h cf.val [r.val] p →
         (accepts p ty = false → raises (illegal .A u)) ∧
         (accepts p ty = true → p.obj.inBounds p.crd 1 = false →
           ∃ t, t.cause = .programAddress ∧ t.addr = BitVec.ofNat 64 p.va ∧ raises t) ∧
         (accepts p ty = true → p.obj.inBounds p.crd 1 = true →
           (∀ t, checkSpans u [p] (p.run 1 i.2) = .trap t → raises t) ∧
           (∀ w, checkSpans u [p] (p.run 1 i.2) = .wait w → exec i.1 s = .next (blockOn .A u w)) ∧
           (checkSpans u [p] (p.run 1 i.2) = .ok () → watchedSpans u (p.run 1 i.2) = true → s.core.a.woken = false →
             s.core.a.status = .running → exec i.1 s = .next (blockOn .A { u with nextId := s.nextId + 1 } (.stampCheck s.nextId)))))) ∧
  -- R126, R307–R309: an access that passes the checks touches only bytes whose entry is in its object's own space (or
  -- holds a page whose arrival it has waited for), present, and readable, or writable for a write; one that fails
  -- them raises one of the four causes. That a page whose arrival was waited for counts as in the object's space is
  -- the model's choice (log 147).
  (∀ (s : State) (ops : List Operand) (l : List Span),
     (checkSpans s ops l = .ok () → ∀ sp ∈ l, ∀ pc ∈ sp.pieces s, ∃ e, pc.entry = some e ∧
       (e.2.space = sp.op.obj.space ∨ s.core.a.pages.contains e.1 = true) ∧ e.2.state = .present ∧
       (if sp.write then e.2.w else e.2.r) = true) ∧
     (∀ t, checkSpans s ops l = .trap t →
       t.cause = .layoutStale ∨ t.cause = .programAddress ∨ t.cause = .pageAbsent ∨ t.cause = .permission))

/-- CPY, CPY2D and CPYX issue on their token, from and to the bytes that their operands name. -/
def Obligations.CopiesIssue : Prop :=
  -- R140, R141, R143, R144: a copy whose operands pass the checks issues on its token, which it sets to 0; it reads
  -- and writes no memory yet. CPY and CPY2D are to move each byte of the source's rows to the byte of the
  -- destination's rows that is as far on; CPYX is to write the destination's rows with what the source object's chain
  -- makes of the source's rows. A copy of no bytes completes at once. The order of the checks on two operands (log
  -- 123: the source before the destination) and when a copy reads its source (logs 132, 153) are the model's choices.
  (∀ (y : BitVec 4) (tok : ShortReg) (hd : Handle) (dcf : ShortReg) (hs : Handle) (scf len : ShortReg) (wd : BitVec 16) (s : State)
       (d q : Operand), syncReady .A y s = true →
     let u := synced .A y s
     let w := (s.ra (Fin.ofNat 32 len.val)).toNat
     ∀ i ∈ ([(.aCpy y tok hd dcf hs scf len wd, false, false), (.aCpy2d y tok hd dcf hs scf len wd, true, false),
         (.aCpyx y tok hd dcf hs scf len wd, false, true)] : List (Instr × Bool × Bool)),
       let h := if i.2.1 then (s.ra (Fin.ofNat 32 (len.val + 1))).toNat else 1
       let n := if i.2.2 then ((chainOut q.obj q.crd w).map (·.len)).getD 0 else w
       let rows := fun (p : Operand) (len : Nat) (write : Bool) => segsOfSpans u ((List.range h).map (fun r =>
         (⟨p, p.va + r * (p.obj.strides.getD (p.obj.rank - 2) 0 * elemBits p.obj.ty / 8), len, write⟩ : Span)))
       let src := rows q w false
       let dst := if n = 0 then [] else rows d n true
       Names2 u hd dcf.val hs scf.val (if i.2.1 then [len.val, len.val + 1] else [len.val]) d q → RegsFree u [tok.val] →
       copyRefused u i.2.1 i.2.2 d q w h = false →
       q.obj.inBounds q.crd 1 = true → inFootprint q w h = true → d.obj.inBounds d.crd 1 = true → inFootprint d n h = true →
       Passes u [q, d] (rowSpans q w h false ++ rowSpans d n h true) →
       (w * h = 0 → ∃ t, exec i.1 s = .next (retireAt .A y t) ∧ t.flights = s.flights ∧ t.ra (Fin.ofNat 32 tok.val) = 0 ∧ SameMemory s t) ∧
       (w * h ≠ 0 → copySlots u < 128 →
         ∃ t f, exec i.1 s = .next (retireAt .A y t) ∧ t.flights = s.flights ++ [f] ∧ IssuedBy s f ∧ f.write = true ∧
           f.reg = (if tok = 0 then none else some tok.val) ∧ f.expires = some (s.now + boundCycles wd) ∧
           f.job = .copy 0 (if i.2.2 then some (q.obj, src) else none) ∧
           f.todo = (if i.2.2 then dst else zipSegs (dst.length + src.length) dst src) ∧
           t.ra (Fin.ofNat 32 tok.val) = 0 ∧ SameMemory s t) ∧
       (w * h ≠ 0 → 128 ≤ copySlots u → ∃ op, exec i.1 s = .next (blockOn .A u (.copySlot op)))) ∧
  -- R140: the pieces of a copy name, one after another, each byte of the places written, and read, one after another,
  -- each byte of the places read, where both are as long.
  (∀ (n : Nat) (dst src : List Seg),
     let bytes := fun (l : List Seg) => l.flatMap (fun g => (List.range g.len).map (g.key + ·))
     segBytes dst = segBytes src → dst.length + src.length ≤ n →
     bytes (zipSegs n dst src) = bytes dst ∧ bytes (sourcesOf (zipSegs n dst src)) = bytes src ∧
       ∀ g ∈ zipSegs n dst src, g.src.isSome = true ∧ g.data = []) ∧
  -- R142: the padded form of a block of 256 bytes takes PADSZ units of 32 bytes: its first 32 hold a bit for each
  -- byte, 1 for a nonzero one, and the nonzero bytes follow in order; it does not exist, PAD_OVERFLOW, exactly when
  -- they do not fit. Unpacking restores the block.
  (∀ (pad : Nat) (b : List Byte), 1 ≤ pad → b.length = 256 →
     (packBlock pad b = none ↔ pad * 32 - 32 < (b.filter (· != 0)).length) ∧
     (∀ o, packBlock pad b = some o → o.length = pad * 32 ∧ unpackBlock pad o = some b ∧
       (∀ i < 256, (o.getD (i / 8) 0).getLsbD (i % 8) = (b.getD i 0 != 0)) ∧
       (∀ i x, (b.filter (· != 0))[i]? = some x → o[32 + i]? = some x) ∧
       ∀ i, 32 + (b.filter (· != 0)).length ≤ i → i < pad * 32 → o[i]? = some 0))

/-- R146–R150: the digest instructions on a handle whose region serves them. DQRY, DQRYV and DSCAN are in flight on
the blocks that they name; DQPF asks for slots and nothing else; none writes memory. -/
def Obligations.DigestInstructions : Prop :=
  ∀ (y qual : BitVec 4) (d : Reg) (q : LqNum) (h : Handle) (cf b : Reg) (s : State) (p : Operand) (g : Region) (k : Nat),
    syncReady .A y s = true →
    let u := synced .A y s
    let n := (s.ra b).toNat
    let blocks := (List.range n).map (k + ·)
    regionOf u p = some (g, k) →
    (Names u h cf.val [d.val] p → holdsField g.kind (fieldOf qual.toNat) = true → fieldOf qual.toNat ≠ .sig →
      p.obj.inBounds p.crd 1 = true → checkQuery u [p] [blockSpan p g k 1] = .ok () →
      ∃ t f, exec (.aDqry y qual d h cf) s = .next (retireAt .A y t) ∧ t.flights = s.flights ++ [f] ∧ IssuedBy s f ∧
        f.job = .dqry (fieldOf qual.toNat) g.num k (elemInBlock p g) ∧ f.reg = (if d = 0 then none else some d.val) ∧ SameMemory s t) ∧
    (Names u h cf.val [b.val] p →
      (holdsField g.kind (fieldOf qual.toNat) = true → 0 < n → n ≤ queryLimit (fieldOf qual.toNat) → k + n ≤ g.size / g.blockBytes →
        p.obj.inBounds p.crd 1 = true → checkQuery u [p] [blockSpan p g k n] = .ok () → lqWait s.core q 1 = none →
        ∃ t f, exec (.aDqryv y qual q h cf b) s = .next (retireAt .A y t) ∧ t.flights = s.flights ++ [f] ∧ IssuedBy s f ∧
          f.job = .dqryv q.val (s.core.loadQueue q).tail (fieldOf qual.toNat) g.num blocks [] ∧
          (t.core.loadQueue q).items = (s.core.loadQueue q).items ++ [⟨none, none⟩] ∧ SameMemory s t) ∧
      (∃ t, exec (.aDqpf y h cf b) s = .next (retireAt .A y t) ∧ t.flights = s.flights ∧ t.entries = s.entries ∧ SameMemory s t) ∧
      (0 < n → n ≤ 65536 → k + n ≤ g.size / g.blockBytes → p.obj.inBounds p.crd 1 = true →
        checkSpans u [p] [blockSpan p g k n] = .ok () →
        ∃ t f, exec (.aDscan y h cf b) s = .next (retireAt .A y t) ∧ t.flights = s.flights ++ [f] ∧ IssuedBy s f ∧
          f.job = .dscan g.num blocks ∧ t.entries = s.entries ∧ SameMemory s t))

/-- Atomics, ASCAT and the near-memory instructions issue. -/
def Obligations.AtomicsIssue : Prop :=
  -- R151, R152, R163: an atomic whose operand passes the checks issues with its operation, its type and its operands
  -- narrowed to the element; a returning one makes its register wait. The element has not changed yet. That check 8
  -- asks for write permission alone is the model's choice (log 124).
  (∀ (y : BitVec 4) (d : Reg) (h : Handle) (cf b x : Reg) (ty : ElemCode) (o sc : BitVec 2) (s : State) (p : Operand),
     syncReady .A y s = true →
     let u := synced .A y s
     let lists : List (Instr × AtomOp × ElemCode × Option Reg × Reg) :=
       [(.aAaddI32 y h cf b o sc, .add, 2, none, 0), (.aAaddI64 y h cf b o sc, .add, 3, none, 0), (.aAaddF32 y h cf b o sc, .add, 5, none, 0),
        (.aAmin y h cf b ty o sc, .min, ty, none, 0), (.aAmax y h cf b ty o sc, .max, ty, none, 0), (.aAand y h cf b ty o sc, .and, ty, none, 0),
        (.aAor y h cf b ty o sc, .or, ty, none, 0), (.aAxor y h cf b ty o sc, .xor, ty, none, 0),
        (.aAfaddI32 y d h cf b o sc, .add, 2, some d, 0), (.aAfaddI64 y d h cf b o sc, .add, 3, some d, 0),
        (.aAfaddF32 y d h cf b o sc, .add, 5, some d, 0), (.aAxchg y d h cf b ty o sc, .xchg, ty, some d, 0),
        (.aAcas y d h cf b x ty o sc, .cas, ty, some d, x)]
     ∀ i ∈ lists, Names u h cf.val [b.val, x.val, d.val] p → p.obj.space ≠ 4 → p.obj.space ≠ 5 → elemBits p.obj.ty = elemBits i.2.2.1 →
       p.obj.inBounds p.crd 1 = true → checkSpans u [p] (p.run 1 true) = .ok () →
       ∃ t f, exec i.1 s = .next (retireAt .A y t) ∧ t.flights = s.flights ++ [f] ∧ IssuedBy s f ∧ f.write = true ∧ f.ord = o ∧ f.sco = sc ∧
         f.job = .atomic i.2.1 i.2.2.1 ((segsOfSpans u (p.run 1 true)).map (fun g =>
           ⟨g.key, narrowTo i.2.2.1 (s.ra b), narrowTo i.2.2.1 (s.ra i.2.2.2.2)⟩)) none ∧
         f.reg = i.2.2.2.1.bind (fun r => if r = 0 then none else some r.val) ∧ t.core.aregs = s.core.aregs ∧ SameMemory s t) ∧
  -- R153, R157: ASCAT pops an index vector and a value vector and is in flight to the elements they name; NMADD,
  -- NMMIN and NMMAX pop their operand vector. With no lanes each only pops, after the checks on its operand. What is
  -- checked with a count of 0 (log 226) and the order of ASCAT's lanes (log 133) are the model's choices.
  (∀ (y : BitVec 4) (h : Handle) (cf b : Reg) (ty : ElemCode) (s : State) (p : Operand) (v w : Vec) (rest : List Vec),
     syncReady .A y s = true →
     let u := synced .A y s
     let n := (s.ra b).toNat
     let m := if b = 0 then 64 else n
     let lanes := (List.range n).map (fun i => p.shifted (v.toList.getD i 0).toNat)
     let elems := fun (l : List Span) (x : Vec) => (segsOfSpans u l).zipIdx.map (fun e => (⟨e.1.key, zext (x.toList.getD e.2 0), 0⟩ : Elem))
     Names u h cf.val [b.val] p →
     (p.obj.space = 1 → elemBits p.obj.ty = elemBits ty → n ≤ 64 → s.core.sq.items = v :: w :: rest →
       (∀ q ∈ lanes, q.obj.inBounds q.crd 1 = true) → checkSpans u [p] (lanes.flatMap (fun q => q.run 1 true)) = .ok () →
       ∃ t, exec (.aAscat y h cf b ty) s = .next (retireAt .A y t) ∧ t.core.sq.items = rest ∧ SameMemory s t ∧
         (n = 0 → t.flights = s.flights) ∧
         (0 < n → ∃ f, t.flights = s.flights ++ [f] ∧ IssuedBy s f ∧
           f.job = .atomic .add ty (elems (lanes.flatMap (fun q => q.run 1 true)) w) none)) ∧
     (∀ i ∈ ([(.aNmaddI32 y h cf b, .add, 2), (.aNmaddF32 y h cf b, .add, 5), (.aNmmin y h cf b ty, .min, ty),
         (.aNmmax y h cf b ty, .max, ty)] : List (Instr × AtomOp × ElemCode)),
       p.obj.space = 3 → elemBits p.obj.ty = elemBits i.2.2 → m ≤ 64 → s.core.sq.items = v :: rest →
       (0 < m → p.obj.inBounds p.crd m = true →
         let l := (List.range m).flatMap (fun j => (p.shifted j).run 1 true)
         checkSpans u [p] l = .ok () →
         ∃ t f, exec i.1 s = .next (retireAt .A y t) ∧ t.core.sq.items = rest ∧ t.flights = s.flights ++ [f] ∧ IssuedBy s f ∧
           f.job = .nm i.2.1 i.2.2 (elems l v) none ∧ SameMemory s t) ∧
       (p.obj.inBounds p.crd (max 1 m) = false → exec i.1 s = .next (raiseTrap .A u (p.outOfBounds true))) ∧
       (m = 0 → p.obj.inBounds p.crd 1 = true → checkSpans u [p] [] = .ok () →
         ∃ t, exec i.1 s = .next (retireAt .A y t) ∧ t.core.sq.items = rest ∧ t.flights = s.flights ∧ SameMemory s t)))

/-- END, the fences and WAITA of the A-stream. -/
def Obligations.AEndFencesAndWaits : Prop :=
  -- R12, R134, R192, R226: END of the A-stream waits until what its stream has issued has committed, its operations
  -- of the archive units among it, and the core's tape writes (the model's choice: those issued before it, log 117);
  -- with nothing outstanding, nothing to report and room for its signals, it ends the stream.
  (∀ (y : BitVec 4) (s : State), syncReady .A y s = true → s.core.a.awaited = none →
     let u := synced .A y s
     let own := s.opsWhere (fun f => f.core == s.core.num && ((f.stream == .A && (!f.job.reads || f.job.pools)) || f.job == .tapeWrite))
     (own = [] → (∀ i < 34, s.core.report? i = none) → u.core.signalRoom .A (y.setWidth 2) = true →
       ∃ t, exec (.aEnd y) s = .next t ∧ t.core.a.status = .ended ∧ t.core.c = s.core.c ∧ t.core.x = s.core.x ∧ SameMemory s t) ∧
     (own ≠ [] → exec (.aEnd y) s = .next (blockOn .A (u.setStream .A { u.core.a with awaited := some own }) (.commits 0x2C own)))) ∧
  -- R109, R154, R158, R163: the A-stream's fences, with nothing to wait for and nothing to report, retire; FENCE
  -- makes its release and its acquire. With operations outstanding each waits for exactly those that it covers, a
  -- FENCE of `.sc` also for the `.sc` accesses before it (log 131: the model's choice).
  (∀ (y : BitVec 4) (o sc : BitVec 2) (s : State), syncReady .A y s = true → s.core.a.awaited = none →
     let u := synced .A y s
     let waits := fun (i : Instr) (opcode : Nat) (ops : List Nat) => ops ≠ [] →
       exec i s = .next (blockOn .A (u.setStream .A { u.core.a with awaited := some ops }) (.commits opcode ops))
     let nm := s.opsWhere (fun f => f.core == s.core.num && f.job.isNm)
     let fab := s.opsWhere (fun f => f.core == s.core.num && f.job.isFabric)
     let covered := s.opsWhere (fun f => f.core == s.core.num && ((o.getLsbD 1 && covers sc f.spaces) ||
       (o == 3 && sc != 0 && f.ord == 3 && f.sco != 0)))
     waits (.aFence y o sc) 0x54 covered ∧
     (covered = [] → (o.getLsbD 1 = true → s.core.report? 0 = none ∧ s.core.report? 32 = none) →
       ∃ t, exec (.aFence y o sc) s = .next (retireAt .A y t) ∧ SameMemory s t ∧
         t.syncclk = (if o.getLsbD 1 then s.syncclk + 1 else s.syncclk) ∧
         t.core.lastrel = (if o.getLsbD 1 then s.syncclk + 1 else s.core.lastrel) ∧
         t.core.lastacq = (if o.getLsbD 0 then t.syncclk else s.core.lastacq)) ∧
     waits (.aNmfence y) 0x74 nm ∧
     (nm = [] → s.core.report? 32 = none → ∃ t, exec (.aNmfence y) s = .next (retireAt .A y t) ∧ OnlyControl s t) ∧
     waits (.aFfence y) 0x87 fab ∧
     (fab = [] → s.core.report? 33 = none → ∃ t, exec (.aFfence y) s = .next (retireAt .A y t) ∧ OnlyControl s t)) ∧
  -- R155, R156: WAITA retires when the A-stream read its sector last and it has been written since, when what was
  -- read last has been lost, or when it has been woken; else, where the sector has not been written since that read,
  -- or that read was of other sectors, it takes an entry of its grove's watch table and waits.
  (∀ (y : BitVec 4) (h : Handle) (cf : Reg) (s : State) (p : Operand), syncReady .A y s = true →
     let u := synced .A y s
     let sector := ((segsOfSpans u (p.run 1 false)).head?.map (·.key)).getD 0 / 32
     Names u h cf.val [] p → p.obj.space = 1 ∨ p.obj.space = 2 ∨ p.obj.space = 6 → p.obj.inBounds p.crd 1 = true →
     checkSpans u [p] (p.run 1 false) = .ok () →
     (s.core.a.woken = true → exec (.aWaita y h cf) s = .next (retireAt .A y u)) ∧
     (∀ r, s.core.lastRead = some r → r.sectors.contains sector = true → r.written.contains sector = true →
       exec (.aWaita y h cf) s = .next (retireAt .A y u)) ∧
     (∀ r, s.core.lastRead = some r → r.lost = true → r.sectors = [] ∨ sector ∈ r.sectors → exec (.aWaita y h cf) s = .next (retireAt .A y u)) ∧
     (s.core.a.woken = false → (∀ r, s.core.lastRead = some r → r.lost = false ∧ (sector ∈ r.sectors → sector ∉ r.written)) → (∀ e ∈ s.watch, e.core ≠ s.core.num) →
       exec (.aWaita y h cf) s = .next (blockOn .A (watchSector u sector) (.waita (p.va / 32 * 32) sector)) ∧
       (∃ e ∈ (watchSector u sector).watch, e.core = s.core.num ∧ e.sector = sector ∧ e.woken = false)))

/-- EMBAG and KVATT: their issue, the work of the units, and the values that fill their entries. -/
def Obligations.ArchiveUnitsIssue : Prop :=
  -- R159–R161: EMBAG reserves an entry for each bag and KVATT its entries, popping its query, in one step; both are
  -- then in flight and write no memory. More entries than slipmax allows raise ILLEGAL_SEQUENCE. What is read of a
  -- bag's lists at issue is the model's choice (log 143).
  (∀ (y : BitVec 4) (q : LqNum) (ha : Handle) (acf : ShortReg) (hb : Handle) (bcf n : ShortReg) (s : State) (a b : Operand),
     syncReady .A y s = true →
     let u := synced .A y s
     let k := (s.ra (Fin.ofNat 32 n.val)).toNat
     let d := a.obj.dims.getD 1 0 / 2
     let entries := (d + 63) / 64 + 1
     let pops := (d + 127) / 128
     (Names2 u ha acf.val hb bcf.val [n.val] a b → embagOk a.obj b.obj = true → 0 < k → k ≤ 64 → a.obj.inBounds a.crd 1 = true →
       b.obj.inBounds b.crd 1 = true → checkSpans u [a, b] (b.run 1 false) = .ok () →
       (s.core.slipmax.toNat < k → exec (.aEmbag y q ha acf hb bcf n) s = .next (raiseTrap .A u (illegalSequence .A u))) ∧
       (k ≤ s.core.slipmax.toNat → lqWait s.core q k = none →
         ∃ t f, exec (.aEmbag y q ha acf hb bcf n) s = .next (retireAt .A y t) ∧ t.flights = s.flights ++ [f] ∧ IssuedBy s f ∧
           f.job = .embag q.val (s.core.loadQueue q).tail a.obj (a.crd.getD 0 0) (a.crd.getD 1 0) b.obj (b.crd.getD 0 0) k none false
             (hndWord hb.val (some b.obj)) ∧
           (t.core.loadQueue q).items = (s.core.loadQueue q).items ++ List.replicate k ⟨none, none⟩ ∧ SameMemory s t)) ∧
     (Names2 u ha acf.val hb bcf.val [n.val, n.val + 1] a b → kvattOk a.obj b.obj a.crd k = true → b.obj.inBounds b.crd 1 = true →
       checkSpans u [a, b] (b.run (min ((k + 15) / 16) (b.obj.innerDim - b.crd.getD 0 0)) false) = .ok () →
       (s.core.slipmax.toNat < entries → exec (.aKvatt y q ha acf hb bcf n) s = .next (raiseTrap .A u (illegalSequence .A u))) ∧
       (entries ≤ s.core.slipmax.toNat → pops ≤ s.core.sq.items.length → lqWait s.core q entries = none →
       ∃ t f, exec (.aKvatt y q ha acf hb bcf n) s = .next (retireAt .A y t) ∧ t.flights = s.flights ++ [f] ∧ IssuedBy s f ∧
         f.job = .kvatt q.val (s.core.loadQueue q).tail a.obj b.obj (b.crd.getD 0 0) k ((s.ra (Fin.ofNat 32 (n.val + 1))).setWidth 32)
           (queryElems (s.core.sq.items.take pops) d) none false (hndWord hb.val (some b.obj)) ∧
         (t.core.loadQueue q).items = (s.core.loadQueue q).items ++ List.replicate entries ⟨none, none⟩ ∧
         t.core.sq.items = s.core.sq.items.drop pops ∧ SameMemory s t))) ∧
  -- R159, R320–R322, R328: the pooling unit of a chip, with its first operation, claims the granule of its next row,
  -- then folds the item with one rounding an element, marking its bag where the row is uncorrectable; when it has no
  -- item left its partial returns. With the last partial the entries are filled: an unmarked bag's with the sum of
  -- the twelve partials in chip order, a marked bag's with its error. How a claim and a marked bag's positions go is
  -- the model's choice (logs 145, 203).
  (∀ (op chip : Nat) (s : State) (f : Flight) (q : LqNum) (seq : BitVec 32) (t l : Shape) (row col first bags : Nat) (p : Pool) (lh : Word),
     s.flight? op = some f → mayPerform s f = true → f.core = s.core.num → f.orphan = false →
     f.job = .embag q.val seq t row col l first bags (some p) false lh →
     let u : UnitEntry := ⟨chip, .pool, op⟩
     let n := t.dims.getD 1 0 - col
     let job := fun (r : Pool) => Job.embag q.val seq t row col l first bags (some r) false lh
     let mine := p.items.filter (fun i => i.chip == chip)
     p.left.contains chip = true → atUnit s u = true → (unitQueue s chip .pool).head? = some u →
     (∀ i rest, mine = i :: rest →
       (p.claimed.contains chip = false → ∃ v, exec (.poolPartialReturn ⟨op, chip⟩) s = .next v ∧ SameMemory s v ∧
         v.claims = s.claims ++ [{ id := s.nextId, chip := chip, op := op, granules := [i.key / 1024], due := mine.length }] ∧
         ∃ g, v.flight? op = some g ∧ g.job = job { p with claimed := chip :: p.claimed }) ∧
       (p.claimed.contains chip = true → ∃ v g r, exec (.poolPartialReturn ⟨op, chip⟩) s = .next v ∧ SameMemory s v ∧ v.flight? op = some g ∧ g.job = job r ∧
         r.items = p.items.erase i ∧ r.left = p.left ∧ r.claimed = p.claimed.filter (· != chip) ∧
         r.part chip i.bag n = List.zipWith (fun a x => rn32 (Sys2Proof.Machine.Num.add 0 (ofFp32 a) (Sys2Proof.Machine.Num.mul (ofFp32 i.w) (ofFp32 x)))) (p.part chip i.bag n)
           ((List.range n).map (fun j => rn32 (elemNum t.ty (s.word (i.key + j * elemBytes t.ty) (elemBytes t.ty))))) ∧
         (∀ c b, (c, b) ≠ (chip, i.bag) → r.part c b n = p.part c b n) ∧
         (s.poisoned i.key (n * elemBytes t.ty) = false → s.deadChips.contains chip = false → r.marks = p.marks) ∧
         (s.poisoned i.key (n * elemBytes t.ty) = true → ∃ m ∈ r.marks, m.1 = i.bag))) ∧
     (mine = [] → p.left.erase chip ≠ [] → ∃ v g, exec (.poolPartialReturn ⟨op, chip⟩) s = .next v ∧ SameMemory s v ∧ v.flight? op = some g ∧
       g.job = job { p with left := p.left.erase chip }) ∧
     (mine = [] → p.left.erase chip = [] → bags ≤ 64 → n ≤ 64 → (∀ x ∈ p.parts, x.2.2.length = n) → ∃ v, exec (.poolPartialReturn ⟨op, chip⟩) s = .next v ∧
       SameMemory s v ∧ v.flight? op = none ∧ (∀ x ∈ v.units, x.op ≠ op) ∧
       ∀ b < bags, ∀ i e, i = (seq + BitVec.ofNat 32 b - (s.core.loadQueue q).head).toNat → (s.core.loadQueue q).items[i]? = some e →
         ∃ r, (v.core.loadQueue q).items[i]? = some r ∧
           (p.marks.find? (fun m => m.1 == b) = none → r.error = none ∧ ∃ w : Vec, r.data = some w ∧ ∀ j : Fin 64, j.val < n →
             w[j] = ((List.range 12).filterMap (fun c => p.parts.find? (fun x => x.1 == c && x.2.1 == b))).foldl (fun a x => add32 a (x.2.2.getD j.val 0)) 0) ∧
           (∀ m, p.marks.find? (fun m => m.1 == b) = some m → ∃ d, r.error = some d ∧ d.info.cause = m.2.cause ∧ d.pc = f.pc))) ∧
  -- R160, R320, R322, R326, R328: the attention unit of a chip, with its first operation, claims every granule of its
  -- tokens, takes them one by one in ascending order, each by the steps of R326, and then sends its partial. With the
  -- last partial the entries are filled: with the output, M and L of the partials merged in chip order, or, after an
  -- error, each with it.
  (∀ (op chip : Nat) (s : State) (f : Flight) (q : LqNum) (seq : BitVec 32) (c l : Shape) (first m : Nat) (sc : Lane) (qs : List (BitVec 16)) (p : Pass) (lh : Word),
     s.flight? op = some f → mayPerform s f = true → f.core = s.core.num → f.orphan = false →
     f.job = .kvatt q.val seq c l first m sc qs (some p) false lh →
     let u : UnitEntry := ⟨chip, .attention, op⟩
     let d := c.dims.getD 1 0 / 2
     let job := fun (r : Pass) => Job.kvatt q.val seq c l first m sc qs (some r) false lh
     let mine := p.tokens.filter (fun i => i.chip == chip)
     let begun := p.parts.any (fun x => x.1 == chip)
     let half := fun (k : Nat) => (List.range d).map (fun j => rn32 (elemNum c.ty (s.word (k + j * elemBytes c.ty) (elemBytes c.ty))))
     p.left.contains chip = true → atUnit s u = true → (unitQueue s chip .attention).head? = some u →
     (begun = false → ∃ v g r, exec (.attentionPartialReturn ⟨op, chip⟩) s = .next v ∧ SameMemory s v ∧ v.flight? op = some g ∧ g.job = job r ∧
       v.claims = s.claims ++ [{ id := s.nextId, chip := chip, op := op, granules := (mine.map (·.key / 1024)).eraseDups }] ∧
       r.tokens = p.tokens ∧ r.left = p.left ∧ r.part chip d = (List.replicate d 0, 0xFF800000, 0)) ∧
     (∀ i rest, begun = true → mine = i :: rest → ∃ v g r, exec (.attentionPartialReturn ⟨op, chip⟩) s = .next v ∧ SameMemory s v ∧ v.flight? op = some g ∧
       g.job = job r ∧ r.tokens = p.tokens.erase i ∧ r.left = p.left ∧
       r.part chip d = tokenStep sc qs (half i.key) (half (i.key + d * elemBytes c.ty)) (p.part chip d) ∧
       (s.poisoned i.key (2 * (d * elemBytes c.ty)) = false → s.deadChips.contains chip = false → r.error = p.error) ∧
       (s.poisoned i.key (2 * (d * elemBytes c.ty)) = true → r.error.isSome = true)) ∧
     (begun = true → mine = [] → p.left.erase chip ≠ [] → ∃ v g, exec (.attentionPartialReturn ⟨op, chip⟩) s = .next v ∧ SameMemory s v ∧
       v.flight? op = some g ∧ g.job = job { p with left := p.left.erase chip }) ∧
     (begun = true → mine = [] → p.left.erase chip = [] → d ≤ 512 → ∃ v, exec (.attentionPartialReturn ⟨op, chip⟩) s = .next v ∧ SameMemory s v ∧
       v.flight? op = none ∧ (∀ x ∈ v.units, x.op ≠ op) ∧
       ∀ b < (d + 63) / 64 + 1, ∀ i e, i = (seq + BitVec.ofNat 32 b - (s.core.loadQueue q).head).toNat → (s.core.loadQueue q).items[i]? = some e →
         ∃ r, (v.core.loadQueue q).items[i]? = some r ∧
           (p.error = none → r = ⟨some (if b < (d + 63) / 64 then vecOfLanes (((mergePass d p).1.drop (64 * b)).take 64)
             else vecOfLanes [(mergePass d p).2.1, (mergePass d p).2.2]), none⟩) ∧
           (∀ t, p.error = some t → ∃ x, r.error = some x ∧ x.info.cause = t.cause ∧ x.pc = f.pc))) ∧
  -- R160, R326: a token step and the merge, in FP32 with one rounding a step: sc = RN(c · q·k), m' = max(m, sc), and
  -- acc and l are scaled by exp(m − m') before the token's exp(sc − m') is added; a first token at −∞ leaves the
  -- scale at 1 and adds nothing. Merging scales each chip's partial by exp(m − M), adds in chip order, and divides by
  -- L.
  (∀ (c : Lane) (qs : List (BitVec 16)) (key value acc : List Lane) (m l : Lane) (d : Nat) (p : Pass) (x : Nat × List Lane × Lane × Lane)
       (rest : List (Nat × List Lane × Lane × Lane)),
     (let dot := (List.zip qs key).foldl (fun (t : Sys2Proof.Machine.Num) q => Sys2Proof.Machine.Num.add 0 t (Sys2Proof.Machine.Num.mul (decodeFloat bf16 q.1.toNat) (ofFp32 q.2))) (.fin false 0 0 false)
      let sc := rn32 (Sys2Proof.Machine.Num.mul (ofFp32 c) dot)
      let n := max32 m sc
      let r := tokenStep c qs key value (acc, m, l)
      r.2.1 = n ∧
      (n = 0xFF800000 → r.1 = List.zipWith (fun a v => add32 (mul32 a 0x3F800000) (mul32 0 v)) acc value ∧ r.2.2 = add32 (mul32 l 0x3F800000) 0) ∧
      (n ≠ 0xFF800000 →
        r.1 = List.zipWith (fun a v => add32 (mul32 a (rn32 (Sys2Proof.Machine.Num.add 0 (ofFp32 m) (ofFp32 n).neg).exp)) (mul32 (rn32 (Sys2Proof.Machine.Num.add 0 (ofFp32 sc) (ofFp32 n).neg).exp) v)) acc value ∧
        r.2.2 = add32 (mul32 l (rn32 (Sys2Proof.Machine.Num.add 0 (ofFp32 m) (ofFp32 n).neg).exp)) (rn32 (Sys2Proof.Machine.Num.add 0 (ofFp32 sc) (ofFp32 n).neg).exp))) ∧
     ((List.range 12).filterMap (fun q => p.parts.find? (fun y => y.1 == q)) = x :: rest →
       ∃ (top : List Lane) (bot : Lane), (mergePass d p).2.1 = (x :: rest).foldl (fun (a : Lane) y => max32 a y.2.2.1) x.2.2.1 ∧
         (mergePass d p).2.2 = bot ∧ (mergePass d p).1 = top.map (fun o => rn32 (Sys2Proof.Machine.Num.div (ofFp32 o) (ofFp32 bot))) ∧
         bot = (x :: rest).foldl (fun (a : Lane) y => add32 a (mul32 y.2.2.2 (expDiff y.2.2.1 (mergePass d p).2.1))) 0 ∧
         ((∀ y ∈ x :: rest, y.2.1.length = d) → top.length = d ∧
           ∀ j < d, top.getD j 0 = (x :: rest).foldl (fun (a : Lane) y => add32 a (mul32 (y.2.1.getD j 0) (expDiff y.2.2.1 (mergePass d p).2.1))) 0)))

/-- PUT, GET and the remote atomics issue over the fabric, or report that there is no route. -/
def Obligations.FabricIssue : Prop :=
  -- R162, R163, R363: PUT and GET, with the REMOTE object on the far side, issue on their token, which they set to 0.
  -- With the device reachable, itself or over a route that is up, what they ask leaves for it in packets of at most a
  -- frame's payload, in order, the last of a PUT marked as such; the operation is in flight for the answers. A PUT
  -- out of the host's memory sends when it has read it. Without a route nothing leaves, and PROGRAM_ADDRESS is to be
  -- reported. One that must follow an operation of its core, or what its core has still to send to the device, is in
  -- flight and has still to be sent. No byte of this device changes. How the bytes are divided into packets and that
  -- a PUT is performed with its last are the model's choices (log 227), and that a PUT reads its bytes as it is sent
  -- (log 117).
  (∀ (y : BitVec 4) (tok : ShortReg) (hd : Handle) (dcf : ShortReg) (hs : Handle) (scf len : ShortReg) (wd : BitVec 16) (s : State)
       (d q : Operand), syncReady .A y s = true →
     let u := synced .A y s
     let w := (s.ra (Fin.ofNat 32 len.val)).toNat
     ∀ i ∈ ([(.aPut y tok hd dcf hs scf len wd, false, true), (.aPut2d y tok hd dcf hs scf len wd, true, true),
         (.aGet y tok hd dcf hs scf len wd, false, false), (.aGet2d y tok hd dcf hs scf len wd, true, false)] : List (Instr × Bool × Bool)),
       let h := if i.2.1 then (s.ra (Fin.ofNat 32 (len.val + 1))).toNat else 1
       let far := if i.2.2 then d else q
       let near := if i.2.2 then q else d
       let dev := far.obj.dev % 2 ^ 14
       let src := if i.2.2 then segsOfSpans u (rowSpans q w h false) else remoteSegs (rowSpans q w h false)
       let dst := if i.2.2 then remoteSegs (rowSpans d w h true) else segsOfSpans u (rowSpans d w h true)
       let todo := zipSegs (dst.length + src.length) dst src
       let puts := putAsks true (todo.flatMap (fun g => putChunks (s.payloadTo dev) (g.key - remoteKey 0) (g.bytesOf s)))
       let host := (todo.head?.bind (·.src)).map spaceOfKey = some 5
       let free := engineAfter u 0 0 [4] = [] ∧ ∀ g ∈ s.flights, g.core = s.core.num → deviceOf g.hnd = dev →
         g.unsent = none ∧ (g.todo = [] ∨ ∀ a w, g.job ≠ .put a w)
       let gets := getAsks (s.payloadTo dev) ((rowSpans q w h false).map (fun sp => (sp.va, sp.len)))
       let leaves := fun (t : State) (l : List RemoteAsk) =>
         let packets := l.map (Packet.access s.devid s.core.num s.nextId)
         if dev = s.devid then t.inbox = s.inbox ++ packets ∧ t.outputs = s.outputs
         else t.inbox = s.inbox ∧ ∃ k, (s.routeTo dev).map (·.num) = some k ∧ ∃ out : List (Nat × Path × Packet),
           out.map (·.2.2) = packets ∧ t.outputs = s.outputs ++ out.map (fun x => .frame k x.1 x.2.1 x.2.2)
       Names2 u hd dcf.val hs scf.val (if i.2.1 then [len.val, len.val + 1] else [len.val]) d q → RegsFree u [tok.val] →
       fabricRefused i.2.1 i.2.2 d.obj q.obj (w * h) = false →
       q.obj.inBounds q.crd 1 = true → inFootprint q w h = true → d.obj.inBounds d.crd 1 = true → inFootprint d w h = true →
       checkSpans u [near] (if i.2.2 then rowSpans q w h false else rowSpans d w h true) = .ok () →
       (w * h = 0 → ∃ t, exec i.1 s = .next (retireAt .A y t) ∧ t.flights = s.flights ∧ t.outputs = s.outputs ∧
         t.ra (Fin.ofNat 32 tok.val) = 0 ∧ SameMemory s t) ∧
       (w * h ≠ 0 → 128 ≤ copySlots u → ∃ op, exec i.1 s = .next (blockOn .A u (.copySlot op))) ∧
       (w * h ≠ 0 → copySlots u < 128 → s.IdsOk → ¬free →
         ∃ t f a, exec i.1 s = .next (retireAt .A y t) ∧ t.flights = s.flights ++ [f] ∧ IssuedBy s f ∧ f.unsent = some a ∧ f.todo = todo ∧
           f.after = engineAfter u 0 0 [4] ∧ f.expires = some (s.now + boundCycles wd) ∧ t.ra (Fin.ofNat 32 tok.val) = 0 ∧ leaves t [] ∧ SameMemory s t) ∧
       (w * h ≠ 0 → copySlots u < 128 → s.IdsOk → free →
         (dev = s.devid ∨ (s.routeTo dev).isSome = true → (∀ k n, s.poisoned k n = false) →
           ∃ t f, exec i.1 s = .next (retireAt .A y t) ∧ t.flights = s.flights ++ [f] ∧ IssuedBy s f ∧ f.expires = some (s.now + boundCycles wd) ∧
             f.reg = (if tok = 0 then none else some tok.val) ∧ f.hnd = hndWord far.hnd (some far.obj) ∧ f.error = none ∧
             t.ra (Fin.ofNat 32 tok.val) = 0 ∧ SameMemory s t ∧ f.unsent = none ∧
             (i.2.2 = true → ¬host → f.job = .put [segBytes todo] 0 ∧ f.todo = [] ∧ leaves t (puts.map (·.2.2))) ∧
             (i.2.2 = true → host → f.job = .put [] 0 ∧ f.todo = todo ∧ leaves t []) ∧
             (i.2.2 = false → f.job = .get (gets.map (·.2.1)) 0 ∧ f.todo = takeSegs (gets.map (·.2.1)).sum todo ∧ leaves t (gets.map (·.2.2)))) ∧
         (dev ≠ s.devid → s.routeTo dev = none → ¬host → (∀ k n, s.poisoned k n = false) → s.core.report? tok.val = none →
           ∃ t, exec i.1 s = .next (retireAt .A y t) ∧ t.outputs = s.outputs ∧ t.inbox = s.inbox ∧ SameMemory s t ∧
             (i.2.2 = true → t.flights = s.flights ∧ ∃ r ∈ t.core.reports, r.1 = tok.val ∧ r.2.info.cause = .programAddress) ∧
             (i.2.2 = false → ∃ f e, t.flights = s.flights ++ [f] ∧ f.job = .get [] 0 ∧ f.todo = [] ∧ f.error = some e ∧ e.cause = .programAddress)))) ∧
  -- R162: the packets of a PUT carry its bytes in order, each at its place; those of a GET ask for all its ranges in
  -- order. Neither asks for more at once than a frame carries. How a GET is divided is the model's choice (log 227).
  (∀ (cap va : Nat) (data : List Byte) (l : List (Nat × Nat)), 0 < cap →
     let cs := putChunks cap va data
     cs.flatMap (·.2) = data ∧ (∀ c ∈ cs, c.2.length ≤ cap) ∧ (∀ i c, cs[i]? = some c → c.1 = va + cap * i) ∧
     (∀ last, (putAsks last cs).map (·.2.2) = cs.zipIdx.map (fun c => RemoteAsk.put [c.1] (last && decide (c.2 + 1 = cs.length)))) ∧
     (64 ≤ cap → cap % 32 = 0 → (∀ a ∈ getAsks cap l, a.2.1 ≤ cap) ∧
       ((getAsks cap l).flatMap (fun a => match a.2.2 with
         | .get rs => rs.flatMap (fun r => (List.range r.2).map (r.1 + ·))
         | _ => [])) = l.flatMap (fun r => (List.range r.2).map (r.1 + ·)))) ∧
  -- R130, R162, R163: a remote atomic sends its operation and its operands, narrowed to the element, to its device,
  -- itself or over a route that is up, and is in flight; one that must follow an operation of its core, or what its
  -- core has still to send to the device, is in flight and has still to be sent; without a route it reports
  -- PROGRAM_ADDRESS as a deferred error at its register, or at the next fence, and its register holds a value that
  -- the spec leaves open (log 4: the model's choice).
  (∀ (y : BitVec 4) (d : Reg) (h : Handle) (cf b x : Reg) (ty : ElemCode) (o sc : BitVec 2) (s : State) (p : Operand),
     syncReady .A y s = true →
     let u := synced .A y s
     ∀ i ∈ ([(.aRadd y h cf b ty, .add, none, 0, 0, 2), (.aRfadd y d h cf b ty, .add, some d, 0, 0, 2),
         (.aRcas y d h cf b x ty o sc, .cas, some d, x, o, sc)] : List (Instr × AtomOp × Option Reg × Reg × BitVec 2 × BitVec 2)),
       let dev := p.obj.dev % 2 ^ 14
       let after := engineAfter u i.2.2.2.2.1 i.2.2.2.2.2 [4]
       let free := after = [] ∧ ∀ g ∈ s.flights, g.core = s.core.num → deviceOf g.hnd = dev → g.unsent = none ∧ (g.todo = [] ∨ ∀ a w, g.job ≠ .put a w)
       let asks : Packet := .access s.devid s.core.num s.nextId
         (.atomic i.2.1 ty p.va (narrowTo ty (s.ra b)) (narrowTo ty (s.ra i.2.2.2.1)) i.2.2.1.isSome)
       Names u h cf.val [b.val, x.val, d.val] p → p.obj.space = 4 → elemBits p.obj.ty = elemBits ty → p.obj.inBounds p.crd 1 = true → s.IdsOk →
       (¬free → ∃ t f a, exec i.1 s = .next (retireAt .A y t) ∧ t.flights = s.flights ++ [f] ∧ IssuedBy s f ∧ f.job = .remoteAtomic ty ∧
         f.unsent = some a ∧ f.after = after ∧ t.core.aregs = s.core.aregs ∧ t.inbox = s.inbox ∧ t.outputs = s.outputs ∧ SameMemory s t) ∧
       (free → dev = s.devid ∨ (s.routeTo dev).isSome = true →
         ∃ t f, exec i.1 s = .next (retireAt .A y t) ∧ t.flights = s.flights ++ [f] ∧ IssuedBy s f ∧ f.job = .remoteAtomic ty ∧
           f.reg = i.2.2.1.bind (fun r => if r = 0 then none else some r.val) ∧ t.core.aregs = s.core.aregs ∧ SameMemory s t ∧
           (if dev = s.devid then t.inbox = s.inbox ++ [asks] ∧ t.outputs = s.outputs
            else ∃ k n p, (s.routeTo dev).map (·.num) = some k ∧ t.outputs = s.outputs ++ [.frame k n p asks])) ∧
       (free → dev ≠ s.devid → s.routeTo dev = none → s.core.report? 33 = none →
         ∃ t, exec i.1 s = .next (retireAt .A y t) ∧ t.flights = s.flights ∧ t.outputs = s.outputs ∧ SameMemory s t ∧
           (∀ r, r ≠ d → t.ra r = s.ra r) ∧ ∃ r ∈ t.core.reports, r.2.info.cause = .programAddress))

/-- R164, R344, R345, R367: a collective over an open group takes the group's next operation number, sends to each
other member that can be reached the runs which that member takes of its contribution, in their wire form, and is in
flight with its own contribution; hN has not changed yet: but for the group's NEXT and the drop counters no byte of
memory has. A closing group raises ILLEGAL_SEQUENCE, and a ninth collective waits. How the runs of a member are
numbered (log 110), that packets held for the number are used now (log 219), and that a collective which must follow
an operation of its core waits as for a slot (log 235) are the model's choices. -/
def Obligations.CollectivesIssue : Prop :=
  ∀ (y qual : BitVec 4) (d : Reg) (h : Handle) (cf b x : Reg) (ty : ElemCode) (s : State) (p : Operand) (g : Group),
    syncReady .A y s = true →
    let u := synced .A y s
    let gn := (s.ra b).toNat
    let ms := (s.ra x).toNat
    let e := p.obj.innerDim - p.crd.getD 0 0
    let own := (segsOfSpans u (p.run e false)).flatMap (fun q => (List.range (q.len / 4)).map (fun i => (BitVec.ofNat 32 (s.word (q.key + 4 * i) 4) : Lane)))
    let run := fun (r : Nat) => encodeRun ty g.spn ((own.drop (32 * r)).take (min 32 (e - 32 * r)))
    ∀ i ∈ ([(.aAllred y qual d h cf b x ty, 0), (.aRedscat y qual d h cf b x ty, 1), (.aAllgath y qual d h cf b x ty, 2),
        (.aBcast y qual d h cf b x ty, 3)] : List (Instr × Nat)),
      Names u h cf.val [b.val, x.val, d.val] p → s.group? (gn % 4096) = some g →
      collectiveRefused p.obj i.2 (qual == 1) ty gn ms (some g) e = false →
      (g.closing = true → exec i.1 s = .next (raiseTrap .A u (illegalSequence .A u))) ∧
      (g.closing = false → p.obj.inBounds p.crd 1 = true → checkSpans u [p] (p.run e false ++ p.run e true) = .ok () →
        (8 ≤ collSlots u ∨ g.low + 255 < g.next ∨ 2 ^ 31 ≤ g.next ∨ g.state ≠ .open ∨ engineAfter u 0 0 [4] ≠ [] →
          exec i.1 s = .next (blockOn .A u (.copySlot (0x88 + i.2)))) ∧
        (collSlots u < 8 → g.next ≤ g.low + 255 → g.next < 2 ^ 31 → g.state = .open → engineAfter u 0 0 [4] = [] → s.IdsOk →
          ∃ t, exec i.1 s = .next (retireAt .A y t) ∧ (∃ k, t.group? g.num = some k ∧ k.next = g.next + 1) ∧ t.core.aregs = s.core.aregs ∧
            (∀ k, Memory.get t.mem k ≠ Memory.get s.mem k →
              (groupKey g.num + 0x10 ≤ k ∧ k < groupKey g.num + 0x14) ∨ (hwinKey 0 0xFFC00 ≤ k ∧ k < hwinKey 0 0xFFC28)) ∧
            (∃ f ∈ t.flights, f.id = s.nextId ∧ IssuedBy s f ∧ f.reg = (if d = 0 then none else some d.val) ∧
              ∃ c, f.job = .collective c ∧ c.group = g.num ∧ c.num = g.next ∧ c.session = g.session ∧ c.kind = i.2 ∧ c.wire = ty ∧
                c.spn = g.spn ∧ c.m = g.m ∧ c.self = g.self ∧ c.count = e ∧ c.pieces = segsOfSpans u (p.run e true) ∧ c.mask = none ∧
                c.deadline = (if qual = 1 then some (s.now + 850000 * ms) else none)) ∧
            ((∀ k n, s.poisoned k n = false) → ∀ m ∈ g.members.zipIdx, m.2 ≠ g.self → m.1 ≠ s.devid → (s.routeTo m.1).isSome = true →
              ∀ r ∈ runsOf (partOf i.2 g.m e g.self m.2), ∃ k n q first count num data, (s.routeTo m.1).map (·.num) = some k ∧
                (.frame k n q (.contribution s.devid g.session g.num g.next g.self ty g.spn first count num data true) : Output) ∈ t.outputs ∧
                first ≤ r ∧ r < first + count ∧ data = ((List.range count).map (fun j => run (first + j))).flatten)))

/-- What the A-stream's instructions leave unchanged. -/
def Obligations.AStreamFrames : Prop :=
  -- Whatever happens to them, the A-stream's arithmetic and immediates change no register but aD, and owe no report
  -- they have raised: everything else of the state, memory with it, is as before.
  (∀ (y : BitVec 4) (d a b : Reg) (i : BitVec 32) (n : BitVec 6) (s t : State),
     ∀ j ∈ ([.aAdd y d a b, .aSub y d a b, .aAnd y d a b, .aOr y d a b, .aXor y d a b, .aShl y d a b, .aShr y d a b, .aSra y d a b,
         .aMul y d a b, .aMin y d a b, .aMax y d a b, .aSeq y d a b, .aSne y d a b, .aSlt y d a b, .aSltu y d a b, .aAddi y d a i,
         .aAndi y d a i, .aShli y d a n, .aShri y d a n, .aLi y d i, .aLui y d i] : List Instr),
       exec j s = .next t →
         t = { s with core := { s.core.controlOf t.core with aregs := t.core.aregs, reports := t.core.reports } } ∧
           (∀ r, r ≠ d → t.ra r = s.ra r) ∧ SameMemory s t) ∧
  -- Issuing a load or a store changes no byte of memory and no register: not a C-, A- or X-stream register, not a
  -- vector, predicate, tile or accumulator, not a handle or a translation.
  (∀ (y : BitVec 4) (q : LqNum) (d : Reg) (h : Handle) (cf b : Reg) (ty : ElemCode) (o sc : BitVec 2) (s t : State),
     ∀ j ∈ ([.aLd8 y q h cf b ty o sc, .aLd16 y q h cf b ty o sc, .aLd32 y q h cf b ty o sc, .aLd64 y q h cf b ty o sc, .aLdt y q h cf,
         .aLda8 y d h cf ty o sc, .aLda16 y d h cf ty o sc, .aLda32 y d h cf ty o sc, .aLda64 y d h cf ty o sc,
         .aSt8 y h cf b ty o sc, .aSt16 y h cf b ty o sc, .aSt32 y h cf b ty o sc, .aSt64 y h cf b ty o sc, .aStt y h cf,
         .aSta8 y h cf b ty o sc, .aSta16 y h cf b ty o sc, .aSta32 y h cf b ty o sc, .aSta64 y h cf b ty o sc] : List Instr),
       exec j s = .next t →
         SameMemory s t ∧ t.core.sregs = s.core.sregs ∧ t.core.aregs = s.core.aregs ∧ t.core.xregs = s.core.xregs ∧ t.core.v = s.core.v ∧
         t.core.p = s.core.p ∧ t.core.flags = s.core.flags ∧ t.core.bt = s.core.bt ∧ t.core.tiles = s.core.tiles ∧
         t.core.accs = s.core.accs ∧ t.core.shapes = s.core.shapes ∧ t.core.handles = s.core.handles ∧ t.core.ltt = s.core.ltt ∧
         t.core.vq = s.core.vq ∧ t.core.bqa = s.core.bqa ∧ t.core.bqx = s.core.bqx ∧ t.core.fq = s.core.fq ∧ t.core.tape = s.core.tape ∧
         t.core.banks = s.core.banks ∧ t.core.gen = s.core.gen ∧ t.core.ldcnt = s.core.ldcnt ∧ t.others.map (·.num) = s.others.map (·.num)) ∧
  -- Whatever happens to them, the A-stream's branches and NOP change the control state of their core, and may make a
  -- report that was owed; LDI, OPUSH, VQPOP and BRQ change beyond that the queue that they name, and VQPOP its
  -- register.
  (∀ (y q : BitVec 4) (l : LqNum) (a b : Reg) (o : BitVec 16) (s t : State),
     (∀ j ∈ ([.aNop y, .aB y o, .aBeq y a b o, .aBne y a b o, .aBlt y a b o, .aBge y a b o, .aBltu y a b o, .aBgeu y a b o] : List Instr),
       exec j s = .next t → t = { s with core := { s.core.controlOf t.core with reports := t.core.reports } }) ∧
     (exec (.aBrq y q o) s = .next t →
       t = { s with core := { s.core.controlOf t.core with reports := t.core.reports, bqx := t.core.bqx, ldcnt := t.core.ldcnt } }) ∧
     (exec (.aOpush y a) s = .next t → t = { s with core := { s.core.controlOf t.core with reports := t.core.reports, bqa := t.core.bqa } }) ∧
     (exec (.aVqpop y a) s = .next t → (∀ r, r ≠ a → t.ra r = s.ra r) ∧ t = { s with core :=
       { s.core.controlOf t.core with reports := t.core.reports, vq := t.core.vq, aregs := t.core.aregs, ldcnt := t.core.ldcnt } }) ∧
     (exec (.aLdi y l a) s = .next t → (∀ k, k ≠ l → t.core.loadQueue k = s.core.loadQueue k) ∧
       t = { s with core := { s.core.controlOf t.core with reports := t.core.reports, lq := t.core.lq } })) ∧
  -- Whatever happens to them, the A-stream's versioned loads, copies, digest instructions, atomics, archive-unit and
  -- fabric instructions, fences and WAITA leave their core as it was but for its control state, its reports, the sync
  -- clock's copies, the record of what it read last and, where the instruction names them, its register, the queue
  -- that it pops and the queues that it reserves in. No byte of memory changes, but for a collective: there those of
  -- its group's NEXT and of the drop counters may.
  (∀ (y qual : BitVec 4) (q : LqNum) (d : Reg) (tok : ShortReg) (h h2 : Handle) (cf b x : Reg) (c1 c2 c3 : ShortReg) (ty : ElemCode)
       (o sc : BitVec 2) (wd : BitVec 16) (s t : State),
     let tk : Option Reg := some (Fin.ofNat 32 tok.val)
     let none' : List (Instr × Option Reg × Bool × Bool × Bool) := [
       (.aAaddI32 y h cf b o sc, none, false, false, false), (.aAaddI64 y h cf b o sc, none, false, false, false),
       (.aAaddF32 y h cf b o sc, none, false, false, false), (.aAmin y h cf b ty o sc, none, false, false, false),
       (.aAmax y h cf b ty o sc, none, false, false, false), (.aAand y h cf b ty o sc, none, false, false, false),
       (.aAor y h cf b ty o sc, none, false, false, false), (.aAxor y h cf b ty o sc, none, false, false, false),
       (.aAfaddI32 y d h cf b o sc, none, false, false, false), (.aAfaddI64 y d h cf b o sc, none, false, false, false),
       (.aAfaddF32 y d h cf b o sc, none, false, false, false), (.aAxchg y d h cf b ty o sc, none, false, false, false),
       (.aAcas y d h cf b x ty o sc, none, false, false, false), (.aRadd y h cf b ty, none, false, false, false),
       (.aDqry y qual d h cf, none, false, false, false), (.aDqpf y h cf b, none, false, false, false),
       (.aDscan y h cf b, none, false, false, false), (.aFence y o sc, none, false, false, false), (.aNmfence y, none, false, false, false),
       (.aFfence y, none, false, false, false), (.aWaita y h cf, none, false, false, false)]
     let some' : List (Instr × Option Reg × Bool × Bool × Bool) := [
       (.aLdv y q d h cf b o sc, none, true, false, false), (.aLdvBqa y q d h cf b o sc, none, true, false, true),
       (.aDqryv y qual q h cf b, none, true, false, false), (.aEmbag y q h c1 h2 c2 c3, none, true, false, false),
       (.aKvatt y q h c1 h2 c2 c3, none, true, true, false), (.aAscat y h cf b ty, none, false, true, false),
       (.aNmaddI32 y h cf b, none, false, true, false), (.aNmaddF32 y h cf b, none, false, true, false),
       (.aNmmin y h cf b ty, none, false, true, false), (.aNmmax y h cf b ty, none, false, true, false),
       (.aCpy y tok h c1 h2 c2 c3 wd, tk, false, false, false), (.aCpy2d y tok h c1 h2 c2 c3 wd, tk, false, false, false),
       (.aCpyx y tok h c1 h2 c2 c3 wd, tk, false, false, false), (.aPut y tok h c1 h2 c2 c3 wd, tk, false, false, false),
       (.aPut2d y tok h c1 h2 c2 c3 wd, tk, false, false, false), (.aGet y tok h c1 h2 c2 c3 wd, tk, false, false, false),
       (.aGet2d y tok h c1 h2 c2 c3 wd, tk, false, false, false), (.aRfadd y d h cf b ty, some d, false, false, false),
       (.aRcas y d h cf b x ty o sc, some d, false, false, false)]
     let kept := fun (r : Option Reg) (lq sq bqa : Bool) =>
       t.core = { s.core.controlOf t.core with
         aregs := t.core.aregs, reports := t.core.reports, lastRead := t.core.lastRead, lastrel := t.core.lastrel
         lastacq := t.core.lastacq, unpublished := t.core.unpublished, lq := t.core.lq, sq := t.core.sq, bqa := t.core.bqa } ∧
       (∀ k, r ≠ some k → t.ra k = s.ra k) ∧ (lq = false → t.core.lq = s.core.lq) ∧ (sq = false → t.core.sq = s.core.sq) ∧
       (bqa = false → t.core.bqa = s.core.bqa)
     (∀ j ∈ none' ++ some', exec j.1 s = .next t → kept j.2.1 j.2.2.1 j.2.2.2.1 j.2.2.2.2 ∧ SameMemory s t) ∧
     (∀ j ∈ ([.aAllred y qual d h cf b x ty, .aRedscat y qual d h cf b x ty, .aAllgath y qual d h cf b x ty, .aBcast y qual d h cf b x ty] : List Instr),
       exec j s = .next t → kept none false false false ∧
         ∀ k, Memory.get t.mem k ≠ Memory.get s.mem k →
           (groupKey ((s.ra b).toNat % 4096) + 0x10 ≤ k ∧ k < groupKey ((s.ra b).toNat % 4096) + 0x14) ∨
             (hwinKey 0 0xFFC00 ≤ k ∧ k < hwinKey 0 0xFFC28)))

/-- R169, R170, R171, R174, R193: the X-stream's scalar work. Arithmetic and immediates give xD, compares and votes a
flag, BTGT a branch target register, unchecked; PCNT counts; NOP changes nothing. -/
def Obligations.XScalarWork : Prop :=
  ∀ (y q : BitVec 4) (d a b : Reg) (f : CFlag) (t : BtReg) (p : PReg) (i : BitVec 32) (s : State), syncReady .X y s = true →
    let u := synced .X y s
    let x := s.rx a
    let z := s.rx b
    let n := z.toNat % 64
    let gives := fun (i : Instr) (v : Word) => exec i s = .next (retireAt .X y (u.wx d v))
    let sets := fun (i : Instr) (v : Bool) => exec i s = .next (retireAt .X y (u.wflag f v))
    let aims := fun (i : Instr) (v : Word) => exec i s = .next (retireAt .X y (u.setCore { u.core with bt := u.core.bt.set t v }))
    gives (.xAdd y d a b) (x + z) ∧ gives (.xSub y d a b) (x - z) ∧
    gives (.xAnd y d a b) (x &&& z) ∧ gives (.xOr y d a b) (x ||| z) ∧ gives (.xXor y d a b) (x ^^^ z) ∧
    gives (.xShl y d a b) (x <<< n) ∧ gives (.xShr y d a b) (x >>> n) ∧ gives (.xSra y d a b) (x.sshiftRight n) ∧
    gives (.xMul y d a b) (x * z) ∧
    gives (.xMin y d a b) (if x.toInt ≤ z.toInt then x else z) ∧ gives (.xMax y d a b) (if x.toInt ≤ z.toInt then z else x) ∧
    gives (.xAddi y d a i) (x + i.signExtend 64) ∧ gives (.xLi y d i) (i.signExtend 64) ∧
    gives (.xLui y d i) (s.rx d <<< 32 ||| i.setWidth 64) ∧
    sets (.xCmpeq y f a b) (decide (x = z)) ∧ sets (.xCmplt y f a b) (decide (x.toInt < z.toInt)) ∧
    sets (.xCmple y f a b) (decide (x.toInt ≤ z.toInt)) ∧
    aims (.xBtgt y t i) (s.core.x.pc + 8 * i.signExtend 64) ∧ aims (.xBtgtReg y t a) x ∧
    (q = 0 ∨ s.core.tape.mode ≠ 1 →
      sets (.xVany y q f p) (decide (s.rp p ≠ 0)) ∧ sets (.xVall y q f p) (decide (s.rp p = BitVec.allOnes 64))) ∧
    gives (.xPcnt y d p) (BitVec.ofNat 64 ((List.range 64).countP (fun i => (s.rp p).getLsbD i))) ∧
    exec (.xNop y) s = .next (retireAt .X y u)

/-- R58, R59, R172: BX reads its flag and its target and goes on at its first slot; two slots later the stream stands
at the target if the flag had the sense asked for, and else at the next word. Slots that R58 forbids, or an open
transfer, raise ILLEGAL_SEQUENCE; a target out of place raises ILLEGAL when the transfer would be taken. -/
def Obligations.BranchWithSlots : Prop :=
  ∀ (y q : BitVec 4) (f : CFlag) (t : BtReg) (s : State), syncReady .X y s = true →
    let u := synced .X y s
    let pc := s.core.x.pc.toNat
    let op := fun (k : Nat) => s.core.wordAt .X (pc + k) / 2 ^ 52 % 256
    let ext := fun (k : Nat) => (s.core.wordAt .X (pc + k)).testBit 51
    let taken := s.core.flags[f] == (q == 1)
    let target := s.core.bt[t]
    let good := pc + 24 ≤ 131072 ∧ (∀ k ∈ [8, 16], ext k = false ∧ op k ≠ 0x15 ∧ op k ≠ 0x16 ∧ op k ≠ 0x1C) ∧
      (∀ e ∈ s.core.x.loops, ∀ k ∈ [0, 8, 16], e.stop.toNat ≠ pc + k)
    (s.core.x.bx ≠ none ∨ ¬good → exec (.xBx y q f t) s = .next (raiseTrap .X u (illegalSequence .X u))) ∧
    (s.core.x.bx = none → good →
      (taken = true → (target.toNat % 8 ≠ 0 ∨ 131072 ≤ target.toNat) → exec (.xBx y q f t) s = .next (raiseTrap .X u (illegal .X u))) ∧
      (taken = false ∨ (target.toNat % 8 = 0 ∧ target.toNat < 131072) →
        exec (.xBx y q f t) s = .next (moveTo .X y (u.setStream .X { u.core.x with bx := some ⟨target, taken, 2⟩ })
          (s.core.x.pc + 8) s.core.x.loops))) ∧
    (∀ b, s.core.x.bx = some b → s.core.x.loops = [] →
      let r := (retireAt .X y s).core.x
      (2 ≤ b.slots → r.pc = nextPc .X s ∧ r.bx = some { b with slots := b.slots - 1 }) ∧
      (b.slots ≤ 1 → r.bx = none ∧ r.pc = if b.taken then b.target else nextPc .X s))

/-- R21, R22, R32, R175: what each of the X-stream's queue instructions does to its queue, and when it waits. A pop
whose entry carries an error raises it and leaves the entry; a pop of an entry or bit that is reserved waits for it.
That a bit younger than the hop of R32 stands in its queue is the model's choice (log 13). -/
def Obligations.XQueues : Prop :=
  ∀ (y : BitVec 4) (d : VReg) (q : LqNum) (a : Reg) (f : CFlag) (s : State), syncReady .X y s = true →
    let u := synced .X y s
    let lq := s.core.loadQueue q
    let dropped := u.setCore (u.core.setLoadQueue q ⟨lq.head + 1, lq.items.tail⟩)
    (∀ v, lq.items.head? = some ⟨some v, none⟩ →
      exec (.xVpop y d q) s = .next (retireAt .X y (dropped.wv d v)) ∧
      exec (.xVpops y d q) s = .next (retireAt .X y (dropped.wv d (Vector.replicate 64 v[0])))) ∧
    (∀ i ∈ ([.xVpop y d q, .xVpops y d q] : List Instr),
      (lq.items = [] → exec i s = .next (blockOn .X u (.pop q.val 1))) ∧
      (lq.items.head? = some ⟨none, none⟩ → exec i s = .next (blockOn .X u (.entry q.val))) ∧
      (∀ e, lq.items.head? = some e → ∀ r, e.error = some r →
        exec i s = .next (raiseTrap .X u { r.info with issue := issueWord r.pc }))) ∧
    (s.core.sq.items.length < 64 → exec (.xVpush y d) s =
      .next (retireAt .X y (u.setCore { u.core with sq := ⟨s.core.sq.head, s.core.sq.items ++ [s.rv d]⟩ }))) ∧
    (64 ≤ s.core.sq.items.length → exec (.xVpush y d) s = .next (blockOn .X u (.push 4 1))) ∧
    (s.core.vq.items.length < 32 → exec (.xXpush y a) s =
      .next (retireAt .X y (u.setCore { u.core with vq := ⟨s.core.vq.head, s.core.vq.items ++ [s.rx a]⟩ }))) ∧
    (32 ≤ s.core.vq.items.length → exec (.xXpush y a) s = .next (blockOn .X u (.push 5 1))) ∧
    (s.core.bqx.items.length < 128 → exec (.xOpush y f) s = .next (retireAt .X y (u.setCore { u.core with
      bqx := ⟨s.core.bqx.head, s.core.bqx.items ++ [⟨some s.core.flags[f], s.now, none⟩]⟩ }))) ∧
    (128 ≤ s.core.bqx.items.length → exec (.xOpush y f) s = .next (blockOn .X u (.push 7 1))) ∧
    (s.core.bqa.items = [] → exec (.xOpop y f) s = .next (blockOn .X u (.pop 6 1))) ∧
    (∀ n, s.core.bqa.items.head? = some ⟨none, n, none⟩ → exec (.xOpop y f) s = .next (blockOn .X u (.entry 6))) ∧
    (∀ e r, s.core.bqa.items.head? = some e → e.error = some r →
      exec (.xOpop y f) s = .next (raiseTrap .X u { r.info with issue := issueWord r.pc })) ∧
    (∀ b n, s.core.bqa.items.head? = some ⟨some b, n, none⟩ →
      (n + 2 ≤ s.now → exec (.xOpop y f) s = .next (retireAt .X y
        ((u.setCore { u.core with bqa := ⟨s.core.bqa.head + 1, s.core.bqa.items.tail⟩ }).wflag f b))) ∧
      (s.now < n + 2 → exec (.xOpop y f) s = .next (blockOn .X u (.pop 6 1))))

/-- R165, R166, R176: the integer instructions on vectors, element by element. Lanes whose predicate bit is clear keep
their contents. -/
def Obligations.VectorInteger : Prop :=
  ∀ (y : BitVec 4) (d a b : VReg) (g : PReg) (ty : ElemCode) (s : State), syncReady .X y s = true →
    let w := packedWidth ty
    let elem := fun (v : Vec) (l : Fin 64) (e : Nat) => BitVec.ofNat w (laneElem w v[l] e)
    let gives := fun (i : Instr) (f : BitVec w → BitVec w → BitVec w) =>
      ∃ v : Vec, exec i s = .next (retireAt .X y ((synced .X y s).wv d v)) ∧ ∀ l : Fin 64,
        ((s.rp g).getLsbD l.val = false → v[l] = (s.rv d)[l]) ∧
        ((s.rp g).getLsbD l.val = true → ∀ e < 32 / w, elem v l e = f (elem (s.rv a) l e) (elem (s.rv b) l e))
    gives (.xVadd y d a b g ty) (fun x z => x + z) ∧ gives (.xVsub y d a b g ty) (fun x z => x - z) ∧
    gives (.xVmul y d a b g ty) (fun x z => x * z) ∧
    gives (.xVmulh y d a b g ty) (fun x z => BitVec.ofInt w (x.toInt * z.toInt / 2 ^ w)) ∧
    gives (.xVand y d a b g ty) (fun x z => x &&& z) ∧ gives (.xVor y d a b g ty) (fun x z => x ||| z) ∧
    gives (.xVxor y d a b g ty) (fun x z => x ^^^ z) ∧
    gives (.xVshl y d a b g ty) (fun x z => x <<< (z.toNat % w)) ∧ gives (.xVshr y d a b g ty) (fun x z => x >>> (z.toNat % w)) ∧
    gives (.xVsra y d a b g ty) (fun x z => x.sshiftRight (z.toNat % w)) ∧
    gives (.xVmin y d a b g ty) (fun x z => if x.toInt ≤ z.toInt then x else z) ∧
    gives (.xVmax y d a b g ty) (fun x z => if x.toInt ≤ z.toInt then z else x) ∧
    gives (.xVabs y d a g ty) (fun x _ => BitVec.ofInt w x.toInt.natAbs)

/-- R165, R166, R168, R177: the floating-point instructions on vectors: each element is the exact result, rounded once
in the mode of the instruction (for VFEXP2, VFLOG2, VFTANH and VFSIGM a result computed to a fixed number of bits
beyond the target: the model's choice, log 165). VFMIN and VFMAX take an operand's code, and any NaN gives the NaN of
the type. -/
def Obligations.VectorFloat : Prop :=
  ∀ (y : BitVec 4) (d a b c : VReg) (g : PReg) (ty : ElemCode) (m : BitVec 2) (s : State), syncReady .X y s = true →
    ty = 4 ∨ ty = 5 →
    let w := packedWidth ty
    let f := fmtOf ty
    let r := m.toNat
    let num := fun (n : Nat) => decodeFloat f n
    let gives := fun (i : Instr) (h : Nat → Nat → Nat → Nat) =>
      ∃ v : Vec, exec i s = .next (retireAt .X y ((synced .X y s).wv d v)) ∧ ∀ l : Fin 64,
        ((s.rp g).getLsbD l.val = false → v[l] = (s.rv d)[l]) ∧
        ((s.rp g).getLsbD l.val = true → ∀ e < 32 / w,
          laneElem w v[l] e = h (laneElem w (s.rv a)[l] e) (laneElem w (s.rv b)[l] e) (laneElem w (s.rv c)[l] e) % 2 ^ w)
    let rounds := fun (i : Instr) (h : Sys2Proof.Machine.Num → Sys2Proof.Machine.Num → Sys2Proof.Machine.Num → Sys2Proof.Machine.Num) => gives i (fun x z u => roundTo f r (h (num x) (num z) (num u)))
    rounds (.xVfadd y d a b g ty m) (fun x z _ => x.add r z) ∧ rounds (.xVfsub y d a b g ty m) (fun x z _ => x.add r z.neg) ∧
    rounds (.xVfmul y d a b g ty m) (fun x z _ => x.mul z) ∧
    rounds (.xVfma y d a b c g ty m) (fun x z u => (x.mul z).add r u) ∧
    rounds (.xVfms y d a b c g ty m) (fun x z u => (x.mul z).add r u.neg) ∧
    rounds (.xVfnma y d a b c g ty m) (fun x z u => (x.mul z).neg.add r u) ∧
    rounds (.xVfnms y d a b c g ty m) (fun x z u => (x.mul z).neg.add r u.neg) ∧
    rounds (.xVfdiv y d a b g ty m) (fun x z _ => x.div z) ∧ rounds (.xVfsqrt y d a g ty m) (fun x _ _ => x.sqrt) ∧
    rounds (.xVfrcp y d a g ty m) (fun x _ _ => (Sys2Proof.Machine.Num.fin false 1 0 false).div x) ∧
    rounds (.xVfexp2 y d a g ty m) (fun x _ _ => x.exp2) ∧ rounds (.xVflog2 y d a g ty m) (fun x _ _ => x.log2) ∧
    rounds (.xVftanh y d a g ty m) (fun x _ _ => x.tanh) ∧ rounds (.xVfsigm y d a g ty m) (fun x _ _ => x.sigm) ∧
    rounds (.xVfneg y d a g ty m) (fun x _ _ => x.neg) ∧
    gives (.xVfabs y d a g ty m) (fun x _ _ => if (num x).isNan then f.nan else if (num x).isNeg then roundTo f r (num x).neg else x) ∧
    gives (.xVfmin y d a b g ty m) (fun x z _ =>
      if (num x).isNan || (num z).isNan then f.nan else if (num z).below (num x) then z else x) ∧
    gives (.xVfmax y d a b g ty m) (fun x z _ =>
      if (num x).isNan || (num z).isNan then f.nan else if (num x).below (num z) then z else x)

/-- Vector compares, predicate logic, selection and the permutes. -/
def Obligations.PredicatesAndPermutes : Prop :=
  -- R68, R166, R178, R179, R180: VCMP and VFCMP give a predicate that is clear in the lanes their own does not
  -- select; the logic of predicates is bit by bit; VSEL takes vA where its predicate is set and vB elsewhere.
  (∀ (y q : BitVec 4) (d m n g : PReg) (a b v : VReg) (ty : ElemCode) (s : State), syncReady .X y s = true →
     let u := synced .X y s
     let gives := fun (i : Instr) (f : Nat → Bool) =>
       ∃ w : Word, exec i s = .next (retireAt .X y (u.wp d w)) ∧ ∀ l < 64, w.getLsbD l = f l
     let lane := fun (r : VReg) (l : Nat) => (s.rv r).toList.getD l 0
     gives (.xVcmp y q d a b g ty) (fun l => (s.rp g).getLsbD l && laneCond q.toNat (lane a l) (lane b l)) ∧
     gives (.xVfcmp y q d a b g ty) (fun l => (s.rp g).getLsbD l &&
       floatCond q.toNat ((ofFp32 (lane a l)).cmp (ofFp32 (lane b l)))) ∧
     gives (.xPand y d m n) (fun l => (s.rp m).getLsbD l && (s.rp n).getLsbD l) ∧
     gives (.xPor y d m n) (fun l => (s.rp m).getLsbD l || (s.rp n).getLsbD l) ∧
     gives (.xPxor y d m n) (fun l => (s.rp m).getLsbD l != (s.rp n).getLsbD l) ∧
     gives (.xPnot y d m) (fun l => !(s.rp m).getLsbD l) ∧
     ∃ r : Vec, exec (.xVsel y v a b g) s = .next (retireAt .X y (u.wv v r)) ∧
       ∀ l : Fin 64, r[l] = if (s.rp g).getLsbD l.val then (s.rv a)[l] else (s.rv b)[l]) ∧
  -- R166, R184: the permutes. VCOMP packs the selected lanes, VEXP spreads the first lanes over the selected ones;
  -- both clear the rest.
  (∀ (y : BitVec 4) (d a b : VReg) (x : Reg) (g : PReg) (ty : ElemCode) (n : BitVec 6) (s : State), syncReady .X y s = true →
     let u := synced .X y s
     let p := s.rp g
     let below := fun (l : Nat) => (List.range l).countP (fun i => p.getLsbD i)
     let lane := fun (r : VReg) (l : Nat) => (s.rv r).toList.getD l 0
     let merges := fun (i : Instr) (f : Fin 64 → Lane) =>
       ∃ v : Vec, exec i s = .next (retireAt .X y (u.wv d v)) ∧ ∀ l : Fin 64, v[l] = if p.getLsbD l.val then f l else (s.rv d)[l]
     (∃ v : Vec, exec (.xVbcast y d x g ty) s = .next (retireAt .X y (u.wv d v)) ∧ ∀ l : Fin 64,
       (p.getLsbD l.val = false → v[l] = (s.rv d)[l]) ∧
       (p.getLsbD l.val = true → ∀ e < 32 / packedWidth ty, laneElem (packedWidth ty) v[l] e = (s.rx x).toNat % 2 ^ packedWidth ty)) ∧
     merges (.xVshuf y d a b g) (fun l => if ((s.rv b)[l]).getLsbD 31 then 0 else lane a ((s.rv b)[l].toNat % 64)) ∧
     merges (.xVrot y d a g n) (fun l => lane a ((l.val + n.toNat) % 64)) ∧
     exec (.xVextr y x a ty n) s = .next (retireAt .X y (u.wx x
       (if ty = 2 then (lane a n.toNat).signExtend 64 else (lane a n.toNat).setWidth 64))) ∧
     (∃ v : Vec, exec (.xVins y d x ty n) s = .next (retireAt .X y (u.wv d v)) ∧
       ∀ l : Fin 64, v[l] = if l.val = n.toNat then (s.rx x).setWidth 32 else (s.rv d)[l]) ∧
     (∃ v : Vec, exec (.xVcomp y d a g) s = .next (retireAt .X y (u.wv d v)) ∧
       (∀ l : Fin 64, p.getLsbD l.val = true → v.toList.getD (below l.val) 0 = (s.rv a)[l]) ∧ ∀ l : Fin 64, below 64 ≤ l.val → v[l] = 0) ∧
     (∃ v : Vec, exec (.xVexp y d a g) s = .next (retireAt .X y (u.wv d v)) ∧
       ∀ l : Fin 64, v[l] = if p.getLsbD l.val then lane a (below l.val) else 0))

/-- R181, R182, R183: the conversions of selected lanes to the lane form of their type. Under `.trap` the lowest lane
that overflows is named by FP_OVERFLOW and nothing is written; VDQNT rounds the product with the lane's scale to FP32.
-/
def Obligations.Conversions : Prop :=
  ∀ (y : BitVec 4) (d a b : VReg) (src ty : ElemCode) (g : PReg) (pol m : BitVec 2) (s : State), syncReady .X y s = true →
    let u := synced .X y s
    let code := fun (l : Fin 64) => laneCode src (s.rv a)[l]
    let scale := fun (l : Fin 64) => decodeFloat bf16 ((s.rv b).toList.getD (l.val / 32) 0 >>> 16).toNat
    let writes := fun (i : Instr) (f : Fin 64 → Lane) =>
      ∃ v : Vec, exec i s = .next (retireAt .X y (u.wv d v)) ∧ ∀ l : Fin 64,
        v[l] = if (s.rp g).getLsbD l.val then f l else (s.rv d)[l]
    let converts := fun (i : Instr) (f : Fin 64 → Option Nat) =>
      ((∀ l : Fin 64, (s.rp g).getLsbD l.val = true → f l ≠ none) → writes i (fun l => laneForm ty ((f l).getD 0))) ∧
      (∀ l : Fin 64, (s.rp g).getLsbD l.val = true → f l = none →
        (∀ k : Fin 64, k < l → (s.rp g).getLsbD k.val = true → f k ≠ none) →
        exec i s = .next (raiseTrap .X u { cause := .fpOverflow, aux0 := BitVec.ofNat 64 l.val }))
    converts (.xVcvtf y d a src g ty pol m) (fun l => convert (fmtOf ty) m.toNat pol.toNat (elemNum src (code l))) ∧
    converts (.xVcvti y d a src g ty pol m) (fun l => toInteger (elemBits ty) m.toNat pol.toNat (elemNum src (code l))) ∧
    converts (.xVqnt y d a b g ty pol m) (fun l => convert (fmtOf ty) m.toNat pol.toNat ((ofFp32 (s.rv a)[l]).div (scale l))) ∧
    writes (.xVdqnt y d a b g ty) (fun l => rn32 ((decodeFloat (fmtOf ty) (laneCode ty (s.rv a)[l])).mul (scale l)))

/-- R185, R186: VRSUM gives the sum of the selected elements modulo 2^64. VRMAX gives, for an integer type, a bound of
every selected element that is one of them, or with none selected the least value of the type; VRMIN the same from
below. VRFSUM adds its tree of 64 lanes, or of 128 elements of BF16, pair by pair, a lane that is not selected
counting as +0. -/
def Obligations.Reductions : Prop :=
  ∀ (y : BitVec 4) (d : Reg) (a : VReg) (g : PReg) (ty : ElemCode) (m : BitVec 2) (s : State), syncReady .X y s = true →
    let u := synced .X y s
    let w := packedWidth ty
    let lanes := (List.finRange 64).filter (fun l => (s.rp g).getLsbD l.val)
    let elems := lanes.flatMap (fun l => (List.range (32 / w)).map (fun e => (BitVec.ofNat w (laneElem w (s.rv a)[l] e)).toInt))
    let leaf := fun (l : Fin 64) => if (s.rp g).getLsbD l.val then ((s.rv a)[l]).toNat else 0
    let gives := fun (i : Instr) (v : Word) => exec i s = .next (retireAt .X y (u.wx d v))
    gives (.xVrsum y d a g ty) (BitVec.ofInt 64 elems.sum) ∧
    (isFloat ty = false → ∃ k : Int, gives (.xVrmax y d a g ty) (BitVec.ofInt 64 k) ∧
      (∀ e ∈ elems, e ≤ k) ∧ (k ∈ elems ∨ elems = [] ∧ k = -(2 ^ (w - 1) : Nat))) ∧
    (isFloat ty = false → ∃ k : Int, gives (.xVrmin y d a g ty) (BitVec.ofInt 64 k) ∧
      (∀ e ∈ elems, k ≤ e) ∧ (k ∈ elems ∨ elems = [] ∧ k = (2 ^ (w - 1) : Nat) - 1)) ∧
    (isFloat ty = true → gives (.xVrmax y d a g ty) (extremum true ty (selectedElems ty (s.rv a) (s.rp g))) ∧
      gives (.xVrmin y d a g ty) (extremum false ty (selectedElems ty (s.rv a) (s.rp g)))) ∧
    (ty = 5 → gives (.xVrfsum y d a g ty m) (BitVec.ofNat 64 (sumTree m.toNat 6 ((List.finRange 64).map leaf)))) ∧
    (ty = 4 → gives (.xVrfsum y d a g ty m) (BitVec.ofNat 64 (sumTree m.toNat 7
      ((List.finRange 64).flatMap (fun l => [leaf l % 65536 * 65536, leaf l / 65536 * 65536])))))

/-- R187, R188, R189: VSORTK gives the selected pairs in ascending, stable order of their keys and zeros behind them;
VSEGSUM the running sums of runs of equal keys, of FP32 in the canonical form of R257 from the first lane on; VTOPK
the greatest keys in descending order with their lanes, and all ones behind these. -/
def Obligations.SortingAndSelection : Prop :=
  ∀ (y : BitVec 4) (d a b : VReg) (g : PReg) (ty : ElemCode) (k : BitVec 6) (s : State), syncReady .X y s = true →
    let u := synced .X y s
    let lanes := (List.finRange 64).filter (fun l => (s.rp g).getLsbD l.val)
    let key := fun (l : Fin 64) => (s.rv a)[l]
    let before := fun (i j : Fin 64) => keyBefore ty (key i) (key j) || (!keyBefore ty (key j) (key i) && decide (i < j))
    let after := fun (i j : Fin 64) => keyBefore ty (key j) (key i) || (!keyBefore ty (key i) (key j) && decide (i < j))
    (∃ l : List (Fin 64), l.Perm lanes ∧ l.Pairwise (fun i j => before i j = true) ∧
      exec (.xVsortk y d a b g ty) s = .next (retireAt .X y ((u.wv d (vecOfLanes (l.map key))).wv (d + 1)
        (vecOfLanes (l.map (fun i => (s.rv b)[i])))))) ∧
    (∃ l : List (Fin 64), l.Perm lanes ∧ l.Pairwise (fun i j => after i j = true) ∧
      let top := l.take (k.toNat + 1)
      ∃ v : Vec, (∀ i : Fin 64, v[i] = ((top.map (fun j => BitVec.ofNat 32 j.val)).getD i.val 0xFFFFFFFF#32)) ∧
        exec (.xVtopk y d a g ty k) s = .next (retireAt .X y ((u.wv d (vecOfLanes (top.map key))).wv (d + 1) v))) ∧
    (∃ v : Vec, exec (.xVsegsum y d a b g ty) s = .next (retireAt .X y (u.wv d v)) ∧ ∀ l : Fin 64,
      ((s.rp g).getLsbD l.val = false → v[l] = (s.rv d)[l]) ∧
      ((s.rp g).getLsbD l.val = true →
        let first := if ty = 2 then (s.rv b)[l] else rn32 (ofFp32 (s.rv b)[l])
        ((∀ j < l, (s.rp g).getLsbD j.val = false) → v[l] = first) ∧
        ∀ j < l, (s.rp g).getLsbD j.val = true → (∀ i, j < i → i < l → (s.rp g).getLsbD i.val = false) →
          v[l] = if key j ≠ key l then first else if ty = 2 then v[j] + (s.rv b)[l]
            else rn32 ((ofFp32 v[j]).add 0 (ofFp32 (s.rv b)[l]))))

/-- The tape: recording and replay. -/
def Obligations.TapeInstructions : Prop :=
  -- R116, R174, R190, R331, R334–R338: the tape's instructions outside replay. TAPEON and TREV need a bound tape that
  -- is off; a record is appended while recording if it fits, and so is the mask of a vote with `.tape`, which gives
  -- its flag as ever; with DROP set a record is only counted; in off with a tape bound the record instructions do
  -- nothing, in replay they raise ILLEGAL_SEQUENCE. With no tape bound they raise ILLEGAL_SEQUENCE (R116, which
  -- R190's off mode does not name: the model's choice, log 218).
  (∀ (y : BitVec 4) (v : VReg) (g p : PReg) (x : Reg) (f : CFlag) (s : State), syncReady .X y s = true →
     let u := synced .X y s
     let tp := s.core.tape
     let seq := fun (i : Instr) => exec i s = .next (raiseTrap .X u (illegalSequence .X u))
     let records : List (Instr × Record) := [(.xVtape y v g, valueRecord (s.rv v) (s.rp g)), (.xXtape y x, ⟨2, 3, 1, leBytes 8 (s.rx x).toNat⟩),
       (.xPtape y p, ⟨3, 0, s.rp p, []⟩), (.xTmark y x, ⟨4, 3, 1, leBytes 8 (s.rx x).toNat⟩)]
     (tp.mode = 0 → tp.limit ≠ 0 → exec (.xTapeon y) s = .next (retireAt .X y (u.setTape { tp with mode := 1 }))) ∧
     (tp.mode ≠ 0 ∨ tp.limit = 0 → seq (.xTapeon y) ∧ seq (.xTrev y)) ∧
     (tp.mode ≠ 1 → exec (.xTapeoff y) s = .next (retireAt .X y (u.setTape { tp with mode := 0 }))) ∧
     (tp.mode = 1 → s.core.x.awaited = none → ∀ t, tapeWrite u .X 0 (tapeHeader tp) = .ok t →
       exec (.xTapeoff y) s = .next (blockOn .X (t.setStream .X { t.core.x with awaited := some (tapeOps t) }) (.commits 0x71 (tapeOps t)))) ∧
     (tp.mode = 1 → s.core.x.awaited = some [] → s.core.report? 34 = none → ∃ t,
       exec (.xTapeoff y) s = .next (retireAt .X y t) ∧ t.core.tape = { tp with mode := 0 } ∧ SameMemory s t) ∧
     (tp.mode = 0 → tp.limit ≠ 0 → ∀ l, tapeRead u 0 8 = .ok l → leNat l % 8 = 0 → 16 + leNat l ≤ 8 * tp.limit →
       exec (.xTrev y) s = .next (retireAt .X y (u.setTape { tp with mode := 2, pos := leNat l / 8 }))) ∧
     (∀ i ∈ records,
       (tp.mode = 0 → tp.limit ≠ 0 → exec i.1 s = .next (retireAt .X y u)) ∧ (tp.mode = 0 → tp.limit = 0 → seq i.1) ∧
       (tp.mode = 1 → tp.drop = false →
         let size := i.2.bytes.length
         (8 * tp.limit < 16 + 8 * tp.pos + size → ∃ t, t.cause = .tapeFull ∧ t.aux0 = BitVec.ofNat 64 (8 * tp.pos) ∧
           t.aux2 = BitVec.ofNat 64 size ∧ exec i.1 s = .next (raiseTrap .X u t)) ∧
         (16 + 8 * tp.pos + size ≤ 8 * tp.limit → ∀ t, tapeWrite u .X (16 + 8 * tp.pos) i.2.bytes = .ok t →
           exec i.1 s = .next (retireAt .X y (t.setTape { tp with pos := tp.pos + size / 8 })))) ∧
       (tp.mode = 1 → tp.drop = true → exec i.1 s = .next (retireAt .X y
         (u.setTape { tp with incomplete := true, dropped := min (2 ^ 32 - 1) (tp.dropped + 1) })))) ∧
     (tp.mode = 2 → ∀ i ∈ records.take 3, seq i.1) ∧
     (tp.mode = 1 → ∀ i ∈ ([(.xVany y 1 f p, decide (s.rp p ≠ 0)),
         (.xVall y 1 f p, decide (s.rp p = BitVec.allOnes 64))] : List (Instr × Bool)),
       (tp.drop = true →
         exec i.1 s = .next (retireAt .X y ((u.wflag f i.2).setTape { tp with incomplete := true, dropped := min (2 ^ 32 - 1) (tp.dropped + 1) }))) ∧
       (tp.drop = false → 8 * tp.limit < 16 + 8 * tp.pos + 16 → ∃ t, t.cause = .tapeFull ∧ t.aux0 = BitVec.ofNat 64 (8 * tp.pos) ∧ t.aux2 = 16 ∧
         exec i.1 s = .next (raiseTrap .X u t)) ∧
       (tp.drop = false → 16 + 8 * tp.pos + 16 ≤ 8 * tp.limit →
         ∀ t, tapeWrite (u.wflag f i.2) .X (16 + 8 * tp.pos) (⟨3, 0, s.rp p, []⟩ : Record).bytes = .ok t →
           exec i.1 s = .next (retireAt .X y (t.setTape { tp with pos := tp.pos + 2 })) ∧ t.core.flags[f] = i.2))) ∧
  -- R190, R191, R339: the pops of replay. Each takes the record before the tape position if it is whole and of its
  -- kind, and moves the position over it; a record of another kind, or the tape's beginning, raises TAPE_KIND or
  -- TAPE_EMPTY; outside replay they raise ILLEGAL_SEQUENCE.
  (∀ (y : BitVec 4) (v : VReg) (p : PReg) (x : Reg) (s : State), syncReady .X y s = true →
     let u := synced .X y s
     let tp := s.core.tape
     let pops : List (Instr × Nat) := [(.xVuntape y v, 1), (.xXuntape y x, 2), (.xPuntape y p, 3)]
     (tp.mode ≠ 2 → ∀ i ∈ pops, exec i.1 s = .next (raiseTrap .X u (illegalSequence .X u))) ∧
     (tp.mode = 2 → ∀ i ∈ pops ++ [(.xTmark y x, 4)],
       (tp.pos = 0 → ∃ t, t.cause = .tapeEmpty ∧ t.aux2 = BitVec.ofNat 64 i.2 ∧ exec i.1 s = .next (raiseTrap .X u t)) ∧
       (∀ t, lastRecord u i.2 = .error t → exec i.1 s = .next (raiseTrap .X u t))) ∧
     (tp.mode = 2 → ∀ r n,
       let back := u.setTape { tp with pos := tp.pos - n / 8 }
       (lastRecord u 1 = .ok (r, n) → exec (.xVuntape y v) s = .next (retireAt .X y (back.wv v (restoreLanes (s.rv v) r))) ∧
         ∀ l : Fin 64, r.mask.getLsbD l.val = false → (restoreLanes (s.rv v) r)[l] = (s.rv v)[l]) ∧
       (lastRecord u 2 = .ok (r, n) →
         exec (.xXuntape y x) s = .next (retireAt .X y (back.wx x (BitVec.ofNat 64 (leNat r.payload))))) ∧
       (lastRecord u 3 = .ok (r, n) → exec (.xPuntape y p) s = .next (retireAt .X y (back.wp p r.mask))) ∧
       (lastRecord u 4 = .ok (r, n) →
         (BitVec.ofNat 64 (leNat r.payload) = s.rx x → exec (.xTmark y x) s = .next (retireAt .X y back)) ∧
         (BitVec.ofNat 64 (leNat r.payload) ≠ s.rx x → exec (.xTmark y x) s = .next (raiseTrap .X u
           { cause := .tapeKind, aux0 := BitVec.ofNat 64 (8 * tp.pos), aux1 := 4, aux2 := 4 })))))

/-- R274, R275, R279–R282: moving rows between queues, vectors and tiles or accumulators. A row operand that passes
its checks names a row and, of a tile, a half; bytes and elements beyond the record stay. TLD and TZERO wait for
accepted operations that read the tile, the accumulator's instructions for those that write it, and an accumulator's
latch is reported first (the model's choice, log 163), before its checks. -/
def Obligations.TilesAndAccumulators : Prop :=
  ∀ (y : BitVec 4) (t : TReg) (z : ZReg) (q : LqNum) (v : VReg) (x : Reg) (s : State), syncReady .X y s = true →
    let u := synced .X y s
    let k := s.core
    let r := bits (s.rx x) 0 6
    let h := bits (s.rx x) 6 1
    let n := halfBytes (k.tileRec t) h
    let lq := k.loadQueue q
    let dropped := u.setCore (u.core.setLoadQueue q ⟨lq.head + 1, lq.items.tail⟩)
    let stored := fun (e : Vec) => u.setCore { u.core with sq := ⟨k.sq.head, k.sq.items ++ [e]⟩ }
    (k.tileOps t = [] →
      (tileRowFault (k.tileRec t) (s.rx x) = none → ∀ e, lq.items.head? = some ⟨some e, none⟩ →
        exec (.xTld y t q x) s = .next (retireAt .X y (dropped.setCore (dropped.core.setHalfRow t r h
          (vecOfBytes ((vecBytes e).take n ++ (vecBytes (k.halfRow t r h)).drop n)))))) ∧
      exec (.xTzero y t) s = .next (retireAt .X y (u.setCore { u.core with tiles := k.tiles.set t (Vector.replicate 128 Vec.zero) }))) ∧
    (k.tileOps t ≠ [] → exec (.xTzero y t) s = .next (blockOn .X u (.tileReaders t.val)) ∧
      (tileRowFault (k.tileRec t) (s.rx x) = none → exec (.xTld y t q x) s = .next (blockOn .X u (.tileReaders t.val)))) ∧
    (∀ f, tileRowFault (k.tileRec t) (s.rx x) = some f →
      ∀ i ∈ ([.xTld y t q x, .xTst y t x, .xTmovv y v t x] : List Instr), exec i s = .next (raiseTrap .X u f)) ∧
    (tileRowFault (k.tileRec t) (s.rx x) = none →
      (k.sq.items.length < 64 → exec (.xTst y t x) s = .next (retireAt .X y (stored (vecOfBytes ((vecBytes (k.halfRow t r h)).take n))))) ∧
      exec (.xTmovv y v t x) s = .next (retireAt .X y (u.wv v (k.halfRow t r h)))) ∧
    (∀ l, k.latches[z] = some l → ∀ i ∈ ([.xZld y z q x, .xZst y z x, .xZzero y z, .xZmovv y v z x] : List Instr),
      exec i s = .next (raiseTrap .X u { l.info with issue := issueWord l.pc, aux1 := l.count, clears := 1 + z.val })) ∧
    (k.latches[z] = none → k.accOps z = [] →
      exec (.xZzero y z) s = .next (retireAt .X y (u.setCore { u.core with accs := k.accs.set z (Vector.replicate 64 Vec.zero) })) ∧
      (accRowFault (k.accRec z) (s.rx x) = none →
        (∀ e, lq.items.head? = some ⟨some e, none⟩ → ∃ w : Vec,
          exec (.xZld y z q x) s = .next (retireAt .X y (dropped.setCore (dropped.core.setAccRow z r w))) ∧
          ∀ l : Fin 64, w[l] = if l.val < recCols (k.accRec z) then e[l] else (k.accRow z r)[l]) ∧
        ∃ w : Vec, (∀ l : Fin 64, w[l] = if l.val < recCols (k.accRec z) then (k.accRow z r)[l] else 0) ∧
          (k.sq.items.length < 64 → exec (.xZst y z x) s = .next (retireAt .X y (stored w))) ∧
          exec (.xZmovv y v z x) s = .next (retireAt .X y (u.wv v w)))) ∧
    (k.latches[z] = none → ∀ f, accRowFault (k.accRec z) (s.rx x) = some f →
      ∀ i ∈ ([.xZld y z q x, .xZst y z x, .xZmovv y v z x] : List Instr), exec i s = .next (raiseTrap .X u f)) ∧
    (k.latches[z] = none → k.accOps z ≠ [] → exec (.xZzero y z) s = .next (blockOn .X u (.accumulator z.val)) ∧
      (accRowFault (k.accRec z) (s.rx x) = none → ∀ i ∈ ([.xZld y z q x, .xZst y z x, .xZmovv y v z x] : List Instr),
        exec i s = .next (blockOn .X u (.accumulator z.val))))

/-- The matrix instructions are accepted, started and completed. -/
def Obligations.MatrixOperations : Prop :=
  -- R271, R272: a matrix instruction whose accumulator has no latch takes the head of fq if it is valid for its
  -- opcode and its records fit; it is accepted when fewer than four operations have not started, and waits otherwise.
  -- An empty fq raises FQ_UNDERFLOW.
  (∀ (y : BitVec 4) (z : ZReg) (ta tb : TReg) (c : VReg) (wd : Option (BitVec 16)) (s : State), syncReady .X y s = true →
     let u := synced .X y s
     let k := s.core
     k.latches[z] = none →
     ∀ i ∈ ([(.xMma y z ta tb wd, 0x90, some tb, []), (.xMmai y z ta tb wd, 0x91, some tb, []), (.xMmah y z ta tb wd, 0x92, some tb, []),
         (.xMmab1 y z ta tb wd, 0x93, some tb, []), (.xMmab2 y z ta tb c wd, 0x94, some tb, [s.rv c, s.rv (c + 1)]),
         (.xMmas y z ta tb wd, 0x95, some tb, []), (.xMmax y z ta tb wd, 0x96, some tb, []), (.xMman y z ta tb wd, 0x97, some tb, []),
         (.xMmv y z ta c wd, 0x98, none, [s.rv c])] : List (Instr × Nat × Option TReg × List Vec)),
       (k.fq.items = [] → ∃ t, t.cause = .fqUnderflow ∧ exec i.1 s = .next (raiseTrap .X u t)) ∧
       ∀ f rest, k.fq.items = f :: rest →
         (formatOk i.2.1 f = false → exec i.1 s = .next (raiseTrap .X u (illegal .X u))) ∧
         (formatOk i.2.1 f = true →
           (∀ e, shapeFault i.2.1 f (k.accRec z) (k.tileRec ta) (i.2.2.1.map k.tileRec) = some e →
             ∃ t, t.cause = .shapeMismatch ∧ t.aux0 = e.2 ∧ exec i.1 s = .next (raiseTrap .X u t)) ∧
           (shapeFault i.2.1 f (k.accRec z) (k.tileRec ta) (i.2.2.1.map k.tileRec) = none →
             (4 ≤ k.matrix.countP (fun o => o.started.isNone) → exec i.1 s = .next (blockOn .X u (.matrixAccept i.2.1))) ∧
             (k.matrix.countP (fun o => o.started.isNone) < 4 → ∃ t o, exec i.1 s = .next (retireAt .X y t) ∧
               t = u.setCore { u.core with fq := ⟨k.fq.head + 1, rest⟩, matrix := k.matrix ++ [o] } ∧
               o.op = i.2.1 ∧ o.z = z ∧ o.ta = ta ∧ o.tb = i.2.2.1 ∧ o.vecs = i.2.2.2 ∧ o.fmt = f ∧ o.accepted = s.now ∧ o.started = none ∧
               o.bound = boundCycles (wd.getD 0))))) ∧
  -- R39, R273, R275, R283: the engine starts its oldest waiting operation when it is free, while others before it
  -- run, and completes the oldest when its cycle has come: each element of the result takes its value, nothing else
  -- of the accumulators changes; an element that overflows, or a struck row, sets the latch and writes nothing; under
  -- a latch a later operation has no effect and is counted, while one accepted before the failed one has its effect
  -- (log 233: the model's choice). One whose cycle lies past its command bound never completes.
  (∀ (pre : List MatOp) (o : MatOp) (rest : List MatOp) (s : State), s.core.matrix = pre ++ o :: rest →
     ((∀ p ∈ pre, p.started.isSome = true) → o.started = none →
       (s.core.engineHeld = true ∨ s.now ≤ o.accepted ∨ s.now < s.core.engineFree → exec .matrixOpStart s = .next s) ∧
       (s.core.engineHeld = false → s.core.hardStop = false → o.accepted < s.now → s.core.engineFree ≤ s.now →
         exec .matrixOpStart s = .next (s.setCore { s.core with
           matrix := pre ++ { o with started := some (s.now + busyCycles o + 12) } :: rest, engineFree := s.now + busyCycles o }))) ∧
     (pre = [] → (o.started = none → exec .matrixOpComplete s = .next s) ∧
     (∀ c, o.started = some c → o.accepted + o.bound < c ∨ s.now < c → exec .matrixOpComplete s = .next s) ∧
     (∀ c, o.started = some c → c ≤ s.now → c ≤ o.accepted + o.bound →
       (∀ l, s.core.latches[o.z] = some l → l.earlier = 0 → exec .matrixOpComplete s = .next (s.setCore { s.core with
         matrix := rest, latches := s.core.latches.set o.z (some { l with count := l.count + 1 }) })) ∧
       ((∀ l, s.core.latches[o.z] = some l → 0 < l.earlier) → recRows o.shapeZ ≤ 64 → recCols o.shapeZ ≤ 64 →
         let count : Word := match s.core.latches[o.z] with | some l => l.count + 1 | none => 0
         let elem := fun (i j : Nat) => matrixElem o ((s.core.accRow o.z i).toList.getD j 0) (s.core.rowBytes o.ta i) (matrixB s.core o j)
         (∀ u, o.struck = some u → ∃ t l, exec .matrixOpComplete s = .next t ∧ t.core.matrix = rest ∧ t.core.accs = s.core.accs ∧
           t.core.latches[o.z] = some l ∧ l.info.cause = .eccUncorrectable ∧ l.info.aux0 = BitVec.ofNat 64 u ∧ l.pc = o.pc ∧ l.count = count) ∧
         (o.struck = none → (∃ i < recRows o.shapeZ, ∃ j < recCols o.shapeZ, elem i j = none) →
           ∃ t l, exec .matrixOpComplete s = .next t ∧ t.core.matrix = rest ∧ t.core.accs = s.core.accs ∧
           t.core.latches[o.z] = some l ∧ l.info.cause = .fpOverflow ∧ l.pc = o.pc ∧ l.count = count) ∧
         (o.struck = none → (∀ i < recRows o.shapeZ, ∀ j < recCols o.shapeZ, elem i j ≠ none) → ∃ t, exec .matrixOpComplete s = .next t ∧
           t.core.matrix = rest ∧ SameMemory s t ∧ (∀ z : ZReg, z ≠ o.z → t.core.accs[z] = s.core.accs[z] ∧ t.core.latches[z] = s.core.latches[z]) ∧
           t.core.latches[o.z] = s.core.latches[o.z].map (fun l => { l with earlier := l.earlier - 1 }) ∧
           ∀ (i j : Fin 64),
             (i.val < recRows o.shapeZ → j.val < recCols o.shapeZ → ∃ v b, elem i.val j.val = some (v, b) ∧ t.core.accs[o.z][i][j] = v ∧
               (b = true → t.core.isat = true)) ∧
             (recRows o.shapeZ ≤ i.val ∨ recCols o.shapeZ ≤ j.val → t.core.accs[o.z][i][j] = s.core.accs[o.z][i][j]))))))

/-- R97, R98, R193, R194, R275, R338: END of the X-stream writes the header of a recording, and waits for its matrix
operations and its tape writes; with none left and nothing to report it ends the stream, and a recording with it; a
replay stays (the model's choice, log 152). The X-stream's CSRR and CSRW reach the registers that R193 lets it; a bit
above the one of a W1C register that a mask sets raises ILLEGAL (the model's choice, log 111). -/
def Obligations.XEndAndControl : Prop :=
  ∀ (y : BitVec 4) (d : Reg) (n : BitVec 11) (s : State), syncReady .X y s = true →
    let u := synced .X y s
    let k := n.toNat
    let x := s.rx d
    let raises := fun (c : Cause) => ∃ t, t.cause = c ∧ t.aux1 = BitVec.ofNat 64 k ∧ exec (.xCsrw y d n) s = .next (raiseTrap .X u t)
    (s.core.tape.mode = 1 → s.core.x.awaited = none →
      (∀ t, tapeWrite u .X 0 (tapeHeader s.core.tape) = .ok t → exec (.xEnd y) s =
        .next (blockOn .X (t.setStream .X { t.core.x with awaited := some (tapeOps t) }) (.commits 0x1C (tapeOps t)))) ∧
      (∀ e, tapeWrite u .X 0 (tapeHeader s.core.tape) = .error e → exec (.xEnd y) s = .next (raiseTrap .X u e))) ∧
    (s.core.tape.mode ≠ 1 ∨ s.core.x.awaited ≠ none →
      (s.core.matrix ≠ [] ∨ tapeOps s ≠ [] → ∃ t, exec (.xEnd y) s = .next (blockOn .X t (.commits 0x1C (tapeOps s))) ∧ SameMemory s t) ∧
      (s.core.matrix = [] → tapeOps s = [] → (∀ z : ZReg, s.core.latches[z] = none) → s.core.report? 34 = none →
        u.core.signalRoom .X (y.setWidth 2) = true →
        ∃ t, exec (.xEnd y) s = .next t ∧ t.core.x.status = .ended ∧ t.core.c = s.core.c ∧ t.core.a = s.core.a ∧
          t.core.tape = (if s.core.tape.mode = 1 then { s.core.tape with mode := 0 } else s.core.tape) ∧ SameMemory s t)) ∧
    (csrClass k = none ∨ csrClass k = some .sv → ∃ t, t.cause = (if csrClass k = none then .illegal else .priv) ∧
      t.aux1 = BitVec.ofNat 64 k ∧ exec (.xCsrr y d n) s = .next (raiseTrap .X u t) ∧ exec (.xCsrw y d n) s = .next (raiseTrap .X u t)) ∧
    (csrClass k = some .ro ∨ csrClass k = some .rw ∨ csrClass k = some .w1c → exec (.xCsrr y d n) s = .next (retireAt .X y (u.wx d (s.csr k)))) ∧
    (csrClass k = some .rw → (writeCsr u.core k x = none → raises .illegal) ∧
      ∀ c, writeCsr u.core k x = some c → exec (.xCsrw y d n) s = .next (retireAt .X y (u.setCore c))) ∧
    (csrClass k = some .ro → raises .illegal) ∧
    (csrClass k = some .w1c → (2 ≤ x.toNat → raises .illegal) ∧ (x.toNat < 2 → exec (.xCsrw y d n) s =
      .next (retireAt .X y (u.setCore { u.core with isat := s.core.isat && !x.getLsbD 0 }))))

/-- What the X-stream's instructions leave unchanged. -/
def Obligations.XStreamFrames : Prop :=
  -- Whatever happens to them, the X-stream's instructions change, beside the control state, their destination alone:
  -- an x register, a vector register or a pair, a predicate, a flag, a branch target register. No byte of memory
  -- changes, and no register of another stream.
  (∀ (y q : BitVec 4) (d a b : Reg) (v w m c : VReg) (g p r : PReg) (f : CFlag) (bt : BtReg) (i : BitVec 32) (n : BitVec 6)
       (pol rnd : BitVec 2) (src ty : ElemCode) (s t : State),
     (∀ j ∈ ([.xAdd y d a b, .xSub y d a b, .xAnd y d a b, .xOr y d a b, .xXor y d a b, .xShl y d a b, .xShr y d a b, .xSra y d a b,
         .xMul y d a b, .xMin y d a b, .xMax y d a b, .xAddi y d a i, .xLi y d i, .xLui y d i, .xPcnt y d p, .xVextr y d v ty n,
         .xVrsum y d v g ty, .xVrfsum y d v g ty rnd, .xVrmax y d v g ty, .xVrmin y d v g ty] : List Instr), exec j s = .next t →
       t = { s with core := { s.core.controlOf t.core with xregs := t.core.xregs } } ∧ ∀ e, e ≠ d → t.rx e = s.rx e) ∧
     (∀ j ∈ ([.xVadd y v w m g ty, .xVsub y v w m g ty, .xVmul y v w m g ty, .xVmulh y v w m g ty, .xVand y v w m g ty,
         .xVor y v w m g ty, .xVxor y v w m g ty, .xVshl y v w m g ty, .xVshr y v w m g ty, .xVsra y v w m g ty, .xVmin y v w m g ty,
         .xVmax y v w m g ty, .xVabs y v w g ty, .xVfadd y v w m g ty rnd, .xVfsub y v w m g ty rnd, .xVfmul y v w m g ty rnd,
         .xVfma y v w m c g ty rnd, .xVfms y v w m c g ty rnd, .xVfnma y v w m c g ty rnd, .xVfnms y v w m c g ty rnd,
         .xVfmin y v w m g ty rnd, .xVfmax y v w m g ty rnd, .xVfabs y v w g ty rnd, .xVfneg y v w g ty rnd, .xVfdiv y v w m g ty rnd,
         .xVfsqrt y v w g ty rnd, .xVfrcp y v w g ty rnd, .xVfexp2 y v w g ty rnd, .xVflog2 y v w g ty rnd, .xVftanh y v w g ty rnd,
         .xVfsigm y v w g ty rnd, .xVsel y v w m g, .xVcvtf y v w src g ty pol rnd, .xVcvti y v w src g ty pol rnd,
         .xVqnt y v w m g ty pol rnd, .xVdqnt y v w m g ty, .xVbcast y v a g ty, .xVshuf y v w m g, .xVrot y v w g n, .xVins y v a ty n,
         .xVcomp y v w g, .xVexp y v w g, .xVsegsum y v w m g ty] : List Instr), exec j s = .next t →
       t = { s with core := { s.core.controlOf t.core with v := t.core.v } } ∧ ∀ e, e ≠ v → t.rv e = s.rv e) ∧
     (∀ j ∈ ([.xVsortk y v w m g ty, .xVtopk y v w g ty n] : List Instr), exec j s = .next t →
       t = { s with core := { s.core.controlOf t.core with v := t.core.v } } ∧ ∀ e, e ≠ v → e ≠ v + 1 → t.rv e = s.rv e) ∧
     (∀ j ∈ ([.xVcmp y q p v w g ty, .xVfcmp y q p v w g ty, .xPand y p g r, .xPor y p g r, .xPxor y p g r, .xPnot y p g] : List Instr),
       exec j s = .next t →
       t = { s with core := { s.core.controlOf t.core with p := t.core.p } } ∧ ∀ e, e ≠ p → t.rp e = s.rp e) ∧
     (∀ j ∈ ([.xCmpeq y f a b, .xCmplt y f a b, .xCmple y f a b, .xVany y 0 f p, .xVall y 0 f p] : List Instr), exec j s = .next t →
       t = { s with core := { s.core.controlOf t.core with flags := t.core.flags } } ∧ ∀ e : CFlag, e ≠ f → t.core.flags[e] = s.core.flags[e]) ∧
     (∀ j ∈ ([.xBtgt y bt i, .xBtgtReg y bt a] : List Instr), exec j s = .next t →
       t = { s with core := { s.core.controlOf t.core with bt := t.core.bt } } ∧ ∀ e : BtReg, e ≠ bt → t.core.bt[e] = s.core.bt[e]) ∧
     (∀ j ∈ ([.xBx y q f bt, .xLoop y a i, .xNop y] : List Instr), exec j s = .next t → OnlyControl s t)) ∧
  -- What the X-stream's queue, tile, accumulator, matrix and tape instructions leave unchanged: each its own pieces
  -- of the core's state apart, everything, every byte of memory with it.
  (∀ (y : BitVec 4) (d : VReg) (q : LqNum) (x : Reg) (f : CFlag) (t0 tb : TReg) (z : ZReg) (p g : PReg) (wd : Option (BitVec 16)) (s t : State),
     (∀ j ∈ ([.xVpop y d q, .xVpops y d q] : List Instr), exec j s = .next t →
       t = { s with core := { s.core.controlOf t.core with lq := t.core.lq, v := t.core.v } } ∧
       (∀ e : LqNum, e ≠ q → t.core.lq[e] = s.core.lq[e]) ∧ ∀ e, e ≠ d → t.rv e = s.rv e) ∧
     (∀ j ∈ ([.xVpush y d, .xTst y t0 x, .xZst y z x] : List Instr), exec j s = .next t →
       t = { s with core := { s.core.controlOf t.core with sq := t.core.sq } }) ∧
     (exec (.xXpush y x) s = .next t → t = { s with core := { s.core.controlOf t.core with vq := t.core.vq } }) ∧
     (exec (.xOpush y f) s = .next t → t = { s with core := { s.core.controlOf t.core with bqx := t.core.bqx } }) ∧
     (exec (.xOpop y f) s = .next t → t = { s with core := { s.core.controlOf t.core with bqa := t.core.bqa, flags := t.core.flags } }) ∧
     (exec (.xTld y t0 q x) s = .next t →
       t = { s with core := { s.core.controlOf t.core with lq := t.core.lq, tiles := t.core.tiles } } ∧
       ∀ e : TReg, e ≠ t0 → t.core.tiles[e] = s.core.tiles[e]) ∧
     (exec (.xTzero y t0) s = .next t → t = { s with core := { s.core.controlOf t.core with tiles := t.core.tiles } } ∧
       ∀ e : TReg, e ≠ t0 → t.core.tiles[e] = s.core.tiles[e]) ∧
     (exec (.xZld y z q x) s = .next t →
       t = { s with core := { s.core.controlOf t.core with lq := t.core.lq, accs := t.core.accs } } ∧
       ∀ e : ZReg, e ≠ z → t.core.accs[e] = s.core.accs[e]) ∧
     (exec (.xZzero y z) s = .next t → t = { s with core := { s.core.controlOf t.core with accs := t.core.accs } } ∧
       ∀ e : ZReg, e ≠ z → t.core.accs[e] = s.core.accs[e]) ∧
     (∀ j ∈ ([.xTmovv y d t0 x, .xZmovv y d z x] : List Instr), exec j s = .next t →
       t = { s with core := { s.core.controlOf t.core with v := t.core.v } } ∧ ∀ e, e ≠ d → t.rv e = s.rv e) ∧
     (∀ j ∈ ([.xMma y z t0 tb wd, .xMmai y z t0 tb wd, .xMmah y z t0 tb wd, .xMmab1 y z t0 tb wd, .xMmab2 y z t0 tb d wd,
         .xMmas y z t0 tb wd, .xMmax y z t0 tb wd, .xMman y z t0 tb wd, .xMmv y z t0 d wd] : List Instr), exec j s = .next t →
       t = { s with core := { s.core.controlOf t.core with fq := t.core.fq, matrix := t.core.matrix } }) ∧
     (∀ j ∈ ([.xVany y 1 f p, .xVall y 1 f p] : List Instr), exec j s = .next t → (∀ e : CFlag, e ≠ f → t.core.flags[e] = s.core.flags[e]) ∧
       t = { s with flights := t.flights, nextId := t.nextId, core := { s.core.controlOf t.core with flags := t.core.flags, tape := t.core.tape } }) ∧
     (∀ j ∈ ([.xTapeon y, .xTapeoff y, .xVtape y d g, .xXtape y x, .xPtape y p, .xTrev y, .xTmark y x, .xVuntape y d, .xXuntape y x,
         .xPuntape y p] : List Instr), exec j s = .next t →
       SameMemory s t ∧ t.core.sregs = s.core.sregs ∧ t.core.aregs = s.core.aregs ∧ t.core.flags = s.core.flags ∧ t.core.bt = s.core.bt ∧
       t.core.tiles = s.core.tiles ∧ t.core.accs = s.core.accs ∧ t.core.shapes = s.core.shapes ∧ t.core.lq = s.core.lq ∧ t.core.sq = s.core.sq ∧
       t.core.vq = s.core.vq ∧ t.core.bqa = s.core.bqa ∧ t.core.bqx = s.core.bqx ∧ t.core.fq = s.core.fq ∧ t.core.handles = s.core.handles ∧
       t.core.ltt = s.core.ltt ∧ t.core.banks = s.core.banks ∧ t.core.gen = s.core.gen ∧ t.core.isat = s.core.isat ∧
       (∀ e, e ≠ d → t.rv e = s.rv e) ∧ (∀ e, e ≠ x → t.rx e = s.rx e) ∧ ∀ e, e ≠ p → t.rp e = s.rp e))

/-- R21, R27, R30, R36, R111, R114, R129, R143, R271, R274: a wait of a stream ends when what it waits for is there:
the stream gives the signals it owes and its instruction starts again. Until then nothing changes. A parked WAITA, a
held access and a transfer of a save image are ended by events of their own, and only by these. That a wait is a state
of its stream is the model's choice (log 14); so is what holds a collective at its issue (log 235), and that an answer
to a stamp check is an operation of its own (log 137). -/
def Obligations.WaitsEnd : Prop :=
  ∀ (st : StreamId) (w : Wait) (n : Nat) (s : State), (s.stream st).status = .waiting w n → s.core.pending = none →
    let k := s.core
    let has := fun (c : Nat) => k.tokens.toList.getD c 0
    let last := min s.now (n + (k.wd st).toNat)
    let ends := fun (i : Instr) (c : Prop) [Decidable c] => exec i s = .next (if c then
      (s.setCore (k.giveSync st (s.stream st).psig)).setStream st
        { s.stream st with status := .running, ready := max (s.stream st).ready s.now, psig := 0 } else s)
    let ids := fun (l : List Nat) => l.all (fun i => s.flights.all (fun f => f.id != i))
    let group := (groupReg (instrAtA s)).bind (fun b => s.group? ((s.ra b).toNat % 4096))
    (∀ l r, w = .tokens l r → ends (.tokenWaitResume st)
      ((l = true → 0 < k.tokensOf (leftOf st) st) ∧ (r = true → 0 < k.tokensOf (rightOf st) st))) ∧
    (∀ want, w = .room want → ends (.tokenWaitResume st) (∀ c ∈ want, has c.1 + c.2 ≤ 255)) ∧
    (∀ c m, w = .take c m → ends (.tokenWaitResume st) (m ≤ has c)) ∧
    (w = .wfe → ends (.tokenWaitResume st) (0 < k.tokensOf .A .C ∨ 0 < k.tokensOf .X .C ∨ k.softPending = true)) ∧
    (w = .genf → ends (.tokenWaitResume st) (k.softPending = false)) ∧
    (∀ q m, w = .push q m → ends (.queueWaitResume st) (k.queueLen q + m ≤ queueDepth q)) ∧
    (∀ q m, w = .pop q m → q ≠ 6 → q ≠ 7 → ends (.queueWaitResume st) (m ≤ k.queueLen q)) ∧
    (∀ m, w = .pop 6 m → ends (.queueWaitResume st) (bitReady k.bqa s.now = true ∧ bitReady k.bqa last = true)) ∧
    (∀ m, w = .pop 7 m → ends (.queueWaitResume st) (bitReady k.bqx s.now = true ∧ bitReady k.bqx last = true)) ∧
    (∀ (q : LqNum) e r, w = .entry q.val → (k.loadQueue q).items = e :: r →
      ends (.queueWaitResume st) (e.data.isSome = true ∨ e.error.isSome = true)) ∧
    (∀ e r, (w = .entry 6 ∧ k.bqa.items = e :: r) ∨ (w = .entry 7 ∧ k.bqx.items = e :: r) →
      ends (.queueWaitResume st) (e.bit.isSome = true ∨ e.error.isSome = true)) ∧
    (∀ q m, w = .slip q m → st = .A → ends .slipStallResume (k.slip + m ≤ k.slipmax.toNat)) ∧
    (∀ z : ZReg, w = .accumulator z.val → ends (.scoreboardWaitResume st) (k.accOps z = [])) ∧
    (∀ t : TReg, w = .tileReaders t.val → ends (.scoreboardWaitResume st) (k.tileOps t = [])) ∧
    (∀ r, w = .scoreboard r → ends (.scoreboardWaitResume st)
      ((s.writers r).isEmpty = true ∨ (joinsToken (instrAtA s) = true ∧ ∀ f ∈ s.writers r, f.job.counts = true))) ∧
    (∀ op, w = .copySlot op → st = .A → op < 0x88 → ends .copySlotFree (copySlots s < 128)) ∧
    (∀ op, w = .copySlot op → st = .A → 0x88 ≤ op → group = none →
      ends .copySlotFree (collSlots s < 8 ∧ (engineAfter s 0 0 [4]).isEmpty = true)) ∧
    (∀ op g, w = .copySlot op → st = .A → 0x88 ≤ op → group = some g →
      ends .copySlotFree (collSlots s < 8 ∧ (engineAfter s 0 0 [4]).isEmpty = true ∧ g.reopens = false ∧
        (g.state = .open → g.next ≤ g.low + 255 ∧ g.next < 2 ^ 31))) ∧
    (∀ op, w = .matrixAccept op → st = .X → ends .matrixAcceptResume (k.matrix.countP (fun o => o.started.isNone) < 4)) ∧
    (∀ op l, w = .commits op l → ends (.commitWaitResume st) (ids l = true ∧ (op = 0x1C → st = .X → k.matrix.isEmpty = true))) ∧
    (∀ l p, w = .dbar l p → ends (.commitWaitResume st) (s.arrived k.num = false ∧ ids (k.c.awaited.getD []) = true)) ∧
    ((∃ a b, w = .waita a b) ∨ (∃ m, w = .stampCheck m) ∨ w = .saveTransfer ∨ (∃ m, w = .migratingIn m) →
      ∀ i ∈ ([.tokenWaitResume st, .queueWaitResume st, .scoreboardWaitResume st, .commitWaitResume st] : List Instr) ++
        (if st = .A then [.slipStallResume, .copySlotFree] else []) ++ (if st = .X then [.matrixAcceptResume] else []), exec i s = .next s) ∧
    (∀ grove, (∀ x ∈ s.watch, x.grove = grove → x.woken = false) → exec (.waitaWake grove) s = .next s) ∧
    (∀ m op, st = .A → w = .stampCheck m → op ≠ m → exec (.stampCheckAnswer op) s = .next s) ∧
    ((∀ t ∈ s.transfers, t.core ≠ k.num) ∨ quiet s k.num = false → exec .saveImageTransferEnd s = .next s)

/-- R37, R38, R39, R42, R288, R289: a blocking wait that outlasts its stream's bound raises WATCHDOG with what it
waited for; a matrix operation or a copy that outlasts its command bound is abandoned and its error awaits its report;
under the latch of an earlier failure a matrix operation is counted, and one that precedes the failed one takes the
latch (log 233: the model's choice); 4,096 cycles after a trap the streams that still run stop, a C-stream whose
barrier has completed behind its DBAR. Which waits are blocking, and what some of them name, is the model's choice
(logs 14, 15, 16, 215). -/
def Obligations.Watchdogs : Prop :=
  ∀ (st : StreamId) (w : Wait) (n : Nat) (s : State),
    ((s.stream st).status = .waiting w n → w.blocking = true → s.core.pending = none → barrierDue s s.core.num = false →
      let there := satisfied s st w && inBound s st w n
      (s.now ≤ n + (s.core.wd st).toNat ∨ there = true → exec (.watchdogExpiry st) s = .next s) ∧
      (n + (s.core.wd st).toNat < s.now → there = false → ∃ t i, exec (.watchdogExpiry st) s = .next t ∧
        t.core.pending = some ⟨st, s.now, i⟩ ∧ i.cause = .watchdog ∧ i.aux2 = s.core.wd st ∧
        (t.stream st).status = .stopped (if (s.stream st).psig = 0 then 1 else 2) ∧ (t.stream st).pc = (s.stream st).pc ∧ SameMemory s t ∧
        (∀ q m, w = .pop q m ∨ w = .push q m ∨ w = .slip q m → i.detail = 1 ∧ i.aux0 = BitVec.ofNat 64 q ∧ i.aux1 = s.core.queueSeq q) ∧
        (∀ q, w = .entry q → i.detail = 1 ∧ i.aux0 = BitVec.ofNat 64 q ∧ i.aux1 = s.core.queueSeq q) ∧
        (∀ c m, w = .take c m → i.detail = 2 ∧ i.aux0 = BitVec.ofNat 64 c ∧ i.aux1 = BitVec.ofNat 64 (s.core.tokens.toList.getD c 0)) ∧
        (∀ l r, w = .tokens l r → i.detail = 2) ∧ (∀ want, w = .room want → i.detail = 2) ∧
        (∀ r, w = .scoreboard r → i.detail = 3 ∧ i.aux0 = BitVec.ofNat 64 r ∧ i.aux1 = BitVec.ofNat 64 (s.writers r).length) ∧
        (∀ z : ZReg, w = .accumulator z.val → i.detail = 3 ∧ i.aux0 = BitVec.ofNat 64 (64 + z.val) ∧
          i.aux1 = BitVec.ofNat 64 (s.core.accOps z).length) ∧
        (∀ z : TReg, w = .tileReaders z.val → i.detail = 9 ∧ i.aux0 = BitVec.ofNat 64 (72 + z.val) ∧
          i.aux1 = BitVec.ofNat 64 (s.core.tileOps z).length) ∧
        (∀ op l, w = .commits op l → i.detail = 6 ∧ i.aux0 = BitVec.ofNat 64 op ∧
          i.aux1 = BitVec.ofNat 64 ((s.still l).length + if op = 0x1C ∧ st = .X then s.core.matrix.length else 0)) ∧
        (∀ a b, w = .waita a b → i.detail = 4 ∧ i.addr = BitVec.ofNat 64 a ∧ i.aux0 = BitVec.ofNat 64 a) ∧
        (∀ l p, w = .dbar l p → i.detail = 5 ∧ i.aux0 = BitVec.ofNat 64 l ∧ i.aux1 = BitVec.ofNat 64 p ∧ ∀ a ∈ t.arrivals, a.core ≠ s.core.num) ∧
        (∀ op, w = .copySlot op ∨ w = .matrixAccept op → i.detail = 8 ∧ i.aux0 = BitVec.ofNat 64 op) ∧
        (w = .genf → i.detail = 10 ∧ i.aux1 = BitVec.ofNat 64 (commandsLeft s s.core.num)) ∧ (w = .wfe → i.detail = 11))) ∧
    (∀ i o, expiredMatrix s = some (i, o) → ∃ t l, exec (.commandBoundExpiry 0) s = .next t ∧
      t.core.matrix = s.core.matrix.eraseIdx i ∧ t.core.latches[o.z] = some l ∧ SameMemory s t ∧
      let own := l.info.cause = .watchdog ∧ l.info.detail = 7 ∧ l.info.aux0 = BitVec.ofNat 64 (64 + o.z.val) ∧
        l.info.aux2 = BitVec.ofNat 64 o.bound ∧ l.pc = o.pc ∧ l.earlier = s.core.opsBefore o.z i;
      (s.core.latches[o.z] = none → own ∧ l.count = 0) ∧
      ∀ m, s.core.latches[o.z] = some m →
        (m.earlier ≤ s.core.opsBefore o.z i → l = { m with count := m.count + 1 } ∧ t.core.accs = s.core.accs) ∧
        (s.core.opsBefore o.z i < m.earlier → own ∧ l.count = m.count + 1)) ∧
    (∀ op f e, op ≠ 0 → s.flight? op = some f → f.expires = some e → e < s.now → f.job.counts = true → copyOver f = false →
      ∃ t, exec (.commandBoundExpiry op) s = .next t ∧ t.flight? op = none ∧
        (f.core = s.core.num → f.origin = none → f.orphan = false → (t.core.report? (f.reg.getD 0)).isSome = true)) ∧
    (∀ p, s.core.pending = some p → p.since + 4096 < s.now → ∃ t u, exec .drainLimit s = .next t ∧ SameMemory s t ∧
      (s.core.c.woken = false → u = s) ∧
      (∀ y l, s.core.c.woken = true → (decodeIn rowsC .C (s.core.wordAt .C s.core.c.pc.toNat) 0).toOption = some (.cDbar y l) → u = retireAt .C y s) ∧
      ∀ r, ((u.stream r).status = .running → (t.stream r).status = .stopped 5 ∧ (t.stream r).pc = (u.stream r).pc) ∧
        ((u.stream r).status ≠ .running → t.stream r = u.stream r))

/-- R286, R289–R292, R294: taking a trap. With a bank free, delivery fills the next bank with the record and where
each stream stood, raises DEPTH, and starts the handler at tvec in supervisor mode; the registers and memory stay; a
latch that the trap reports is cleared, its count in the record. With both banks in use the core writes its crash
record and is reset, and a launch that it is a member of fails. That the handler's loop stack starts empty is the
model's choice (log 210), as is what tpca and tpcx of a nested trap hold (log 114). -/
def Obligations.TrapEntry : Prop :=
  ∀ (s : State) (p : Pending), s.MemOk → s.core.pending = some p → deliverable s = true →
    (s.core.banks.length < 2 → ∃ t b, exec .trapDelivery s = .next t ∧
      t.core.banks = s.core.banks ++ [b] ∧ t.core.pending = none ∧ t.core.sup = true ∧
      t.core.c.pc = s.core.tvec ∧ t.core.c.status = .running ∧ t.core.c.loops = [] ∧
      b.taddr = p.info.addr ∧ b.thnd = p.info.hnd ∧ b.tissue = p.info.issue ∧
      b.taux0 = p.info.aux0 ∧ b.taux2 = p.info.aux2 ∧
      (p.info.clears = 0 ∨ 4 < p.info.clears → b.taux1 = p.info.aux1 ∧ t.core.latches = s.core.latches) ∧
      (∀ (z : ZReg) l, p.info.clears = 1 + z.val → s.core.latches[z] = some l → b.taux1 = l.count ∧ t.core.latches = s.core.latches.set z none) ∧
      bits b.tcause 0 8 = p.info.cause.code ∧ bits b.tcause 8 1 = (if fatal p.origin p.info.cause then 1 else 0) ∧
      bits b.tcause 10 2 = srcOf p.origin ∧ bits b.tcause 40 8 = p.info.detail.toNat ∧ bits b.tcause 48 16 = p.info.code.toNat ∧
      b.loopsC = s.core.c.loops ∧ b.loopsA = s.core.a.loops ∧ b.loopsX = s.core.x.loops ∧ b.bx = s.core.x.bx ∧
      (∀ v r, (v = s.core.c ∧ r = b.tpcc) ∨ (s.core.banks = [] ∧ ((v = s.core.a ∧ r = b.tpca) ∨ (v = s.core.x ∧ r = b.tpcx))) →
        v.status.stop < 8 → bits r 0 17 = v.pc.toNat % 2 ^ 17 ∧ bits r 17 1 = (if v.waited then 1 else 0) ∧
          bits r 21 3 = v.status.stop ∧ bits r 24 2 = v.psig.toNat) ∧
      (s.core.banks ≠ [] → t.core.a = s.core.a ∧ t.core.x = s.core.x) ∧
      t.core.sregs = s.core.sregs ∧ t.core.aregs = s.core.aregs ∧ t.core.xregs = s.core.xregs ∧ t.core.v = s.core.v ∧ t.core.p = s.core.p ∧
      t.core.tokens = s.core.tokens ∧ SameMemory s t) ∧
    (let isReset := fun (t : State) => t.core.banks = [] ∧ t.core.pending = none ∧ t.core.c.status = .notStarted ∧ t.core.a.status = .notStarted ∧
        t.core.x.status = .notStarted ∧ t.core.lastrel = s.core.lastrel ∧ t.core.member = none
      let crash := fun (t : State) => (Memory.get t.mem (crashKey s.core.num)).toNat = s.core.num % 256 ∧
        (Memory.get t.mem (crashKey s.core.num + 3)).toNat = p.info.cause.code
      2 ≤ s.core.banks.length →
      (s.core.member = none → ∃ t, exec .trapDelivery s = .next t ∧ isReset t ∧ crash t) ∧
      ∀ id m l, s.core.member = some (id, m) → s.launches = [l] → l.id = id → l.mailbox < 64 → s.core.num < 160 → teamOver s l = false →
        ∃ t, exec .trapDelivery s = .next t ∧ crash t ∧ t.launches = [] ∧ .msix l.mailbox ∈ t.outputs ∧
          t.word (mailboxKey l.mailbox + 0x70) 8 = statusWord l.tag m 0x85 l.refused 6 % 2 ^ 64 ∧ (s.core.num ∈ l.members → isReset t))

/-- What the commit of an operation changes: stores, loads, copies and digests. -/
def Obligations.Commits : Prop :=
  -- R22, R129, R139, R145, R208–R211, R218, R372: what the commit of a store changes, wherever its bytes lie: the
  -- bytes it has still to write and no others, each taking the data of the store; in a digested block, once the
  -- block's entry has its slot, with its version, its state and its payload; and what a load writes of the bytes it
  -- read. The slot that an update waits for, and from when its 18 cycles count, is log 126: the model's choice.
  (∀ (op : Nat) (f : Flight) (g : Seg) (s : State), s.MemOk → s.flight? op = some f →
     let mine := f.core = s.core.num ∧ f.origin = none ∧ f.error = none
     let ready := mayPerform s f = true ∧ f.ready ≤ s.now ∧ f.todo = [g] ∧ g.src = none ∧ 0 < g.len
     let sector := g.key % 32 + g.len ≤ 32
     let outside := ∀ r ∈ s.regions, ∀ p ∈ r.pages, p.2.1 + p.2.2 ≤ g.key ∨ g.key + g.len ≤ p.2.1
     let ev := fun (i : Instr) => if spaceOfKey g.key = 5 then Instr.hostRequestCompletion op else i
     let answered := spaceOfKey g.key = 5 → s.hostErrors.contains op = false
     (∀ i ∈ ([.sectorCommit op, .writeTransactionCommit op, .hostRequestCompletion op] : List Instr), f.job = .store →
       (∀ e ∈ f.todo, e.src = none ∧ e.data.length ≤ e.len) → ∃ t, exec i s = .next t ∧
         ∀ k, (∀ e ∈ f.todo, ¬(e.key ≤ k ∧ k < e.key + e.len)) → Memory.get t.mem k = Memory.get s.mem k) ∧
     (f.job = .store → ready → sector → mine → g.data.length = g.len → outside → answered →
       ∃ t, exec (ev (.sectorCommit op)) s = .next t ∧ t.flight? op = none ∧
         ∀ i < g.len, Memory.get t.mem (g.key + i) = g.data.getD i 0) ∧
     (∀ r b, f.job = .store → ready → mine → nextPart s [g] = (some (r, b), [g], []) → g.data.length = g.len → spaceOfKey g.key ≠ 5 →
       (s.now < f.issued + 18 → exec (.writeTransactionCommit op) s = .next s) ∧
       (f.issued + 18 ≤ s.now → s.slot? r.die (r.entryIndex b) = none ∨ (∃ c, s.slot? r.die (r.entryIndex b) = some c ∧ c.filling ≠ none) →
         ∃ t, exec (.writeTransactionCommit op) s = .next t ∧ t.flights = s.flights ∧ t.entries = s.entries ∧ SameMemory s t) ∧
       (∀ c, f.issued + 18 ≤ s.now → s.slot? r.die (r.entryIndex b) = some c → c.filling = none →
         ∃ t, exec (.writeTransactionCommit op) s = .next t ∧ t.flight? op = none ∧
           (∀ i < g.len, Memory.get t.mem (g.key + i) = g.data.getD i 0) ∧
           let e := s.entry r.num b
           let e' := t.entry r.num b
           let offs := offsetsOf r b [(g.key, g.data)]
           let whole := ∀ i < r.blockBytes, i ∈ offs
           e'.version = e.version + 1 ∧
           (s.poison = [] → s.deadChips = [] → e.lost = 0 →
             (whole ∨ e.state = .empty → e'.state = .exact ∧ e'.payload = fullPayload r (t.blockBytes r b)) ∧
             (¬whole → e.state = .stale → e'.state = .stale ∧ e'.payload = e.payload) ∧
             (¬whole → e.state = .exact ∨ e.state = .wide →
               e'.state = (if r.kind = 0 then .wide else if r.kind = 3 then .stale else .exact) ∧
               e'.payload = partialPayload r e.payload (s.blockBytes r b) (t.blockBytes r b) offs)))) ∧
     (∀ ty r, f.job = .lda ty → ready → mine → f.got = [] → f.reg = some r → 0 < r → r < 32 → s.poisoned g.key g.len = false → answered →
       ∃ t, exec (ev (.registerValueArrival op)) s = .next t ∧ t.flight? op = none ∧ SameMemory s t ∧
         t.ra (Fin.ofNat 32 r) = registerOfElem ty (s.word g.key g.len)) ∧
     (∀ (q : LqNum) seq ty, f.job = .ld q.val seq ty → ready → sector → mine → f.got = [] → s.poisoned g.key g.len = false → answered →
       ∃ t, exec (ev (.loadDataArrival op)) s = .next t ∧ t.flight? op = none ∧ SameMemory s t ∧
         ∀ i e, i = (seq - (s.core.loadQueue q).head).toNat → (s.core.loadQueue q).items[i]? = some e →
           (t.core.loadQueue q).items[i]? = some ⟨some (loadEntry ty (s.bytes g.key g.len)), none⟩)) ∧
  -- R140–R142, R144, R372: a copy moves bytes from its source to its destination: a step of CPY or CPY2D gives the
  -- places that it writes the bytes that its source holds at that step, counts them and changes no other byte; the
  -- first of CPYX gives the places of the destination, in order, the bytes that the source object's chain makes of
  -- the whole source; a destination in a digested block takes a version with its bytes. A copy that has nothing left
  -- is over, and its token takes the bytes written. When the source is read is the model's choice (log 132).
  (∀ (op n : Nat) (f : Flight) (d : Seg) (s : State), s.MemOk → s.flight? op = some f →
     let may := mayPerform s f = true ∧ f.ready ≤ s.now ∧ f.todo = [d] ∧ 0 < d.len
     let plain := d.key % 32 + d.len ≤ 32 ∧ ∀ r ∈ s.regions, ∀ p ∈ r.pages, p.2.1 + p.2.2 ≤ d.key ∨ d.key + d.len ≤ p.2.1
     let host := fun (l : List Nat) => l.any (fun k => spaceOfKey k == 5)
     let ev := fun (l : List Nat) (i : Instr) => if host l then Instr.hostRequestCompletion op else i
     let answered := s.hostErrors.contains op = false
     (f.job = .copy n none → (∀ e ∈ f.todo, e.src.isSome = true ∨ e.data.length ≤ e.len) →
       ∀ i ∈ ([.sectorCommit op, .writeTransactionCommit op, .hostRequestCompletion op] : List Instr), ∃ t, exec i s = .next t ∧
         ∀ k, (∀ e ∈ f.todo, ¬(e.key ≤ k ∧ k < e.key + e.len)) → Memory.get t.mem k = Memory.get s.mem k) ∧
     (∀ k, f.job = .copy n none → may → plain → d.src = some k → d.bad = false → s.poisoned k d.len = false → answered →
       ∃ t g, exec (ev [d.key, k] (.sectorCommit op)) s = .next t ∧ t.flight? op = some g ∧ g.todo = [] ∧ g.job = .copy (n + d.len) none ∧
         ∀ i < d.len, Memory.get t.mem (d.key + i) = Memory.get s.mem (k + i)) ∧
     (∀ k r b c, f.job = .copy n none → may → nextPart s [d] = (some (r, b), [d], []) → d.src = some k → d.bad = false → s.poisoned k d.len = false →
       answered → f.issued + 18 ≤ s.now → s.slot? r.die (r.entryIndex b) = some c → c.filling = none →
       ∃ t g, exec (ev [d.key, k] (.writeTransactionCommit op)) s = .next t ∧ t.flight? op = some g ∧ g.todo = [] ∧ g.job = .copy (n + d.len) none ∧
         (t.entry r.num b).version = (s.entry r.num b).version + 1 ∧
         ∀ i < d.len, Memory.get t.mem (d.key + i) = Memory.get s.mem (k + i)) ∧
     (∀ o src, f.job = .copy n (some (o, src)) → may → plain → d.src = none → answered → s.poison = [] → s.deadChips = [] →
       let out := runChain o o.steps ⟨segBytes src, o.ty, o.dims.take o.rank⟩ (src.flatMap (fun g => s.bytes g.key g.len)) none
       out.1.length = d.len → out.2 = none →
       ∃ t g, exec (ev (d.key :: src.map (·.key)) (.sectorCommit op)) s = .next t ∧ t.flight? op = some g ∧ g.todo = [] ∧
         g.job = .copy (n + d.len) none ∧ ∀ i < d.len, Memory.get t.mem (d.key + i) = out.1.getD i 0) ∧
     (∀ r, f.job = .copy n none → f.todo = [] → f.reg = some r → 0 < r → r < 32 → f.core = s.core.num → f.origin = none → f.error = none →
       ∃ t, exec (.copyCompletion op) s = .next t ∧ t.flight? op = none ∧ SameMemory s t ∧
         t.ra (Fin.ofNat 32 r) = s.ra (Fin.ofNat 32 r) + BitVec.ofNat 64 n)) ∧
  -- R203–R206, R210: what a payload holds of a block's bytes. BOUNDS is a least and a greatest element, the canonical
  -- NaN twice where one is a NaN; SUM is the sum, exact modulo 2^64 or one FP64 addition after another; a bit of ZMAP
  -- says whether its group holds a byte other than 0; a bit of SIG is the sign of its sum of signed elements, and
  -- NORM the sum of squares rounded once. A partial write leaves SKETCH, adds the differences to an integer SUM, and
  -- replaces the bits of the groups it touches.
  (∀ (r : Region) (l old new : List Byte) (offs : List Nat) (p : BitVec 160),
     let cs := codesOf r.ty l
     let full := fullPayload r l
     let part := partialPayload r p old new offs
     let nan : BitVec 32 := 0x7FC00000
     let size := fun (n : Nat) => zmapGroup (n / elemBytes r.ty) * elemBytes r.ty
     let group := fun (x : List Byte) (k : Nat) => ((x.drop (k * size x.length)).take (size x.length)).any (· != 0)
     (r.kind = 0 → cs ≠ [] →
       (isFloat r.ty = false → ∀ c ∈ cs, (boundsOf full).1.toInt ≤ (boundBits r.ty c).toInt ∧ (boundBits r.ty c).toInt ≤ (boundsOf full).2.toInt) ∧
       (isFloat r.ty = true → (∃ c ∈ cs, (ofFp32 (boundBits r.ty c)).isNan = true) → boundsOf full = (nan, nan)) ∧
       (isFloat r.ty = false ∨ (∀ c ∈ cs, (ofFp32 (boundBits r.ty c)).isNan = false) →
         (∃ c ∈ cs, (boundsOf full).1 = boundBits r.ty c) ∧ (∃ c ∈ cs, (boundsOf full).2 = boundBits r.ty c))) ∧
     (r.kind = 1 → isFloat r.ty = false → full.setWidth 64 = BitVec.ofInt 64 (cs.map (intOf r.ty)).sum ∧
       part.setWidth 64 = p.setWidth 64 +
         BitVec.ofInt 64 ((touched r offs).map (fun j => intOf r.ty ((codesOf r.ty new).getD j 0) - intOf r.ty ((codesOf r.ty old).getD j 0))).sum) ∧
     (r.kind = 1 → isFloat r.ty = true → full.setWidth 64 =
       cs.foldl (fun (a : Word) c => rn64 (Sys2Proof.Machine.Num.add 0 (decodeFloat fp64 a.toNat) (elemNum r.ty c))) 0) ∧
     (r.kind = 2 → ∀ k < 128, full.getLsbD k = group l k ∧
       (new.length = r.blockBytes → part.getLsbD k = if ∃ o ∈ offs, o / size new.length = k then group new k else p.getLsbD k)) ∧
     (r.kind = 3 → part = p ∧
       ((∃ c ∈ cs, ∀ neg m e x, elemNum r.ty c ≠ .fin neg m e x) → full.setWidth 128 = 0 ∧ (full >>> 128).setWidth 32 = nan) ∧
       ((∀ c ∈ cs, ∃ neg m e x, elemNum r.ty c = .fin neg m e x) →
         (∀ k < 128, full.getLsbD k = decide (0 < (cs.zipIdx.map (fun q =>
           (if sketchSign r.seed k q.2 then 1 else -1) * fixed149 (elemNum r.ty q.1))).sum)) ∧
         (full >>> 128).setWidth 32 = rn32 (.fin false (cs.map (fun c => (fixed149 (elemNum r.ty c)).natAbs ^ 2)).sum (-298) false))))

/-- Atomic updates, the near-memory unit, claims and the digest engines. -/
def Obligations.UpdatesByUnits : Prop :=
  -- R152, R157, R213, R214, R218, R320, R323: an atomic reads its element and writes the combination in one step, and
  -- no other byte, with the version of its block where it is digested; an operation reaches the unit of a chip while
  -- its queue of 64 has room; the unit, with its first operation, does the same at its chip, or, for a byte of a
  -- digested block, holds the value back in an echo; an echo is applied in one step, in the order of its block, not
  -- while its page migrates, and once the entry of its block has its slot (log 126: the model's choice).
  (∀ (op : Nat) (f : Flight) (o : AtomOp) (ty : ElemCode) (e : Elem) (v : Option Word) (s : State), s.MemOk → s.flight? op = some f →
     let n := elemBytes ty
     let old := s.word e.key n
     let u : UnitEntry := ⟨chipOf e.key, .atomic, op⟩
     let slotReady := fun (k : Nat) => ∀ g b, s.blockAt k = some (g, b) → ∃ c, s.slot? g.die (g.entryIndex b) = some c ∧ c.filling = none
     let writes := fun (t : State) =>
       (∀ x, atomNew o ty old e.v.toNat e.x.toNat = some x → t.word e.key n = x % 256 ^ n) ∧
       (atomNew o ty old e.v.toNat e.x.toNat = none → t.word e.key n = old) ∧
       ∀ k, (k < e.key ∨ e.key + n ≤ k) → Memory.get t.mem k = Memory.get s.mem k
     (mayPerform s f = true → f.error = none → s.poisoned e.key n = false → s.echoes = [] →
       (∀ r, f.job = .atomic o ty [e] v → f.core = s.core.num → f.origin = none → f.reg = some r → 0 < r → r < 32 → s.blockAt e.key = none →
         spaceOfKey e.key ≠ 3 → ∃ t, exec (.atomicCommit op) s = .next t ∧ t.flight? op = none ∧ writes t ∧
           t.ra (Fin.ofNat 32 r) = registerOfElem ty old) ∧
       (∀ r g b, f.job = .atomic o ty [e] v → f.core = s.core.num → f.origin = none → f.reg = some r → 0 < r → r < 32 → s.blockAt e.key = some (g, b) →
         spaceOfKey e.key ≠ 3 → s.poison = [] → s.deadChips = [] → f.issued + 18 ≤ s.now → slotReady e.key →
         ∃ t, exec (.atomicCommit op) s = .next t ∧ t.flight? op = none ∧ writes t ∧ t.ra (Fin.ofNat 32 r) = registerOfElem ty old ∧
           (t.entry g.num b).version =
             (s.entry g.num b).version + (if (atomNew o ty old e.v.toNat e.x.toNat).isSome then 1 else 0)) ∧
       (f.job = .nm o ty [e] v → f.origin = none → spaceOfKey e.key = 3 →
         (atUnit s u = false → (unitQueue s u.chip .atomic).length < 64 → exec (.nmUnitUpdate ⟨op, 0⟩) s = .next { s with units := s.units ++ [u] }) ∧
         (atUnit s u = false → 64 ≤ (unitQueue s u.chip .atomic).length → exec (.nmUnitUpdate ⟨op, 0⟩) s = .next s) ∧
         (atUnit s u = true → (unitQueue s u.chip .atomic).head? ≠ some u → exec (.nmUnitUpdate ⟨op, 0⟩) s = .next s) ∧
         (atUnit s u = true → (unitQueue s u.chip .atomic).head? = some u →
           (s.blockAt e.key = none → ∃ t, exec (.nmUnitUpdate ⟨op, 0⟩) s = .next t ∧ t.flight? op = none ∧ writes t) ∧
           (s.blockAt e.key ≠ none → ∀ x, atomNew o ty old e.v.toNat e.x.toNat = some x → ∃ t, exec (.nmUnitUpdate ⟨op, 0⟩) s = .next t ∧
             SameMemory s t ∧ t.echoes = [⟨s.nextId, chipOf e.key, op, e.key, n, leBytes n old, leBytes n x, s.now⟩])))) ∧
     (∀ id c, s.echoes.find? (fun x => x.id == id) = some c → c.new ≠ [] →
       (echoFirst s c = false ∨ s.migratingAt c.key c.len = true ∨ (s.blockAt c.key ≠ none ∧ s.now < c.since + 18) → exec (.echoApply id) s = .next s) ∧
       (echoFirst s c = true → s.migratingAt c.key c.len = false → (s.blockAt c.key ≠ none → c.since + 18 ≤ s.now) → slotReady c.key →
       ∃ t, exec (.echoApply id) s = .next t ∧
       t.echoes = s.echoes.filter (fun x => x.id != id) ∧
       (∀ i < c.new.length, Memory.get t.mem (c.key + i) = c.new.getD i 0) ∧
       ∀ k, (k < c.key ∨ c.key + c.new.length ≤ k) → Memory.get t.mem k = Memory.get s.mem k))) ∧
  -- R150, R218, R220, R328: a claim ends with its unit; for a reduction that has waited 42,500 cycles every claim on
  -- its granule is broken; DSCAN, once a block's entry has its slot (log 126: the model's choice), rebuilds the entry
  -- from the block's bytes; a digest fill ends, and a written-back slot goes.
  (∀ (op slot : Nat) (s : State),
     (∀ c, s.claims.find? (fun x => x.id == slot) = some c →
       (claimOver s c = true → (∀ x ∈ s.claims, x.id = slot → x.waiting = []) →
         exec (.claimEnd slot) s = .next { s with claims := s.claims.filter (fun x => x.id != slot) }) ∧
       ((∃ w ∈ c.waiting, w.op = op ∧ w.since + 42500 ≤ s.now) → (∀ x ∈ s.claims, x.op < s.nextId) → ∃ t, exec (.claimTimeout slot op) s = .next t ∧
         slot ∈ overdueClaims s c ∧ (∀ x ∈ t.claims, x.id ∉ overdueClaims s c) ∧
         ∀ x ∈ s.claims, x.id ∈ overdueClaims s c → ∀ g, s.flight? x.op = some g → ∃ h, t.flight? x.op = some h ∧ h.job = g.job.breakClaim)) ∧
     (∀ f g b, s.flight? op = some f → mayPerform s f = true → f.job = .dscan g.num [b] → s.region? g.num = some g →
       (s.now < f.issued + 18 → exec (.dscanBlockRebuild op) s = .next s) ∧
       (f.issued + 18 ≤ s.now → (∃ c, s.slot? g.die (g.entryIndex b) = some c ∧ c.filling = none) →
       ∃ t, exec (.dscanBlockRebuild op) s = .next t ∧ t.flight? op = none ∧ SameMemory s t ∧
         ((s.entry g.num b).state ≠ .empty → (s.entry g.num b).lost = 0 → s.blockPoisoned g b (List.range g.blockBytes) = false →
           t.entry g.num b = { s.entry g.num b with state := .exact, payload := fullPayload g (s.blockBytes g b) }))) ∧
     (∀ c n, s.cache.find? (fun x => x.id == slot) = some c → c.filling = some n → n ≤ s.now → ∃ t, exec (.digestFillComplete slot) s = .next t ∧
       (∀ x ∈ t.cache, x.id = slot → x.filling = none) ∧ (∀ f ∈ t.flights, f.fill ≠ some slot) ∧ SameMemory s t) ∧
     exec (.digestWritebackEnd slot) s = .next { s with writeback := s.writeback.filter (fun c => c.id != slot) })

/-- R42, R50, R108, R110, R126, R156, R238, R313: what wakes a stream from outside it. A waiter whose sector was
written goes on, in a grove one a cycle; a barrier whose members have all arrived, the last as long ago as R50 asks,
completes for the core in focus, counts its phase and acquires; a snoop is answered; an invalidation is, once nothing
more is to be read from the other copy, and clears RDUP, with ALT at 0 (log 148: the model's choice); a checked access
performs, at the answer of an operation of its own (log 137: the model's choice); a visit of the patrol gives one
granule's writer the number 255, and clears its readers, where their releases came later, and changes nothing else. -/
def Obligations.Wakes : Prop :=
  ∀ (n : Nat) (l : BitVec 2) (s : State),
    (wakeMay s n = false → exec (.waitaWake n) s = .next s) ∧
    (∀ w a b c, s.watch.find? (fun x => x.grove == n && x.woken) = some w → wakeMay s n = true → w.core = s.core.num → s.core.pending = none →
      s.core.a.status = .waiting (.waita a b) c → ∃ t, exec (.waitaWake n) s = .next t ∧ t.core.a.status = .running ∧ t.core.a.woken = true ∧
        t.core.a.pc = s.core.a.pc ∧ w ∉ t.watch ∧ SameMemory s t) ∧
    (s.arrived s.core.num = true → barrierReady s s.core.num l.toNat = true → (∀ k ∈ s.cores, k.hardStop = false) → s.core.hardStop = false → (barrierMembers s s.core.num l.toNat).Nodup →
      s.core.num ∈ barrierMembers s s.core.num l.toNat → ∃ t, exec (.barrierComplete l) s = .next t ∧
        t.core.c.status = .running ∧ t.core.c.woken = true ∧ t.core.lastacq = s.syncclk ∧
        t.core.gphase = (if l = 0 then s.core.gphase + 1 else s.core.gphase) ∧ t.core.tphase = (if l = 0 then s.core.tphase else s.core.tphase + 1) ∧
        (∀ a ∈ t.arrivals, a.core ∉ barrierMembers s s.core.num l.toNat) ∧ SameMemory s t) ∧
    (∀ f m, s.flight? n = some f → f.job = .flush m → ∃ t, exec (.backInvalidateResponse n) s = .next t ∧ SameMemory s t ∧
      (m ≤ 1 → t.flight? n = none) ∧ (1 < m → ∃ g, t.flight? n = some g ∧ g.job = .flush (m - 1))) ∧
    (∀ f d rest, s.flight? n = some f → f.dups = d :: rest → copyQuiet s d.1 d.2.1 d.2.2 = false → exec (.rdupInvalidateAck n) s = .next s) ∧
    (∀ f d rest, s.flight? n = some f → f.dups = d :: rest → copyQuiet s d.1 d.2.1 d.2.2 = true → ∃ t, exec (.rdupInvalidateAck n) s = .next t ∧
      (∀ g ∈ t.flights, d ∉ g.dups) ∧
      t.core.ltt = s.core.ltt.map (fun e => if e.2.isPage d.1 d.2.1 d.2.2 then (e.1, { e.2 with rdup := false, alt := 0 }) else e)) ∧
    (∀ (y : BitVec 4) (r : Reg) (h : Handle) (cf : Reg) (ty : ElemCode) c, s.core.a.status = .waiting (.stampCheck n) c →
      ∀ i ∈ ([.aLda32 y r h cf ty 0 0, .aSta32 y h cf r ty 0 0, .aLd32 y 0 h cf r ty 0 0, .aSt32 y h cf r ty 0 0] : List Instr),
        instrAtA s = some i → ∃ t u, exec (.stampCheckAnswer n) s = .next t ∧
          exec i (s.setStream .A { s.core.a with woken := true }) = .next u ∧ t.flights = u.flights ∧ t.mem = u.mem ∧
          t.core.aregs = u.core.aregs ∧ t.core.lq = u.core.lq ∧ t.core.sq = u.core.sq ∧ t.core.pending = u.core.pending ∧ t.core.a.pc = u.core.a.pc) ∧
    (∃ t, exec (.stampPatrolVisit n) s = .next t ∧ SameMemory s t ∧ t.core = s.core ∧ t.cores = s.cores ∧ t.flights = s.flights ∧
      let st := s.stamp n
      let readers := (List.range 160).filter (fun q => st.rmap.getLsbD q)
      (t.stamp n).wclk = st.wclk ∧ (t.stamp n).rclk = st.rclk ∧
      (t.stamp n).wcore = (if st.wcore < 160 ∧ fullClock s.syncclk st.wclk < (s.coreAt st.wcore).lastrel.toNat then 255 else st.wcore) ∧
      (t.stamp n).rmap = (if ∀ q ∈ readers, fullClock s.syncclk st.rclk < (s.coreAt q).lastrel.toNat then 0 else st.rmap) ∧
      ∀ g, g ≠ n → t.stamp g = s.stamp g)

/-- Doorbells, passes, placement, loading, completion and budgets of launches. -/
def Obligations.Launches : Prop :=
  -- R12, R44, R47, R352–R356, R358, R359: the dispatcher takes a doorbell that submits; the loader starts every
  -- stream of every member with what the image, the arguments and the record give, with the supervisor image that
  -- SUPIMG named at placement, or the launch fails with its cause; a team whose members have ended, and whose writes
  -- to HWIN have committed, is DONE; one that has used its budget fails. When the loader reads (log 41), and that a
  -- core keeps its registers after its launch is DONE (log 171), are the model's choices.
  (∀ (m id : Nat) (l : Launch) (tag : BitVec 32) (rest : List HostAsk) (s : State), s.MemOk →
     let status := fun (t : State) (m : Nat) => t.word (mailboxKey m + 0x70) 8
     (m < 64 → tag ≠ 0 → s.phase = 6 → s.launches = [] → s.poisoned (mailboxKey m) 0x80 = false →
       s.hostIn = .write (mailboxKey m + 0x78) (leBytes 8 tag.toNat) :: rest →
       let r := parseRecord (s.bytes (mailboxKey m) 0x70)
       ∃ t, exec (.doorbell m) s = .next t ∧ t.hostIn = rest ∧ t.passDue = true ∧ t.word (mailboxKey m + 0x78) 8 = 0 ∧
         (r.ok = false → t.launches = [] ∧ status t m = statusWord tag 0 0x82 false 6 ∧ .msix m ∈ t.outputs) ∧
         (r.ok = true → status t m = statusWord tag 0 0 false 1 ∧ ∃ q, t.launches = [q] ∧ q.mailbox = m ∧ q.tag = tag ∧ q.record = r ∧
           q.state = .waiting ∧ q.since = s.now)) ∧
     (s.launches = [l] → l.id = id →
       (∀ e, l.state = .loading → l.saved = false → loadImage s (l.members.headD 0) l.supimg l.record = .error e → ∃ t, exec (.overlayLoad id) s = .next t ∧
         t.launches = [] ∧ status t l.mailbox = statusWord l.tag e.2 e.1 l.refused 6 % 2 ^ 64 ∧ .msix l.mailbox ∈ t.outputs) ∧
       (∀ q, l.state = .loading → l.saved = false → l.members.Nodup → (∀ n ∈ l.members, n = s.core.num ∨ ∃ k ∈ s.others, k.num = n) →
         loadImage s (l.members.headD 0) l.supimg l.record = .ok q →
         ∃ t, exec (.overlayLoad id) s = .next t ∧ t.launches = [{ l with started := s.now, bucket := q.bucket, state := .running }] ∧
           status t l.mailbox = statusWord l.tag l.detail l.cause l.refused 3 % 2 ^ 64 ∧
           ∀ p ∈ l.members.zipIdx, let k := t.coreAt p.1
             let g := l.members.filter (fun n => groveOf n == groveOf p.1)
             k.num = p.1 ∧ k.member = some (id, p.2) ∧
             k.dmem = BitVec.ofNat 64 (l.record.team * 2 ^ 24 + p.2 * 2 ^ 16 + g.length * 2 ^ 4 + g.idxOf p.1) ∧
             (∀ st, (k.stream st).status = .running ∧ (k.stream st).loops = [] ∧ (k.stream st).waited = false) ∧
             k.c.pc = BitVec.ofNat 64 (entryPoints q.code q.bucket).1 ∧ k.a.pc = BitVec.ofNat 64 (entryPoints q.code q.bucket).2.1 ∧
             k.x.pc = BitVec.ofNat 64 (entryPoints q.code q.bucket).2.2 ∧
             (∀ r : Reg, 16 ≤ r.val → k.sregs[r] = q.args.getD (r.val - 16) 0) ∧
             (∀ r : Reg, 24 ≤ r.val → k.aregs[r] = l.record.sh.getD (r.val - 24) 0 ∧ k.xregs[r] = l.record.sh.getD (r.val - 24) 0) ∧
             k.handles = q.handles ∧ k.ltt = q.table ∧ k.banks = [] ∧ k.lastacq = s.syncclk ∧ k.lastrel = (s.coreAt p.1).lastrel ∧
             k.tokens = Vector.replicate 6 0 ∧ k.sq.seqWord = 0 ∧ k.vq.seqWord = 0 ∧ k.bqa.seqWord = 0 ∧ k.bqx.seqWord = 0 ∧ k.fq.seqWord = 0 ∧
             (∀ q : LqNum, (k.loadQueue q).seqWord = 0) ∧ k.slipmax = 256 ∧ k.tvec = 0xC000) ∧
       (launchOver s l = false → exec (.launchDone id) s = .next s) ∧
       (teamOver s l = true → (∀ f ∈ s.flights, f.core ∈ l.members → f.write = true → ∀ p ∈ f.places, spaceOfKey p.1 ≠ 6) →
         ∃ t, exec (.launchDone id) s = .next t ∧ t.launches = [] ∧ t.passDue = true ∧
           status t l.mailbox = statusWord l.tag 0 0 l.refused 5 % 2 ^ 64 ∧ .msix l.mailbox ∈ t.outputs ∧
           (s.core.num ∈ l.members → t.core.member = none ∧ t.core.sregs = s.core.sregs)) ∧
       ((l.record.budget = 0 ∨ ∀ n ∈ l.members, (s.coreAt n).ticks (s.now - 1) < l.record.budget) → exec (.budgetExpiry id) s = .next s) ∧
       (l.state = .running → l.record.budget ≠ 0 → (∃ n ∈ l.members, l.record.budget ≤ (s.coreAt n).ticks (s.now - 1)) → savingTeam s id = false →
         teamOver s l = false → ∃ t, exec (.budgetExpiry id) s = .next t ∧ t.launches = [] ∧ t.passDue = true ∧
           status t l.mailbox = statusWord l.tag 0 0x83 l.refused 6 % 2 ^ 64 ∧ (s.core.num ∈ l.members → t.core.member = none ∧ t.core.c.status = .notStarted)))) ∧
  -- R46, R356, R357: a pass comes in the cycle that calls for it, once, and each whole millisecond calls for one. It
  -- takes the waiting launches in order of their levels, which grow by 1 a millisecond up to 7, then the oldest, then
  -- the lowest mailbox; a team starts whole or waits. It goes onto free cores alone, in ascending order: first onto
  -- whole groves, and, if it is smaller than one, into the grove with the fewest free cores that holds it.
  (∀ (l : Launch) (s : State), s.MemOk →
     let status := fun (t : State) (m : Nat) => t.word (mailboxKey m + 0x70) 8
     let free := freeCores s l.id
     exec .millisecondTick s = .next (if s.lastTick < s.now / 850000 then { s with lastTick := s.now / 850000, passDue := true } else s) ∧
     (s.passDue = false → tick (.next s) = .next { s with now := s.now + 1 }) ∧
     (s.passDue = true → ∃ t, tick (.next s) = .next t ∧ t.now = s.now + 1 ∧ t.passDue = false ∧
       ((dctl s).testBit 33 = true → t = { s with passDue := false, now := s.now + 1 }) ∧
       (s.launches = [l] → l.state = .waiting → (dctl s).testBit 33 = false →
         (placeTeam free l.record.team = none → t.launches = [l] ∧ t.core = s.core ∧ t.others = s.others) ∧
         ∀ cores, placeTeam free l.record.team = some cores → ∃ q, t.launches = [q] ∧ q.id = l.id ∧ q.record = l.record ∧
           q.members = cores ∧ q.state = .loading ∧ q.started = s.now ∧
           status t l.mailbox = statusWord l.tag l.detail l.cause l.refused 2 % 2 ^ 64 ∧
           ∀ p ∈ cores.zipIdx, (t.coreAt p.1).member = some (l.id, p.2))) ∧
     (∀ a, a ∈ waitingOrder s ↔ a ∈ s.launches ∧ (a.state = .waiting ∨ a.state = .suspended)) ∧
     (waitingOrder s).Pairwise (fun a b => b.before s.now a = false) ∧
     (∀ a b : Launch, a.held = [] → b.held = [] → let level := fun (x : Launch) => min 7 (x.record.prio + (s.now - x.since) / 850000)
       (a.before s.now b = true ↔ level b < level a ∨ (level a = level b ∧ (a.since < b.since ∨ (a.since = b.since ∧ a.mailbox < b.mailbox))))) ∧
     (∀ n ∈ free, (∃ k ∈ s.cores, k.num = n ∧ k.member = none) ∧ ∀ x ∈ s.launches, x.id ≠ l.id → n ∉ x.held) ∧
     ∀ (f : List Nat) (n : Nat), f.Pairwise (· < ·) → (∀ c ∈ f, c < 160) →
       (placeTeam f n = none ↔ f.length < n) ∧
       ∀ r, placeTeam f n = some r → r.length = n ∧ r.Pairwise (· < ·) ∧ (∀ c ∈ r, c ∈ f) ∧
         (∀ g ∈ (wholeGroves f).take (n / 8), ∀ c, c / 8 = g → c ∈ r) ∧
         ∀ g, n < 8 → n ≤ (f.filter (fun c => c / 8 == g)).length →
           (∀ h, n ≤ (f.filter (fun c => c / 8 == h)).length → (f.filter (fun c => c / 8 == g)).length ≤ (f.filter (fun c => c / 8 == h)).length ∧
             ((f.filter (fun c => c / 8 == h)).length = (f.filter (fun c => c / 8 == g)).length → g ≤ h)) →
           r = (f.filter (fun c => c / 8 == g)).take n)

/-- The course of a pre-emption, of SAVEC and RESTC, and the bytes of a save image. -/
def Obligations.Preemption : Prop :=
  -- R124, R295–R300, R354, R357, R360: the course of a pre-emption: soft becomes hard, unless every member is at its
  -- fence; the transfer begins when every member stands and its save areas pass the checks, and is refused otherwise;
  -- a saved team is SUSPENDED; a broken area loses the launch; a restored team runs, its one member with the context
  -- of its image. SAVEC writes the image to its area, RESTC takes the context and the core store from it, and both go
  -- on. That lastrel and lastacq take the greater of image and core (log 231), what the device keeps of a member (log
  -- 177), what RESTC leaves of tvec and of the banks (log 178), that a save area changes in one step (log 175), and
  -- the records of errors (log 216) are the model's choices.
  (∀ (id : Nat) (p : Machine.Preemption) (l : Launch) (s : State), s.MemOk →
     let reinstated := fun (raw : List Byte) (clock : Nat) (o k : Core) =>
       let csr := fun (n : Nat) => fieldAt raw (0x600 + 8 * n) 8
       Reinstated raw k ∧ k.lastrel.toNat = max (csr 0x0D) o.lastrel.toNat ∧ k.lastacq.toNat = max (max (csr 0x0E) clock) o.lastacq.toNat ∧
       k.num = o.num ∧ k.ltt = o.ltt ∧ k.member = o.member
     let stored := fun (raw : List Byte) (t : State) => ∀ i < coreBytes, Memory.get t.mem (coreKey s.core.num 0 + i) = raw.getD (0x80000 + i) 0
     (s.preemption = some p → s.launch? id = some l → p.victim = id → p.saving = false →
       (p.hard = true ∨ s.now < p.since + 1048576 → exec (.softPreemptTimeout id) s = .next s) ∧
       (p.hard = false → p.since + 1048576 ≤ s.now →
         ((∃ n ∈ l.members, atFence s n = false) → ∃ t, exec (.softPreemptTimeout id) s = .next t ∧ t.preemption = some { p with hard := true }) ∧
         ((∀ n ∈ l.members, atFence s n = true) → exec (.softPreemptTimeout id) s = .next s)) ∧
       (teamOver s l = true ∨ (∃ n ∈ l.members, (if p.hard then atStop s n else atFence s n) = false ∨ quiet s n = false) →
         exec (.preemptSaveBegin id) s = .next s) ∧
       (teamOver s l = false → (∀ n ∈ l.members, (if p.hard then atStop s n else atFence s n) = true ∧ quiet s n = true) →
         ((∀ m ∈ l.members.zipIdx, areaFault (s.coreAt m.1) (areaOf l m.2) true = none) → ∃ t, exec (.preemptSaveBegin id) s = .next t ∧
           t.preemption = some { p with saving := true } ∧ SameMemory s t) ∧
         (∀ i n c q, l.members[i]? = some n → areaFault (s.coreAt n) (areaOf l i) true = some (c, q) →
           (∀ m ∈ l.members.zipIdx, m.2 < i → areaFault (s.coreAt m.1) (areaOf l m.2) true = none) → ∃ t, exec (.preemptSaveBegin id) s = .next t ∧
           t.preemption = none ∧ t.launch? id = some { l with refused := true, cause := c.code, detail := i } ∧
           t.word (mailboxKey l.mailbox + 0x70) 8 = statusWord l.tag i c.code true 3 % 2 ^ 64))) ∧
     (s.preemption = some p → s.launch? id = some l → p.victim = id → p.saving = true →
       (teamOver s l = true → exec (.saveEnd id) s = .next s) ∧
       (teamOver s l = false → (∀ m ∈ l.members.zipIdx, areaBroken s (s.coreAt m.1) (areaOf l m.2) = false ∧ areaQuiet s (s.coreAt m.1) (areaOf l m.2) = true) →
         ∃ t q, exec (.saveEnd id) s = .next t ∧ t.launch? id = some q ∧ q.record = l.record ∧ q.kept.length = l.members.length ∧
           q.state = .suspended ∧ q.members = [] ∧ q.since = s.now ∧ t.preemption = none ∧ t.passDue = true ∧
           (s.core.num ∈ l.members → t.core.member = none))) ∧
     (s.launches = [l] → l.id = id →
       (∀ n, brokenMember s l = some n → teamOver s l = false → ∃ t, exec (.saveBroken id) s = .next t ∧ t.launches = [] ∧
         t.word (mailboxKey l.mailbox + 0x70) 8 = statusWord l.tag n 0x84 l.refused 6 % 2 ^ 64) ∧
       (l.state = .loading → l.saved = true → l.record.budget = 0 →
         (∀ e, loadTable s l.record = .error e → ∃ t, exec (.teamRestore id) s = .next t ∧ t.launches = [] ∧
           t.word (mailboxKey l.mailbox + 0x70) 8 = statusWord l.tag e.2 e.1 l.refused 6 % 2 ^ 64) ∧
         (∀ table code handler, loadTable s l.record = .ok table → readCode s table (l.members.headD 0) l.record = .ok code →
           supervisorImage s l.supimg = some handler →
           let bare := bareCore s l table code.1 handler
           (∀ q ∈ l.members.zipIdx, restoreFault s l (bare q.2 q.1) q.2 = none) → staleFault s l bare = none →
           ∃ t q, exec (.teamRestore id) s = .next t ∧ t.launch? id = some q ∧ q.state = .running ∧ q.kept = [] ∧ q.started = s.now ∧
             (l.members = [s.core.num] → let raw := readImage s (bare 0 s.core.num) (areaOf l 0)
               reinstated raw s.syncclk.toNat (bare 0 s.core.num) t.core ∧ stored raw t ∧
               (∀ st j, (st, j) ∈ [(StreamId.C, 0), (.A, 1), (.X, 2)] → let f := fieldAt raw (0x514 + 16 * j) 4
                 (t.stream st).pc.toNat = fieldAt raw (0x510 + 16 * j) 4 % 2 ^ 17 ∧ (t.stream st).waited = f.testBit 0 ∧
                 (f.testBit 1 = true → (t.stream st).status = .ended) ∧
                 (f.testBit 1 = false → f / 64 % 4 = 0 → (t.stream st).status = .running)))))) ∧
     (∀ r, s.transfers.find? (fun x => x.core == s.core.num) = some r →
       quiet s s.core.num = false ∨ areaBroken s s.core r.area = true ∨ (r.restore = false ∧ areaQuiet s s.core r.area = false) →
       exec .saveImageTransferEnd s = .next s) ∧
     (∀ r, s.transfers.find? (fun x => x.core == s.core.num) = some r → quiet s s.core.num = true → areaBroken s s.core r.area = false →
       (r.restore = false → areaQuiet s s.core r.area = true) →
       let segs := segsOf s.core.num true (areaPieces s.core r.area)
       let image := saveImage s s.core (codeOf s s.core) 1
       ∃ t, exec .saveImageTransferEnd s = .next t ∧ t.core.c.status = .running ∧ t.core.c.woken = true ∧ t.core.engineHeld = false ∧
         (∀ x ∈ t.transfers, x.core ≠ s.core.num) ∧
         (r.restore = true → let raw := readImage s s.core r.area
           reinstated raw s.core.lastacq.toNat s.core t.core ∧ stored raw t ∧ t.core.banks.drop 1 = s.core.banks.drop 1 ∧
           (t.core.banks.headD {}).tcause = BitVec.ofNat 64 (fieldAt raw 0xE80 8) ∧ t.core.c.pc = s.core.c.pc ∧ t.core.sup = true) ∧
         (r.restore = false → t.core.sregs = s.core.sregs ∧ t.core.v = s.core.v ∧ t.core.tiles = s.core.tiles ∧
           ((∀ g ∈ segs, ∀ q ∈ s.regions, ∀ a ∈ q.pages, a.2.1 + a.2.2 ≤ g.key ∨ g.key + g.len ≤ a.2.1) → image.length = imageBytes → (segs.map (·.len)).sum = imageBytes →
             segs.Pairwise (fun g h => g.key + g.len ≤ h.key ∨ h.key + h.len ≤ g.key) →
             segs.flatMap (fun g => t.bytes g.key g.len) = image)))) ∧
  -- R301, R302: the bytes of a save image: the header with its check, GEN, the code image's address, the register
  -- files, predicates, shapes, stream records, the control registers, the queues' rings, the vectors, accumulators
  -- and tiles, and the core store, each at its offset.
  (∀ (s : State) (k : Core) (code flags : Nat), (∀ e ∈ k.handles, 88 ≤ e.2.desc.length) →
     let raw := saveImage s k code flags
     let f := fieldAt raw
     let vec := fun (n : Nat) => (raw.drop n).take 256
     raw.length = 2097152 ∧ f 0 4 = 0x5356374D ∧ f 4 2 = 1 ∧ f 6 2 = flags % 65536 ∧ f 8 2 = s.devid % 2 ^ 14 ∧ f 0xA 1 = bits k.dmem 16 8 ∧
     f 0xB 1 = bits k.dmem 24 8 ∧ f 0xC 4 = (crc32c (raw.drop 0x10)).toNat ∧ f 0x10 8 = k.gen.toNat ∧ f 0x18 8 = code % 2 ^ 64 ∧
     (∀ i < 35, f (0x20 + 4 * i) 4 = match k.report? i with
       | none => 0
       | some d => d.info.cause.code + d.pc.toNat % 2 ^ 17 * 256) ∧
     (∀ r : Reg, r ≠ 0 → f (0x100 + 8 * r.val) 8 = k.sregs[r].toNat ∧ f (0x200 + 8 * r.val) 8 = k.aregs[r].toNat ∧ f (0x300 + 8 * r.val) 8 = k.xregs[r].toNat) ∧
     f 0x100 8 = 0 ∧ f 0x200 8 = 0 ∧ f 0x300 8 = 0 ∧ f 0x400 8 = 2 ^ 64 - 1 ∧ (∀ r : PReg, r ≠ 0 → f (0x400 + 8 * r.val) 8 = k.p[r].toNat) ∧ (∀ r : BtReg, f (0x480 + 8 * r.val) 8 = k.bt[r].toNat) ∧
     (∀ r : CFlag, f (0x4A0 + r.val) 1 = (k.flags[r]).toNat) ∧ (∀ r : Fin 12, f (0x4B0 + 8 * r.val) 8 = k.shapes[r].toNat) ∧
     (k.banks = [] → ∀ st j, (st, j) ∈ [(StreamId.C, 0), (.A, 1), (.X, 2)] →
       f (0x510 + 16 * j) 4 = (k.stream st).pc.toNat % 2 ^ 17 ∧ (f (0x514 + 16 * j) 4).testBit 0 = (k.stream st).waited ∧
       ((f (0x514 + 16 * j) 4).testBit 1 = true ↔ (k.stream st).status.stop = 3) ∧ f (0x514 + 16 * j) 4 / 64 % 4 = (k.stream st).psig.toNat) ∧
     (∀ n < 0x130, f (0x600 + 8 * n) 8 = ((s.setCore k).csr n).toNat) ∧
     (∀ i < 32, i < k.vq.items.length → f (0x1C00 + 8 * ((k.vq.head.toNat + i) % 32)) 8 = (k.vq.items.getD i 0).toNat) ∧
     (∀ i < 64, i < k.fq.items.length → f (0x1D20 + 8 * ((k.fq.head.toNat + i) % 64)) 8 = (k.fq.items.getD i 0).toNat) ∧
     (∀ r : VReg, vec (0x2000 + 256 * r.val) = vecBytes k.v[r]) ∧
     (∀ i < 64, i < k.sq.items.length → vec (0x2C000 + 256 * ((k.sq.head.toNat + i) % 64)) = vecBytes (k.sq.items.getD i Vec.zero)) ∧
     (∀ (z : ZReg) (r : Fin 64), vec (0x30000 + 16384 * z.val + 256 * r.val) = vecBytes k.accs[z][r]) ∧
     (∀ (z : TReg) (r : Fin 128), vec (0x40000 + 32768 * z.val + 256 * r.val) = vecBytes k.tiles[z][r]) ∧
     raw.drop 0x80000 = s.bytes (coreKey k.num 0) coreBytes)

/-- Migration of pages, collectives, and contributions, accesses and answers that arrive. -/
def Obligations.MigrationAndFabric : Prop :=
  -- R311, R312, R344, R345, R347, R348, R364, R370: a page whose count is 0 migrates, and on arrival its bytes are in
  -- the other tier and the core that asked is judged; a collective completes with the contributions it needs, or at
  -- its deadline, not before, and its number retires; a contribution that arrives is taken, held, or dropped and
  -- counted by the first row of R347 that applies, and, once its group has opened, acknowledged. When PHYS, ALT and
  -- SPACE change (log 147), which packets are acknowledged and when (log 192), and that every packet for a number
  -- that has not issued is held (log 219) are the model's choices.
  (∀ (id : Nat) (m : Migration) (f : Flight) (c : Coll) (s : State), s.MemOk →
     (s.migrations.find? (fun x => x.id == id) = some m →
       (m.draining = false ∨ drained s m = false → exec (.migrationDrainEnd id) s = .next s) ∧
       (m.draining = true → exec (.migrationArrival id) s = .next s) ∧
       (m.draining = true → drained s m = true → ∃ t, exec (.migrationDrainEnd id) s = .next t ∧
         t.migrations = s.migrations.map (fun x => if x.id = id then { x with draining := false } else x) ∧
         t.core.ltt = s.core.ltt.map (fun e => if e.2.isPage m.space m.phys m.size then (e.1, { e.2 with state := .migratingIn }) else e)) ∧
       (m.draining = false → m.space = 2 ∨ m.space = 3 → m.phys + m.size ≤ 2 ^ 42 → m.alt + m.size ≤ 2 ^ 42 → s.launches = [] →
         ∃ t, exec (.migrationArrival id) s = .next t ∧ t.migrations = s.migrations.filter (fun x => x.id != id) ∧
           (∀ d : Word, m.requests = [(s.core.num, d)] → m.suspended = [] →
             t.core.mlate = if d.toNat < s.core.ticks s.now then s.core.mlate + 1 else s.core.mlate) ∧
           (m.exchange = false → t.core.ltt = s.core.ltt.map (fun e => if e.2.isPage (5 - m.space) m.alt m.size then
             (e.1, { e.2 with state := .present }) else e)) ∧
           (m.exchange = true → t.core.ltt = s.core.ltt.map (fun e => if e.2.isPage m.space m.phys m.size then
             (e.1, { e.2 with space := 5 - e.2.space, phys := e.2.alt, alt := e.2.phys, state := .present }) else e)) ∧
           ∀ i < m.size, Memory.get t.mem (placeKey 0 (5 - m.space) m.alt + i) = Memory.get s.mem (placeKey 0 m.space m.phys + i))) ∧
     (s.flight? id = some f → f.job = .collective c →
       (c.mask ≠ none ∨ c.needs.all c.accepted = false → exec (.collectiveComplete id) s = .next s) ∧
       (c.mask ≠ none ∨ (∀ d, c.deadline = some d → s.now < d) → exec (.collectiveDeadline id) s = .next s)) ∧
     (s.flight? id = some f → f.job = .collective c → c.mask = none →
       ∀ i ∈ ([(.collectiveComplete id, c.needs.all c.accepted = true), (.collectiveDeadline id, ∃ d, c.deadline = some d ∧ d ≤ s.now)] :
           List (Instr × Prop)), i.2 → ∃ t, exec i.1 s = .next t ∧
         (t.flight? id = none ∨ ∃ g k, t.flight? id = some g ∧ g.job = .collective k ∧ k.mask = some c.maskOf) ∧
         ∀ g, s.group? c.group = some g → g.session = c.session → g.state = .open → t.group? c.group = some (g.retire c.num)) ∧
     (∀ src session group num sender wire spn first runs counter data whole,
       let p := Packet.contribution src session group num sender wire spn first runs counter data whole
       s.inbox = [p] → src ≠ s.devid → src < 2 ^ 14 →
       let more := fun (n : Nat) => if n = 2 ^ 64 - 1 then n else n + 1
       let counted := fun (t : State) (d : Drops) (off n : Nat) => t.drops = d ∧ t.word (hwinKey 0 off) 8 = n % 2 ^ 64
       let late := fun (t : State) => counted t { s.drops with late := more s.drops.late } 0xFFC00 (more s.drops.late)
       let ahead := fun (t : State) => counted t { s.drops with ahead := more s.drops.ahead } 0xFFC08 (more s.drops.ahead)
       let dup := fun (t : State) => counted t { s.drops with dup := more s.drops.dup } 0xFFC10 (more s.drops.dup)
       let sess := fun (t : State) => counted t { s.drops with sess := more s.drops.sess } 0xFFC18 (more s.drops.sess)
       let auth := fun (t : State) => counted t { s.drops with auth := more s.drops.auth } 0xFFC20 (more s.drops.auth)
       ∃ t, exec .contributionPacket s = .next t ∧ t.inbox = [] ∧ (s.group? group = none → sess t) ∧
         ((∀ g, s.group? group = some g → g.state ≠ .opening) → ∀ l, s.routeTo src = some l → t.outputs = s.outputs ++
           [.frame l.num l.nextSeq ((pathOf s l.num).getD { port := l.port }) (.accepted s.devid session group num)]) ∧
         ∀ g, s.group? group = some g →
           let holds := t.group? group = some { g with held := g.held ++ [p] } ∧ t.drops = s.drops
           (g.state = .closed ∨ g.state = .failed → sess t) ∧ (g.state = .opening → holds ∧ t.outputs = s.outputs) ∧
           (g.state = .open → session ≠ g.session → sess t) ∧
           (g.state = .open → session = g.session →
             (whole = false ∨ g.m ≤ sender ∨ spn ≠ g.spn → auth t) ∧
             (whole = true → sender < g.m → spn = g.spn →
               (num < g.low ∨ num ∈ g.retired → late t) ∧
               (g.low ≤ num → num ∉ g.retired → g.low + 255 < num → ahead t) ∧
               (g.low ≤ num → num ∉ g.retired → num ≤ g.low + 255 →
                 (liveColl s g num = none → holds) ∧
                 ∀ h k, liveColl s g num = some (h, k) →
                   (packetFits k sender wire spn first runs data = false → auth t) ∧
                   (packetFits k sender wire spn first runs data = true →
                     (k.accepted sender = true → dup t) ∧
                     (k.accepted sender = false → t.drops = s.drops ∧ ∃ q, t.flight? h.id = some q ∧
                       q.job = .collective (k.take sender (cutRuns k runs first data))))))))) ∧
  -- R128, R162, R163, R232, R309, R328, R361–R363: an answer takes effect: an old value reaches its register, with
  -- the acquire, a PUT's bytes its token, a GET's bytes their place, and nothing follows a part that could not be
  -- read; an access that arrives is checked against the export table and answered, or performed: the packets of a PUT
  -- come together, and with the last a store of its bytes begins at the places that the table gives (log 227: the
  -- model's choice); a GET is answered in parts of at most a frame's payload; a reduction waits on a claim of its
  -- granule.
  (∀ (id : Nat) (f : Flight) (s : State), s.MemOk →
     (∀ data, s.inbox = [.answer id true data none] → s.flight? id = some f → f.ready ≤ s.now → f.core = s.core.num → f.origin = none →
       (∀ ty r, f.job = .remoteAtomic ty → f.reg = some r → 0 < r → r < 32 → data ≠ [] → ∃ t, exec .fabricAck s = .next t ∧ t.inbox = [] ∧
         t.flight? id = none ∧ SameMemory s t ∧ t.ra (Fin.ofNat 32 r) = registerOfElem ty (leNat data) ∧
         (isAcq f.ord = true → f.orphan = false → deviceOf f.hnd ≠ s.devid → t.core.lastacq = s.syncclk)) ∧
       (∀ n w r, f.job = .put [n] w → f.todo = [] → f.reg = some r → 0 < r → r < 32 → ∃ t, exec .fabricAck s = .next t ∧ t.inbox = [] ∧
         t.flight? id = none ∧ SameMemory s t ∧ t.ra (Fin.ofNat 32 r) = s.ra (Fin.ofNat 32 r) + BitVec.ofNat 64 (w + n)) ∧
       (∀ w g, f.job = .get [g.len] w → f.todo = [g] → g.src.isSome = true → 0 < g.len → data.length = g.len → ∃ t q, exec .fabricAck s = .next t ∧
         t.inbox = [] ∧ SameMemory s t ∧ t.flight? id = some q ∧ q.todo = [{ g with data := data, src := none }] ∧ q.job = .get [] w) ∧
       (∀ w g k, f.job = .get [g.len] w → f.todo = [g] → g.src = some k → data.length ≠ 0 → data.length < g.len → ∃ t q, exec .fabricAck s = .next t ∧
         t.inbox = [] ∧ SameMemory s t ∧ t.flight? id = some q ∧ q.job = .get [g.len - data.length] w ∧
         q.todo = [{ g with len := data.length, data := data, src := none }, 
           { g with key := g.key + data.length, len := g.len - data.length, src := some (k + data.length), data := g.data.drop data.length }])) ∧
     (∀ w g e, s.inbox = [.answer id false [] (some e)] → s.flight? id = some f → f.ready ≤ s.now → f.job = .get [g.len] w → f.todo = [g] →
       g.src.isSome = true → f.error = none → ∃ t q, exec .fabricAck s = .next t ∧ t.inbox = [] ∧ SameMemory s t ∧ t.flight? id = some q ∧ q.todo = [] ∧
         q.error = some (returned f e)) ∧
     (∀ src core op ask, s.inbox = [.access src core op ask] → stillServing s src core = false → s.gathering = [] →
       let spans := ask.ranges.1
       let ps := spans.flatMap (fun q => piecesOf (exportTable s) q.1 q.2)
       let arrives := ∀ q ∈ ps, ∀ e ∈ q.entry, e.2.state ≠ .migratingIn
       (∀ l, ask = .put l false → ∃ t, exec .remoteAccessArrival s = .next t ∧ t.inbox = [] ∧ t.flights = s.flights ∧ SameMemory s t ∧
         t.gathering = [⟨src, core, op, l⟩]) ∧
       (∀ e, (∃ l, ask = .put l true) → exportFault ps true = some e → src = s.devid → ∃ t, exec .remoteAccessArrival s = .next t ∧
         t.inbox = [.answer op false [] (some e)] ∧ SameMemory s t) ∧
       (∀ l, ask = .put l true → exportFault ps true = none → arrives → segBytes (segsOf 0 true ps) ≠ 0 → ∃ t g, exec .remoteAccessArrival s = .next t ∧
         t.inbox = [] ∧ t.flights = s.flights ++ [g] ∧ g.job = .store ∧ g.write = true ∧ g.origin = some (src, core, op) ∧ SameMemory s t ∧
         g.todo = fillSegs (segsOf 0 true ps) (l.flatMap (·.2)) ∧
         ∀ va data i e, l = [(va, data)] → data ≠ [] → lookup (exportTable s) va = some (i, e) → va + data.length ≤ e.vbase + e.size →
           g.todo = [{ key := placeKey 0 e.space (e.phys + (va - e.vbase)), len := data.length, data := data }]) ∧
       (∀ l, ask = .get l → exportFault ps false = none → arrives → src = s.devid →
         (∀ g ∈ segsOf 0 false ps, s.poisoned g.key g.len = false) → ∃ t parts, exec .remoteAccessArrival s = .next t ∧ SameMemory s t ∧
         t.inbox = parts.map (fun c => .answer op true c none) ∧ (∀ c ∈ parts, c.length ≤ s.payloadTo src) ∧ parts ≠ [] ∧
         parts.flatten = (segsOf 0 false ps).flatMap (fun g => s.bytes g.key g.len)) ∧
       (∀ o ty a v x back g rest, ask = .atomic o ty a v x back → exportFault ps true = none → arrives → segsOf 0 true ps = g :: rest →
         let holds := fun (c : Claim) => spaceOfKey g.key = 3 ∧ c.chip = chipOf g.key ∧ g.key / 1024 ∈ c.granules;
         ((∀ c ∈ s.claims, ¬holds c) → ∃ t f, exec .remoteAccessArrival s = .next t ∧ t.inbox = [] ∧ t.flights = s.flights ++ [f] ∧ SameMemory s t ∧
           f.job = .atomic o ty [⟨g.key, v, x⟩] none ∧ f.origin = some (src, core, op) ∧ f.write = true) ∧
         (∀ c, s.claims = [c] → holds c → ∃ t, exec .remoteAccessArrival s = .next t ∧ t.inbox = [] ∧ t.flights = s.flights ∧ SameMemory s t ∧
           t.claims = [{ c with waiting := c.waiting ++ [⟨s.now, src, core, op, ask⟩] }]))))

/-- R361, R362, R364–R366, R369, R370, R377: a group opens, with its session's numbers at 0, closes, fails, or opens
again after its last number; a link comes up in its port's mode and takes new keys; a link delivers an authentic
frame, a tunnel in sequence and once, and counts any other; a tunnel repeats what is not acknowledged; a flit that
fails is retried, and the ninth in a row fails its link. GCAUSE 0 while opening, the wait of a collective while its
group reopens, what link failures count and what a failed port or chip takes with it are the model's choices (logs
194, 195, 220, 221, 222). -/
def Obligations.GroupsAndLinks : Prop :=
  ∀ (n : Nat) (rest : List HostAsk) (s : State), s.MemOk →
    (∀ v, n < 4096 → s.hostIn = .write (groupKey n + 0x0B) [v] :: rest →
      let u := commitBytes (commitBytes { s with hostIn := rest } (groupKey n + 0x0B) [v]) (groupKey n + 0x0B) [0]
      (v = 1 → (∀ g, s.group? n = some g → g.state = .closed ∨ g.state = .failed) →
        (memberList u n = none → ∃ t g, exec (.groupOpen n) s = .next t ∧ t.group? n = some g ∧ g.state = .failed ∧ g.cause = 3 ∧ t.hostIn = rest) ∧
        (∀ l, memberList u n = some l → ∃ t g, exec (.groupOpen n) s = .next t ∧ t.group? n = some g ∧ g.state = .opening ∧ g.members = l ∧
          g.m = l.length ∧ g.cause = 0 ∧ g.held = [] ∧ g.openedAt = s.now ∧ t.hostIn = rest ∧ t.word (groupKey n + 0x0B) 1 = 0 ∧
          t.word (groupKey n + 0x0E) 1 = 1)) ∧
      (v = 2 → ∀ g, s.group? n = some g → g.state = .open → ∃ t k, exec (.groupClose n) s = .next t ∧ t.group? n = some k ∧ t.hostIn = rest ∧
        (g.low = g.next → k.state = .closed) ∧ (g.low ≠ g.next → k = { g with closing := true }))) ∧
    (∀ g, s.group? n = some g →
      (g.state ≠ .opening ∨ s.idGone = true ∨ g.openedAt + 8500000000 ≤ s.now → exec (.groupOpenConfirmed n) s = .next s) ∧
      (g.state ≠ .opening ∨ s.now < g.openedAt + 8500000000 → exec (.groupOpenTimeout n) s = .next s) ∧
      (g.closing = false ∨ g.low ≠ g.next → exec (.groupCloseComplete n) s = .next s) ∧
      (g.state = .opening → s.idGone = false → s.now < g.openedAt + 8500000000 → g.held = [] → ∃ t k, exec (.groupOpenConfirmed n) s = .next t ∧ t.group? n = some k ∧ k.state = .open ∧
        k.next = 0 ∧ k.low = 0 ∧ k.retired = [] ∧ k.sent = 0 ∧ k.reopens = false ∧
        (g.self = 0 ∨ g.reopens = true → k.session = if g.session = 65535 then 1 else g.session + 1)) ∧
      (g.state = .opening → g.held = [] → g.openedAt + 8500000000 ≤ s.now → ∃ t k, exec (.groupOpenTimeout n) s = .next t ∧
        t.group? n = some k ∧ k.state = .failed ∧ k.cause = 1) ∧
      (g.closing = true → g.state = .open → g.low = g.next → ∃ t k, exec (.groupCloseComplete n) s = .next t ∧ t.group? n = some k ∧
        k.state = .closed ∧ k.closing = false) ∧
      (∀ b w since, g.state = .open → g.closing = false → g.next = 2 ^ 31 → g.low = 2 ^ 31 → s.core.a.status = .waiting (.copySlot w) since →
        groupReg (instrAtA s) = some b → (s.ra b).toNat % 4096 = n →
        (memberList s n = none → ∃ t k, exec (.sessionReopen n) s = .next t ∧ t.group? n = some k ∧ k.state = .failed ∧ k.cause = 3) ∧
        (∀ l, memberList s n = some l → ∃ t k, exec (.sessionReopen n) s = .next t ∧ t.group? n = some k ∧ k.state = .opening ∧ k.reopens = true ∧
          k.members = l ∧ k.m = l.length ∧ k.openedAt = s.now))) ∧
    (s.link? n = none → (s.phase < 5 ∨ s.idGone = true → exec (.linkBringup n) s = .next s) ∧
      (n < 16 → 5 ≤ s.phase → s.idGone = false → (∀ l ∈ s.links, l.up = true → l.port ≠ n) →
        ∃ t, exec (.linkBringup n) s = .next t ∧ t.link? n = some { num := n, up := true, port := n }) ∧
      (∀ i p, n = 64 + i → i < 64 → 5 ≤ s.phase → s.idGone = false → s.word (hwinKey 0 (0xEA000 + 32 * i + 20)) 1 = p → p < 16 →
        s.word (hwinKey 0 (0xEA000 + 32 * i + 21)) 1 % 2 = 1 → s.poisoned (hwinKey 0 (0xEA000 + 32 * i)) 32 = false →
        s.poisoned (hwinKey 0 (0xEB000 + 16 * p)) 16 = false → (∀ l ∈ s.links, l.up = true → l.port = p → 16 ≤ l.num) →
        ∃ t, exec (.linkBringup n) s = .next t ∧ t.link? n = some { num := n, up := true, port := p })) ∧
    (∀ l, s.link? n = some l → l.up = true →
      (2 ^ 31 ≤ l.frames → ∃ t, exec (.linkRekey n) s = .next t ∧
        t.link? n = some { l with frames := l.frames - 2 ^ 31, rekeys := l.rekeys + 1 } ∧ t.inbox = s.inbox) ∧
      (∀ f r, l.arrived = f :: r →
        (f.authentic = true → f.wellFormed = true → n < 64 → ∃ t, exec (.frameReceive n) s = .next t ∧ t.inbox = s.inbox ++ [f.packet] ∧
          t.link? n = some { l with arrived := r, frames := l.frames + 1 }) ∧
        (f.authentic = true → f.wellFormed = true → 64 ≤ n → f.fragment = false → l.ahead = [] →
          (f.seq = l.expect → ∃ t k, exec (.frameReceive n) s = .next t ∧ t.inbox = s.inbox ++ [f.packet] ∧ t.link? n = some k ∧
            k.expect = l.expect + 1 ∧ k.ahead = [] ∧ t.outputs = s.outputs ++ [.frameAck n f.seq]) ∧
          (f.seq < l.expect → ∃ t, exec (.frameReceive n) s = .next t ∧ t.inbox = s.inbox ∧ t.outputs = s.outputs ++ [.frameAck n f.seq])) ∧
        (64 ≤ n → f.fragment = true → ∃ t, exec (.frameReceive n) s = .next t ∧ t.inbox = s.inbox ∧ t.outputs = s.outputs ∧
          t.link? n = some { l with arrived := r }) ∧
        (f.authentic = false ∨ f.wellFormed = false → n < 64 ∨ f.fragment = false → ∃ t, exec (.frameReceive n) s = .next t ∧ t.inbox = s.inbox ∧
          let auth := if s.drops.auth = 2 ^ 64 - 1 then s.drops.auth else s.drops.auth + 1
          t.drops = { s.drops with auth := auth } ∧ t.word (hwinKey 0 0xFFC20) 8 = auth % 2 ^ 64)) ∧
      (∀ u, l.unacked.find? (fun u => decide (u.2.1 + 1700000 ≤ s.now)) = some u → ∃ t, exec (.tunnelRetransmit n) s = .next t ∧
        t.outputs = s.outputs ++ [.frame n u.1 ((pathOf s n).getD { port := l.port }) u.2.2] ∧ ∃ k, t.link? n = some k ∧ k.retries = l.retries + 1) ∧
      ((n < 16 ∧ l.port = n) ∨ (128 ≤ n ∧ n ≤ 140) → ∃ t k, exec (.flitCrcRetry n) s = .next t ∧ t.link? n = some k ∧
        (l.crcFails < 8 → k.up = true ∧ k.crcFails = l.crcFails + 1 ∧ t.corr = (if s.corr = BitVec.allOnes 64 then s.corr else s.corr + 1)) ∧
        (8 ≤ l.crcFails → k.up = false ∧ (128 ≤ n → n < 140 → n - 128 ∈ t.deadChips))))

/-- R212, R214, R244, R353, R371, R375, R378: a request of the host names bytes by a window's offset; the host reads,
writes and combines bytes of the device, a retired channel's apart, and a write to a digested block takes a version; a
request outside what it may reach stops by name (log 197: the model's choice), and a read of an uncorrectable unit is
answered as poisoned (log 196: the model's choice); an AtomicOp to the HDM range is unsupported; a register takes what
is written to it; an attestation request is taken up, another GO meanwhile has no effect, without an identity key it
ends with ERR, and with one the measurements and the nonce stand before the signature. -/
def Obligations.HostPort : Prop :=
  ∀ (k n : Nat) (data : List Byte) (v : Word) (rest : List HostAsk) (s : State), s.MemOk →
    let outside := fun (a len : Nat) => ∀ r ∈ s.regions, ∀ p ∈ r.pages, p.2.1 + p.2.2 ≤ a ∨ a + len ≤ p.2.1
    (HostAsk.at? .bar0 (.read k n) = (if k < 2 ^ 21 then some (.read (hwinKey 0 k) n) else none) ∧
      HostAsk.at? .hdm (.read k n) = some (.read (if k < 0x4000000000 then nearKey k else archKey (k - 0x4000000000)) n) ∧
      HostAsk.at? .hdm (.write k data) = some (.write (if k < 0x4000000000 then nearKey k else archKey (k - 0x4000000000)) data)) ∧
    (s.hostIn = .read k n :: rest →
      (hostVisible s k n = true → s.poisoned k n = false → ∃ t, exec .hostMemoryRequest s = .next t ∧ t.hostIn = rest ∧
        t.outputs = s.outputs ++ [.data (s.bytes k n)] ∧ SameMemory s t) ∧
      (hostVisible s k n = true → s.poisoned k n = true → ∃ t, exec .hostMemoryRequest s = .next t ∧ t.outputs = s.outputs ++ [.poisoned] ∧ SameMemory s t) ∧
      (hostVisible s k n = false → exec .hostMemoryRequest s = .fault (.noSuchByte k))) ∧
    (k < 2 ^ 38 → (hostVisible s (nearKey k) 1 = true ↔
      k < 96 * 10 ^ 9 - s.ret0 * 10 ^ 9 ∨ 96 * 10 ^ 9 ≤ k ∧ k < 192 * 10 ^ 9 - s.ret1 * 10 ^ 9)) ∧
    (s.hostIn = .write k data :: rest →
      (hostWriteSort k data.length = .plain → hostVisible s k data.length = false → exec .hostMemoryRequest s = .fault (.noSuchByte k)) ∧
      (hostWriteSort k data.length = .plain → hostVisible s k data.length = true → hostMayWrite s k data.length = false →
        exec .hostMemoryRequest s = .next s) ∧
      (∀ r b c, hostWriteSort k data.length = .plain → hostVisible s k data.length = true → hostMayWrite s k data.length = true →
        duplicated s k data.length = [] → blocksMet s [(k, data.length)] = [(r, b)] →
        (let g : Seg := { key := k, len := data.length, data := data }; nextPart s [g] = (some (r, b), [g], [])) →
        s.slot? r.die (r.entryIndex b) = some c → c.filling = none → ∃ t, exec .hostMemoryRequest s = .next t ∧ t.hostIn = rest ∧
          (∀ i < data.length, Memory.get t.mem (k + i) = data.getD i 0) ∧ (t.entry r.num b).version = (s.entry r.num b).version + 1) ∧
      (hostWriteSort k data.length = .plain → hostVisible s k data.length = true → hostMayWrite s k data.length = true → outside k data.length →
        duplicated s k data.length = [] → ∃ t, exec .hostMemoryRequest s = .next t ∧ t.hostIn = rest ∧
          (∀ i < data.length, Memory.get t.mem (k + i) = data.getD i 0) ∧
          ∀ j, (j < k ∨ k + data.length ≤ j) → Memory.get t.mem j = Memory.get s.mem j) ∧
      (hostWriteSort k data.length = .register → ∃ t, exec .hwinRegisterWrite s = .next t ∧ t.hostIn = rest ∧
        (∀ i < data.length, Memory.get t.mem (k + i) = data.getD i 0) ∧
        ∀ j, (j < k ∨ k + data.length ≤ j) → Memory.get t.mem j = Memory.get s.mem j)) ∧
    (∀ op x, s.hostIn = .atomicOp k n op v x :: rest →
      (spaceOfKey k ≠ 6 → ∃ t, exec .hostAtomicop s = .next t ∧ t.hostIn = rest ∧ t.outputs = s.outputs ++ [.unsupported] ∧ SameMemory s t) ∧
      (n = 4 ∨ n = 8 → k % n = 0 → spaceOfKey k = 6 → s.poisoned k n = false → hostWriteSort k n = .plain →
        let old := s.word k n
        ∀ new, (op, new) ∈ [(AtomOp.add, old + v.toNat), (.xchg, v.toNat), (.cas, if old = v.toNat % 2 ^ (8 * n) then x.toNat else old)] →
        ∃ t, exec .hostAtomicop s = .next t ∧ t.hostIn = rest ∧ t.outputs = s.outputs ++ [.data (s.bytes k n)] ∧
          t.word k n = new % 256 ^ n ∧ ∀ j, (j < k ∨ k + n ≤ j) → Memory.get t.mem j = Memory.get s.mem j)) ∧
    (s.attesting = none → s.hostIn = .write areqKey (leBytes 8 v.toNat) :: rest → v.getLsbD 0 = true → ∃ t, exec .attestationRequest s = .next t ∧
      t.hostIn = rest ∧ t.attesting = some (v.toNat / 2 ^ 15 * 2 ^ 15)) ∧
    (s.attesting = some n → s.hostIn = .write areqKey (leBytes 8 v.toNat) :: rest → ∀ i ∈ ([.attestationRequest, .hwinRegisterWrite] : List Instr),
      exec i s = .next { s with hostIn := rest }) ∧
    (s.attesting = some n → s.hostIn = [] → s.idGone = true → ∃ t, exec .attestationRequest s = .next t ∧ t.attesting = none ∧
      t.word areqKey 1 = s.word areqKey 1 / 4 * 4 % 256 + 2) ∧
    (let size := 160 + signatureBytes;
      s.attesting = some n → s.hostIn = [] → s.idGone = false → s.poisoned areqKey 8 = false → tierRangeOk s.ret0 s.ret1 2 n 32768 = true →
      s.poisoned (nearKey n) 32 = false → hostMayWrite s (nearKey n + 32) size = true → outside (nearKey n + 32) size →
      duplicated s (nearKey n + 32) size = [] → ∃ t, exec .attestationRequest s = .next t ∧ t.attesting = none ∧
        t.word areqKey 1 = s.word areqKey 1 / 2 * 2 % 256 ∧
        ∀ i < 160, Memory.get t.mem (nearKey n + 32 + i) = (attested (s.bytes (nearKey n) 32)).getD i 0)

/-- R373, R374, R376–R379: boot goes on by its steps or stops at one that fails; a reset leaves the device as at
power-on, but for what the flash and the fuses keep, and memory (log 60: the model's choice), with the failures of
channels (log 224: the model's choice); an alarm takes down links and open groups, and the third with no 100 ms free
of alarms between resets; a parity error is reported at its stream's next boundary; parity, scrub, channel failure and
retirement. -/
def Obligations.DeviceEvents : Prop :=
  ∀ (n : Nat) (s : State), s.MemOk →
    (∀ ok, s.bootErr = 0 → s.phase < 6 → ∃ t, exec (.bootStep ok) s = .next t ∧ t.core = { s.core with lastRead := t.core.lastRead } ∧
      (ok = true ∨ s.phase = 0 ∨ s.phase = 5 → t.phase = s.phase + 1 ∧ t.bootErr = 0) ∧
      (ok = false → s.phase = 1 ∨ s.phase = 2 → t.phase = s.phase ∧ t.bootErr = s.phase) ∧
      (ok = false → s.phase = 3 → t.phase = 3 ∧ 3 ≤ t.bootErr ∧ t.bootErr ≤ 5) ∧ (ok = false → s.phase = 4 → t.phase = 4 ∧ t.bootErr = 6)) ∧
    (∀ i ∈ ([.deviceReset, .junctionOvertemp] : List Instr), ∃ t, exec i s = .next t ∧ t.core = Core.reset 0 ∧ t.flights = [] ∧ t.launches = [] ∧
      t.groups = [] ∧ t.links = [] ∧ t.regions = [] ∧ t.now = 0 ∧ t.phase = 0 ∧ t.syncclk = 0 ∧ t.drops = {} ∧ t.corr = 0 ∧ t.marks = [] ∧
      t.idGone = s.idGone ∧ t.ret0 = s.ret0 ∧ t.ret1 = s.ret1 ∧ t.devid = s.devid ∧ t.failures = s.failures ∧ t.retiring = s.retiring ∧ t.retired = s.retired ∧ t.parity = [] ∧ t.attesting = none ∧
      t.passDue = false ∧ t.epoch = s.epoch + s.now ∧ ∀ j, (j < hwinKey 0 0xFFD00 ∨ hwinKey 0 0xFFD18 ≤ j) → Memory.get t.mem j = Memory.get s.mem j) ∧
    (let count := if s.lastAlarm + 85000000 ≤ s.now then 1 else s.alarms + 1;
      (count < 3 → ∃ t, exec .securityAlarm s = .next t ∧ t.alarms = count ∧ t.lastAlarm = s.now ∧ t.idGone = (s.idGone || s.tamperNext) ∧
        (∀ l ∈ t.links, l.num < 128 → l.up = false) ∧ (∀ l ∈ s.links, 128 ≤ l.num → l ∈ t.links) ∧ ∀ g ∈ t.groups, g.state ≠ .open) ∧
      (3 ≤ count → ∃ t, exec .securityAlarm s = .next t ∧ t.alarms = 0 ∧ t.groups = [] ∧ t.phase = 0 ∧ t.idGone = (s.idGone || s.tamperNext))) ∧
    (s.alarms = 0 ∨ s.now < s.lastAlarm + 85000000 → exec .alarmQuietTimeout s = .next s) ∧
    (s.alarms ≠ 0 → s.lastAlarm + 85000000 ≤ s.now → ∃ t, exec .alarmQuietTimeout s = .next t ∧ t.alarms = 0 ∧
      t.core = { s.core with lastRead := t.core.lastRead } ∧ t.groups = s.groups) ∧
    ((∀ p ∈ s.parity, p.1 = s.core.num → s.core.pending ≠ none ∨ (∃ w n, (s.stream p.2.1).status = .waiting w n) ∨
        (∃ n, (s.stream p.2.1).status = .stopped n)) → (∀ p ∈ s.parity, (s.stream p.2.1).status ≠ .ended ∧ (s.stream p.2.1).status ≠ .notStarted) →
      exec .controlParityError s = .next s) ∧
    (∀ st c, s.parity.find? (parityReady s) = some (s.core.num, st, c) → (s.stream st).status = .running →
      ∃ t i, exec .controlParityError s = .next t ∧ t.core.pending = some ⟨st, s.now, i⟩ ∧ i.cause = .eccUncorrectable ∧ i.aux0 = 6 ∧
        t.parity = s.parity.erase (s.core.num, st, c) ∧ (t.stream st).pc = (s.stream st).pc) ∧
    (∃ t, exec .patrolScrub s = .next t ∧ t.corr = (if s.corr = BitVec.allOnes 64 then s.corr else s.corr + 1) ∧
      ∀ j, (j < hwinKey 0 0xFFD08 ∨ hwinKey 0 0xFFD10 ≤ j) → Memory.get t.mem j = Memory.get s.mem j) ∧
    (192 ≤ n ∨ n ∈ s.retired → exec (.channelFailure n) s = .next s ∧ exec (.channelRetirementEnd n) s = .next s) ∧
    (n < 192 → n ∉ s.retired → let time := s.epoch + s.now
      ∃ t, exec (.channelFailure n) s = .next t ∧ (n, time) ∈ t.failures ∧ SameMemory s t ∧
      ((∀ f ∈ s.failures, f.1 = n → f.2 + 73440000000000 < time) → t.retiring = s.retiring) ∧
      ((∃ f ∈ s.failures, f.1 = n ∧ time ≤ f.2 + 73440000000000) → n ∈ t.retiring)) ∧
    (n ∈ s.retiring → n ∉ s.retired → topFree s (n / 96) = true → ∃ t, exec (.channelRetirementEnd n) s = .next t ∧ n ∉ t.retiring ∧ n ∈ t.retired ∧ t.cmap = s.cmap + 1 ∧
      (∀ f ∈ t.failures, f.1 ≠ n) ∧
      t.ret0 = (if n / 96 = 0 then s.ret0 + 1 else s.ret0) ∧ t.ret1 = (if n / 96 = 0 then s.ret1 else s.ret1 + 1))
end

