-- ==== Sys2Proof/Laws/State.lean ====
section
/-! SUPPORT. What the small updates of the state leave and what they write: one lemma for each field and update. -/
namespace Sys2Proof.Machine

/-! ### Replacing the core in focus -/

@[simp] theorem State.setCore_core (s : State) (k : Core) : (s.setCore k).core = k := rfl
@[simp] theorem State.setCore_others (s : State) (k : Core) : (s.setCore k).others = s.others := rfl
@[simp] theorem State.setCore_agenda (s : State) (k : Core) : (s.setCore k).agenda = s.agenda := rfl
@[simp] theorem State.setCore_rotor (s : State) (k : Core) : (s.setCore k).rotor = s.rotor := rfl
@[simp] theorem State.setCore_now (s : State) (k : Core) : (s.setCore k).now = s.now := rfl
@[simp] theorem State.setCore_fresh (s : State) (k : Core) : (s.setCore k).fresh = s.fresh := rfl
@[simp] theorem State.setCore_nextId (s : State) (k : Core) : (s.setCore k).nextId = s.nextId := rfl
@[simp] theorem State.setCore_mem (s : State) (k : Core) : (s.setCore k).mem = s.mem := rfl
@[simp] theorem State.setCore_poison (s : State) (k : Core) : (s.setCore k).poison = s.poison := rfl
@[simp] theorem State.setCore_marks (s : State) (k : Core) : (s.setCore k).marks = s.marks := rfl
@[simp] theorem State.setCore_syncclk (s : State) (k : Core) : (s.setCore k).syncclk = s.syncclk := rfl
@[simp] theorem State.setCore_flights (s : State) (k : Core) : (s.setCore k).flights = s.flights := rfl
@[simp] theorem State.setCore_regions (s : State) (k : Core) : (s.setCore k).regions = s.regions := rfl
@[simp] theorem State.setCore_entries (s : State) (k : Core) : (s.setCore k).entries = s.entries := rfl
@[simp] theorem State.setCore_stamps (s : State) (k : Core) : (s.setCore k).stamps = s.stamps := rfl
@[simp] theorem State.setCore_cache (s : State) (k : Core) : (s.setCore k).cache = s.cache := rfl
@[simp] theorem State.setCore_writeback (s : State) (k : Core) : (s.setCore k).writeback = s.writeback := rfl
@[simp] theorem State.setCore_watch (s : State) (k : Core) : (s.setCore k).watch = s.watch := rfl
@[simp] theorem State.setCore_arrivals (s : State) (k : Core) : (s.setCore k).arrivals = s.arrivals := rfl
@[simp] theorem State.setCore_migrations (s : State) (k : Core) : (s.setCore k).migrations = s.migrations := rfl
@[simp] theorem State.setCore_echoes (s : State) (k : Core) : (s.setCore k).echoes = s.echoes := rfl
@[simp] theorem State.setCore_claims (s : State) (k : Core) : (s.setCore k).claims = s.claims := rfl
@[simp] theorem State.setCore_gathering (s : State) (k : Core) : (s.setCore k).gathering = s.gathering := rfl
@[simp] theorem State.setCore_units (s : State) (k : Core) : (s.setCore k).units = s.units := rfl
@[simp] theorem State.setCore_launches (s : State) (k : Core) : (s.setCore k).launches = s.launches := rfl
@[simp] theorem State.setCore_preemption (s : State) (k : Core) : (s.setCore k).preemption = s.preemption := rfl
@[simp] theorem State.setCore_transfers (s : State) (k : Core) : (s.setCore k).transfers = s.transfers := rfl
@[simp] theorem State.setCore_crashes (s : State) (k : Core) : (s.setCore k).crashes = s.crashes := rfl
@[simp] theorem State.setCore_lastTick (s : State) (k : Core) : (s.setCore k).lastTick = s.lastTick := rfl
@[simp] theorem State.setCore_passDue (s : State) (k : Core) : (s.setCore k).passDue = s.passDue := rfl
@[simp] theorem State.setCore_links (s : State) (k : Core) : (s.setCore k).links = s.links := rfl
@[simp] theorem State.setCore_deadChips (s : State) (k : Core) : (s.setCore k).deadChips = s.deadChips := rfl
@[simp] theorem State.setCore_groups (s : State) (k : Core) : (s.setCore k).groups = s.groups := rfl
@[simp] theorem State.setCore_drops (s : State) (k : Core) : (s.setCore k).drops = s.drops := rfl
@[simp] theorem State.setCore_tableSteps (s : State) (k : Core) : (s.setCore k).tableSteps = s.tableSteps := rfl
@[simp] theorem State.setCore_inbox (s : State) (k : Core) : (s.setCore k).inbox = s.inbox := rfl
@[simp] theorem State.setCore_hostIn (s : State) (k : Core) : (s.setCore k).hostIn = s.hostIn := rfl
@[simp] theorem State.setCore_hostErrors (s : State) (k : Core) : (s.setCore k).hostErrors = s.hostErrors := rfl
@[simp] theorem State.setCore_outputs (s : State) (k : Core) : (s.setCore k).outputs = s.outputs := rfl
@[simp] theorem State.setCore_devid (s : State) (k : Core) : (s.setCore k).devid = s.devid := rfl
@[simp] theorem State.setCore_phase (s : State) (k : Core) : (s.setCore k).phase = s.phase := rfl
@[simp] theorem State.setCore_bootErr (s : State) (k : Core) : (s.setCore k).bootErr = s.bootErr := rfl
@[simp] theorem State.setCore_idGone (s : State) (k : Core) : (s.setCore k).idGone = s.idGone := rfl
@[simp] theorem State.setCore_alarms (s : State) (k : Core) : (s.setCore k).alarms = s.alarms := rfl
@[simp] theorem State.setCore_lastAlarm (s : State) (k : Core) : (s.setCore k).lastAlarm = s.lastAlarm := rfl
@[simp] theorem State.setCore_tamperNext (s : State) (k : Core) : (s.setCore k).tamperNext = s.tamperNext := rfl
@[simp] theorem State.setCore_cmap (s : State) (k : Core) : (s.setCore k).cmap = s.cmap := rfl
@[simp] theorem State.setCore_ret0 (s : State) (k : Core) : (s.setCore k).ret0 = s.ret0 := rfl
@[simp] theorem State.setCore_ret1 (s : State) (k : Core) : (s.setCore k).ret1 = s.ret1 := rfl
@[simp] theorem State.setCore_corr (s : State) (k : Core) : (s.setCore k).corr = s.corr := rfl
@[simp] theorem State.setCore_epoch (s : State) (k : Core) : (s.setCore k).epoch = s.epoch := rfl
@[simp] theorem State.setCore_failures (s : State) (k : Core) : (s.setCore k).failures = s.failures := rfl
@[simp] theorem State.setCore_retiring (s : State) (k : Core) : (s.setCore k).retiring = s.retiring := rfl
@[simp] theorem State.setCore_retired (s : State) (k : Core) : (s.setCore k).retired = s.retired := rfl
@[simp] theorem State.setCore_attesting (s : State) (k : Core) : (s.setCore k).attesting = s.attesting := rfl
@[simp] theorem State.setCore_parity (s : State) (k : Core) : (s.setCore k).parity = s.parity := rfl

/-! ### ws -/

@[simp] theorem State.ws_others (s : State) (r : Reg) (x : Word) : (s.ws r x).others = s.others := rfl
@[simp] theorem State.ws_agenda (s : State) (r : Reg) (x : Word) : (s.ws r x).agenda = s.agenda := rfl
@[simp] theorem State.ws_rotor (s : State) (r : Reg) (x : Word) : (s.ws r x).rotor = s.rotor := rfl
@[simp] theorem State.ws_now (s : State) (r : Reg) (x : Word) : (s.ws r x).now = s.now := rfl
@[simp] theorem State.ws_fresh (s : State) (r : Reg) (x : Word) : (s.ws r x).fresh = s.fresh := rfl
@[simp] theorem State.ws_nextId (s : State) (r : Reg) (x : Word) : (s.ws r x).nextId = s.nextId := rfl
@[simp] theorem State.ws_mem (s : State) (r : Reg) (x : Word) : (s.ws r x).mem = s.mem := rfl
@[simp] theorem State.ws_poison (s : State) (r : Reg) (x : Word) : (s.ws r x).poison = s.poison := rfl
@[simp] theorem State.ws_marks (s : State) (r : Reg) (x : Word) : (s.ws r x).marks = s.marks := rfl
@[simp] theorem State.ws_syncclk (s : State) (r : Reg) (x : Word) : (s.ws r x).syncclk = s.syncclk := rfl
@[simp] theorem State.ws_flights (s : State) (r : Reg) (x : Word) : (s.ws r x).flights = s.flights := rfl
@[simp] theorem State.ws_regions (s : State) (r : Reg) (x : Word) : (s.ws r x).regions = s.regions := rfl
@[simp] theorem State.ws_entries (s : State) (r : Reg) (x : Word) : (s.ws r x).entries = s.entries := rfl
@[simp] theorem State.ws_stamps (s : State) (r : Reg) (x : Word) : (s.ws r x).stamps = s.stamps := rfl
@[simp] theorem State.ws_cache (s : State) (r : Reg) (x : Word) : (s.ws r x).cache = s.cache := rfl
@[simp] theorem State.ws_writeback (s : State) (r : Reg) (x : Word) : (s.ws r x).writeback = s.writeback := rfl
@[simp] theorem State.ws_watch (s : State) (r : Reg) (x : Word) : (s.ws r x).watch = s.watch := rfl
@[simp] theorem State.ws_arrivals (s : State) (r : Reg) (x : Word) : (s.ws r x).arrivals = s.arrivals := rfl
@[simp] theorem State.ws_migrations (s : State) (r : Reg) (x : Word) : (s.ws r x).migrations = s.migrations := rfl
@[simp] theorem State.ws_echoes (s : State) (r : Reg) (x : Word) : (s.ws r x).echoes = s.echoes := rfl
@[simp] theorem State.ws_claims (s : State) (r : Reg) (x : Word) : (s.ws r x).claims = s.claims := rfl
@[simp] theorem State.ws_gathering (s : State) (r : Reg) (x : Word) : (s.ws r x).gathering = s.gathering := rfl
@[simp] theorem State.ws_units (s : State) (r : Reg) (x : Word) : (s.ws r x).units = s.units := rfl
@[simp] theorem State.ws_launches (s : State) (r : Reg) (x : Word) : (s.ws r x).launches = s.launches := rfl
@[simp] theorem State.ws_preemption (s : State) (r : Reg) (x : Word) : (s.ws r x).preemption = s.preemption := rfl
@[simp] theorem State.ws_transfers (s : State) (r : Reg) (x : Word) : (s.ws r x).transfers = s.transfers := rfl
@[simp] theorem State.ws_crashes (s : State) (r : Reg) (x : Word) : (s.ws r x).crashes = s.crashes := rfl
@[simp] theorem State.ws_lastTick (s : State) (r : Reg) (x : Word) : (s.ws r x).lastTick = s.lastTick := rfl
@[simp] theorem State.ws_passDue (s : State) (r : Reg) (x : Word) : (s.ws r x).passDue = s.passDue := rfl
@[simp] theorem State.ws_links (s : State) (r : Reg) (x : Word) : (s.ws r x).links = s.links := rfl
@[simp] theorem State.ws_deadChips (s : State) (r : Reg) (x : Word) : (s.ws r x).deadChips = s.deadChips := rfl
@[simp] theorem State.ws_groups (s : State) (r : Reg) (x : Word) : (s.ws r x).groups = s.groups := rfl
@[simp] theorem State.ws_drops (s : State) (r : Reg) (x : Word) : (s.ws r x).drops = s.drops := rfl
@[simp] theorem State.ws_tableSteps (s : State) (r : Reg) (x : Word) : (s.ws r x).tableSteps = s.tableSteps := rfl
@[simp] theorem State.ws_inbox (s : State) (r : Reg) (x : Word) : (s.ws r x).inbox = s.inbox := rfl
@[simp] theorem State.ws_hostIn (s : State) (r : Reg) (x : Word) : (s.ws r x).hostIn = s.hostIn := rfl
@[simp] theorem State.ws_hostErrors (s : State) (r : Reg) (x : Word) : (s.ws r x).hostErrors = s.hostErrors := rfl
@[simp] theorem State.ws_outputs (s : State) (r : Reg) (x : Word) : (s.ws r x).outputs = s.outputs := rfl
@[simp] theorem State.ws_devid (s : State) (r : Reg) (x : Word) : (s.ws r x).devid = s.devid := rfl
@[simp] theorem State.ws_phase (s : State) (r : Reg) (x : Word) : (s.ws r x).phase = s.phase := rfl
@[simp] theorem State.ws_bootErr (s : State) (r : Reg) (x : Word) : (s.ws r x).bootErr = s.bootErr := rfl
@[simp] theorem State.ws_idGone (s : State) (r : Reg) (x : Word) : (s.ws r x).idGone = s.idGone := rfl
@[simp] theorem State.ws_alarms (s : State) (r : Reg) (x : Word) : (s.ws r x).alarms = s.alarms := rfl
@[simp] theorem State.ws_lastAlarm (s : State) (r : Reg) (x : Word) : (s.ws r x).lastAlarm = s.lastAlarm := rfl
@[simp] theorem State.ws_tamperNext (s : State) (r : Reg) (x : Word) : (s.ws r x).tamperNext = s.tamperNext := rfl
@[simp] theorem State.ws_cmap (s : State) (r : Reg) (x : Word) : (s.ws r x).cmap = s.cmap := rfl
@[simp] theorem State.ws_ret0 (s : State) (r : Reg) (x : Word) : (s.ws r x).ret0 = s.ret0 := rfl
@[simp] theorem State.ws_ret1 (s : State) (r : Reg) (x : Word) : (s.ws r x).ret1 = s.ret1 := rfl
@[simp] theorem State.ws_corr (s : State) (r : Reg) (x : Word) : (s.ws r x).corr = s.corr := rfl
@[simp] theorem State.ws_epoch (s : State) (r : Reg) (x : Word) : (s.ws r x).epoch = s.epoch := rfl
@[simp] theorem State.ws_failures (s : State) (r : Reg) (x : Word) : (s.ws r x).failures = s.failures := rfl
@[simp] theorem State.ws_retiring (s : State) (r : Reg) (x : Word) : (s.ws r x).retiring = s.retiring := rfl
@[simp] theorem State.ws_retired (s : State) (r : Reg) (x : Word) : (s.ws r x).retired = s.retired := rfl
@[simp] theorem State.ws_attesting (s : State) (r : Reg) (x : Word) : (s.ws r x).attesting = s.attesting := rfl
@[simp] theorem State.ws_parity (s : State) (r : Reg) (x : Word) : (s.ws r x).parity = s.parity := rfl
@[simp] theorem State.ws_core_num (s : State) (r : Reg) (x : Word) : (s.ws r x).core.num = s.core.num := rfl
@[simp] theorem State.ws_core_c (s : State) (r : Reg) (x : Word) : (s.ws r x).core.c = s.core.c := rfl
@[simp] theorem State.ws_core_a (s : State) (r : Reg) (x : Word) : (s.ws r x).core.a = s.core.a := rfl
@[simp] theorem State.ws_core_x (s : State) (r : Reg) (x : Word) : (s.ws r x).core.x = s.core.x := rfl
@[simp] theorem State.ws_core_sregs (s : State) (r : Reg) (x : Word) : (s.ws r x).core.sregs = writeReg s.core.sregs r x := rfl
@[simp] theorem State.ws_core_aregs (s : State) (r : Reg) (x : Word) : (s.ws r x).core.aregs = s.core.aregs := rfl
@[simp] theorem State.ws_core_xregs (s : State) (r : Reg) (x : Word) : (s.ws r x).core.xregs = s.core.xregs := rfl
@[simp] theorem State.ws_core_v (s : State) (r : Reg) (x : Word) : (s.ws r x).core.v = s.core.v := rfl
@[simp] theorem State.ws_core_p (s : State) (r : Reg) (x : Word) : (s.ws r x).core.p = s.core.p := rfl
@[simp] theorem State.ws_core_flags (s : State) (r : Reg) (x : Word) : (s.ws r x).core.flags = s.core.flags := rfl
@[simp] theorem State.ws_core_bt (s : State) (r : Reg) (x : Word) : (s.ws r x).core.bt = s.core.bt := rfl
@[simp] theorem State.ws_core_tiles (s : State) (r : Reg) (x : Word) : (s.ws r x).core.tiles = s.core.tiles := rfl
@[simp] theorem State.ws_core_accs (s : State) (r : Reg) (x : Word) : (s.ws r x).core.accs = s.core.accs := rfl
@[simp] theorem State.ws_core_shapes (s : State) (r : Reg) (x : Word) : (s.ws r x).core.shapes = s.core.shapes := rfl
@[simp] theorem State.ws_core_imemC (s : State) (r : Reg) (x : Word) : (s.ws r x).core.imemC = s.core.imemC := rfl
@[simp] theorem State.ws_core_imemA (s : State) (r : Reg) (x : Word) : (s.ws r x).core.imemA = s.core.imemA := rfl
@[simp] theorem State.ws_core_imemX (s : State) (r : Reg) (x : Word) : (s.ws r x).core.imemX = s.core.imemX := rfl
@[simp] theorem State.ws_core_lq (s : State) (r : Reg) (x : Word) : (s.ws r x).core.lq = s.core.lq := rfl
@[simp] theorem State.ws_core_sq (s : State) (r : Reg) (x : Word) : (s.ws r x).core.sq = s.core.sq := rfl
@[simp] theorem State.ws_core_vq (s : State) (r : Reg) (x : Word) : (s.ws r x).core.vq = s.core.vq := rfl
@[simp] theorem State.ws_core_bqa (s : State) (r : Reg) (x : Word) : (s.ws r x).core.bqa = s.core.bqa := rfl
@[simp] theorem State.ws_core_bqx (s : State) (r : Reg) (x : Word) : (s.ws r x).core.bqx = s.core.bqx := rfl
@[simp] theorem State.ws_core_fq (s : State) (r : Reg) (x : Word) : (s.ws r x).core.fq = s.core.fq := rfl
@[simp] theorem State.ws_core_tokens (s : State) (r : Reg) (x : Word) : (s.ws r x).core.tokens = s.core.tokens := rfl
@[simp] theorem State.ws_core_banks (s : State) (r : Reg) (x : Word) : (s.ws r x).core.banks = s.core.banks := rfl
@[simp] theorem State.ws_core_halted (s : State) (r : Reg) (x : Word) : (s.ws r x).core.halted = s.core.halted := rfl
@[simp] theorem State.ws_core_pending (s : State) (r : Reg) (x : Word) : (s.ws r x).core.pending = s.core.pending := rfl
@[simp] theorem State.ws_core_cyclesBase (s : State) (r : Reg) (x : Word) : (s.ws r x).core.cyclesBase = s.core.cyclesBase := rfl
@[simp] theorem State.ws_core_cyclesSince (s : State) (r : Reg) (x : Word) : (s.ws r x).core.cyclesSince = s.core.cyclesSince := rfl
@[simp] theorem State.ws_core_tbudget (s : State) (r : Reg) (x : Word) : (s.ws r x).core.tbudget = s.core.tbudget := rfl
@[simp] theorem State.ws_core_dmem (s : State) (r : Reg) (x : Word) : (s.ws r x).core.dmem = s.core.dmem := rfl
@[simp] theorem State.ws_core_tphase (s : State) (r : Reg) (x : Word) : (s.ws r x).core.tphase = s.core.tphase := rfl
@[simp] theorem State.ws_core_gphase (s : State) (r : Reg) (x : Word) : (s.ws r x).core.gphase = s.core.gphase := rfl
@[simp] theorem State.ws_core_gen (s : State) (r : Reg) (x : Word) : (s.ws r x).core.gen = s.core.gen := rfl
@[simp] theorem State.ws_core_lastrel (s : State) (r : Reg) (x : Word) : (s.ws r x).core.lastrel = s.core.lastrel := rfl
@[simp] theorem State.ws_core_lastacq (s : State) (r : Reg) (x : Word) : (s.ws r x).core.lastacq = s.core.lastacq := rfl
@[simp] theorem State.ws_core_unpublished (s : State) (r : Reg) (x : Word) : (s.ws r x).core.unpublished = s.core.unpublished := rfl
@[simp] theorem State.ws_core_mvthr (s : State) (r : Reg) (x : Word) : (s.ws r x).core.mvthr = s.core.mvthr := rfl
@[simp] theorem State.ws_core_mlate (s : State) (r : Reg) (x : Word) : (s.ws r x).core.mlate = s.core.mlate := rfl
@[simp] theorem State.ws_core_isat (s : State) (r : Reg) (x : Word) : (s.ws r x).core.isat = s.core.isat := rfl
@[simp] theorem State.ws_core_slipmax (s : State) (r : Reg) (x : Word) : (s.ws r x).core.slipmax = s.core.slipmax := rfl
@[simp] theorem State.ws_core_ldcnt (s : State) (r : Reg) (x : Word) : (s.ws r x).core.ldcnt = s.core.ldcnt := rfl
@[simp] theorem State.ws_core_wdc (s : State) (r : Reg) (x : Word) : (s.ws r x).core.wdc = s.core.wdc := rfl
@[simp] theorem State.ws_core_wda (s : State) (r : Reg) (x : Word) : (s.ws r x).core.wda = s.core.wda := rfl
@[simp] theorem State.ws_core_wdx (s : State) (r : Reg) (x : Word) : (s.ws r x).core.wdx = s.core.wdx := rfl
@[simp] theorem State.ws_core_sh (s : State) (r : Reg) (x : Word) : (s.ws r x).core.sh = s.core.sh := rfl
@[simp] theorem State.ws_core_tvec (s : State) (r : Reg) (x : Word) : (s.ws r x).core.tvec = s.core.tvec := rfl
@[simp] theorem State.ws_core_tscr0 (s : State) (r : Reg) (x : Word) : (s.ws r x).core.tscr0 = s.core.tscr0 := rfl
@[simp] theorem State.ws_core_tscr1 (s : State) (r : Reg) (x : Word) : (s.ws r x).core.tscr1 = s.core.tscr1 := rfl
@[simp] theorem State.ws_core_handles (s : State) (r : Reg) (x : Word) : (s.ws r x).core.handles = s.core.handles := rfl
@[simp] theorem State.ws_core_ltt (s : State) (r : Reg) (x : Word) : (s.ws r x).core.ltt = s.core.ltt := rfl
@[simp] theorem State.ws_core_reports (s : State) (r : Reg) (x : Word) : (s.ws r x).core.reports = s.core.reports := rfl
@[simp] theorem State.ws_core_latches (s : State) (r : Reg) (x : Word) : (s.ws r x).core.latches = s.core.latches := rfl
@[simp] theorem State.ws_core_matrix (s : State) (r : Reg) (x : Word) : (s.ws r x).core.matrix = s.core.matrix := rfl
@[simp] theorem State.ws_core_engineFree (s : State) (r : Reg) (x : Word) : (s.ws r x).core.engineFree = s.core.engineFree := rfl
@[simp] theorem State.ws_core_tape (s : State) (r : Reg) (x : Word) : (s.ws r x).core.tape = s.core.tape := rfl
@[simp] theorem State.ws_core_lastRead (s : State) (r : Reg) (x : Word) : (s.ws r x).core.lastRead = s.core.lastRead := rfl
@[simp] theorem State.ws_core_member (s : State) (r : Reg) (x : Word) : (s.ws r x).core.member = s.core.member := rfl
@[simp] theorem State.ws_core_softPending (s : State) (r : Reg) (x : Word) : (s.ws r x).core.softPending = s.core.softPending := rfl
@[simp] theorem State.ws_core_hardStop (s : State) (r : Reg) (x : Word) : (s.ws r x).core.hardStop = s.core.hardStop := rfl
@[simp] theorem State.ws_core_engineHeld (s : State) (r : Reg) (x : Word) : (s.ws r x).core.engineHeld = s.core.engineHeld := rfl

/-! ### wa -/

@[simp] theorem State.wa_others (s : State) (r : Reg) (x : Word) : (s.wa r x).others = s.others := rfl
@[simp] theorem State.wa_agenda (s : State) (r : Reg) (x : Word) : (s.wa r x).agenda = s.agenda := rfl
@[simp] theorem State.wa_rotor (s : State) (r : Reg) (x : Word) : (s.wa r x).rotor = s.rotor := rfl
@[simp] theorem State.wa_now (s : State) (r : Reg) (x : Word) : (s.wa r x).now = s.now := rfl
@[simp] theorem State.wa_fresh (s : State) (r : Reg) (x : Word) : (s.wa r x).fresh = s.fresh := rfl
@[simp] theorem State.wa_nextId (s : State) (r : Reg) (x : Word) : (s.wa r x).nextId = s.nextId := rfl
@[simp] theorem State.wa_mem (s : State) (r : Reg) (x : Word) : (s.wa r x).mem = s.mem := rfl
@[simp] theorem State.wa_poison (s : State) (r : Reg) (x : Word) : (s.wa r x).poison = s.poison := rfl
@[simp] theorem State.wa_marks (s : State) (r : Reg) (x : Word) : (s.wa r x).marks = s.marks := rfl
@[simp] theorem State.wa_syncclk (s : State) (r : Reg) (x : Word) : (s.wa r x).syncclk = s.syncclk := rfl
@[simp] theorem State.wa_flights (s : State) (r : Reg) (x : Word) : (s.wa r x).flights = s.flights := rfl
@[simp] theorem State.wa_regions (s : State) (r : Reg) (x : Word) : (s.wa r x).regions = s.regions := rfl
@[simp] theorem State.wa_entries (s : State) (r : Reg) (x : Word) : (s.wa r x).entries = s.entries := rfl
@[simp] theorem State.wa_stamps (s : State) (r : Reg) (x : Word) : (s.wa r x).stamps = s.stamps := rfl
@[simp] theorem State.wa_cache (s : State) (r : Reg) (x : Word) : (s.wa r x).cache = s.cache := rfl
@[simp] theorem State.wa_writeback (s : State) (r : Reg) (x : Word) : (s.wa r x).writeback = s.writeback := rfl
@[simp] theorem State.wa_watch (s : State) (r : Reg) (x : Word) : (s.wa r x).watch = s.watch := rfl
@[simp] theorem State.wa_arrivals (s : State) (r : Reg) (x : Word) : (s.wa r x).arrivals = s.arrivals := rfl
@[simp] theorem State.wa_migrations (s : State) (r : Reg) (x : Word) : (s.wa r x).migrations = s.migrations := rfl
@[simp] theorem State.wa_echoes (s : State) (r : Reg) (x : Word) : (s.wa r x).echoes = s.echoes := rfl
@[simp] theorem State.wa_claims (s : State) (r : Reg) (x : Word) : (s.wa r x).claims = s.claims := rfl
@[simp] theorem State.wa_gathering (s : State) (r : Reg) (x : Word) : (s.wa r x).gathering = s.gathering := rfl
@[simp] theorem State.wa_units (s : State) (r : Reg) (x : Word) : (s.wa r x).units = s.units := rfl
@[simp] theorem State.wa_launches (s : State) (r : Reg) (x : Word) : (s.wa r x).launches = s.launches := rfl
@[simp] theorem State.wa_preemption (s : State) (r : Reg) (x : Word) : (s.wa r x).preemption = s.preemption := rfl
@[simp] theorem State.wa_transfers (s : State) (r : Reg) (x : Word) : (s.wa r x).transfers = s.transfers := rfl
@[simp] theorem State.wa_crashes (s : State) (r : Reg) (x : Word) : (s.wa r x).crashes = s.crashes := rfl
@[simp] theorem State.wa_lastTick (s : State) (r : Reg) (x : Word) : (s.wa r x).lastTick = s.lastTick := rfl
@[simp] theorem State.wa_passDue (s : State) (r : Reg) (x : Word) : (s.wa r x).passDue = s.passDue := rfl
@[simp] theorem State.wa_links (s : State) (r : Reg) (x : Word) : (s.wa r x).links = s.links := rfl
@[simp] theorem State.wa_deadChips (s : State) (r : Reg) (x : Word) : (s.wa r x).deadChips = s.deadChips := rfl
@[simp] theorem State.wa_groups (s : State) (r : Reg) (x : Word) : (s.wa r x).groups = s.groups := rfl
@[simp] theorem State.wa_drops (s : State) (r : Reg) (x : Word) : (s.wa r x).drops = s.drops := rfl
@[simp] theorem State.wa_tableSteps (s : State) (r : Reg) (x : Word) : (s.wa r x).tableSteps = s.tableSteps := rfl
@[simp] theorem State.wa_inbox (s : State) (r : Reg) (x : Word) : (s.wa r x).inbox = s.inbox := rfl
@[simp] theorem State.wa_hostIn (s : State) (r : Reg) (x : Word) : (s.wa r x).hostIn = s.hostIn := rfl
@[simp] theorem State.wa_hostErrors (s : State) (r : Reg) (x : Word) : (s.wa r x).hostErrors = s.hostErrors := rfl
@[simp] theorem State.wa_outputs (s : State) (r : Reg) (x : Word) : (s.wa r x).outputs = s.outputs := rfl
@[simp] theorem State.wa_devid (s : State) (r : Reg) (x : Word) : (s.wa r x).devid = s.devid := rfl
@[simp] theorem State.wa_phase (s : State) (r : Reg) (x : Word) : (s.wa r x).phase = s.phase := rfl
@[simp] theorem State.wa_bootErr (s : State) (r : Reg) (x : Word) : (s.wa r x).bootErr = s.bootErr := rfl
@[simp] theorem State.wa_idGone (s : State) (r : Reg) (x : Word) : (s.wa r x).idGone = s.idGone := rfl
@[simp] theorem State.wa_alarms (s : State) (r : Reg) (x : Word) : (s.wa r x).alarms = s.alarms := rfl
@[simp] theorem State.wa_lastAlarm (s : State) (r : Reg) (x : Word) : (s.wa r x).lastAlarm = s.lastAlarm := rfl
@[simp] theorem State.wa_tamperNext (s : State) (r : Reg) (x : Word) : (s.wa r x).tamperNext = s.tamperNext := rfl
@[simp] theorem State.wa_cmap (s : State) (r : Reg) (x : Word) : (s.wa r x).cmap = s.cmap := rfl
@[simp] theorem State.wa_ret0 (s : State) (r : Reg) (x : Word) : (s.wa r x).ret0 = s.ret0 := rfl
@[simp] theorem State.wa_ret1 (s : State) (r : Reg) (x : Word) : (s.wa r x).ret1 = s.ret1 := rfl
@[simp] theorem State.wa_corr (s : State) (r : Reg) (x : Word) : (s.wa r x).corr = s.corr := rfl
@[simp] theorem State.wa_epoch (s : State) (r : Reg) (x : Word) : (s.wa r x).epoch = s.epoch := rfl
@[simp] theorem State.wa_failures (s : State) (r : Reg) (x : Word) : (s.wa r x).failures = s.failures := rfl
@[simp] theorem State.wa_retiring (s : State) (r : Reg) (x : Word) : (s.wa r x).retiring = s.retiring := rfl
@[simp] theorem State.wa_retired (s : State) (r : Reg) (x : Word) : (s.wa r x).retired = s.retired := rfl
@[simp] theorem State.wa_attesting (s : State) (r : Reg) (x : Word) : (s.wa r x).attesting = s.attesting := rfl
@[simp] theorem State.wa_parity (s : State) (r : Reg) (x : Word) : (s.wa r x).parity = s.parity := rfl
@[simp] theorem State.wa_core_num (s : State) (r : Reg) (x : Word) : (s.wa r x).core.num = s.core.num := rfl
@[simp] theorem State.wa_core_c (s : State) (r : Reg) (x : Word) : (s.wa r x).core.c = s.core.c := rfl
@[simp] theorem State.wa_core_a (s : State) (r : Reg) (x : Word) : (s.wa r x).core.a = s.core.a := rfl
@[simp] theorem State.wa_core_x (s : State) (r : Reg) (x : Word) : (s.wa r x).core.x = s.core.x := rfl
@[simp] theorem State.wa_core_sregs (s : State) (r : Reg) (x : Word) : (s.wa r x).core.sregs = s.core.sregs := rfl
@[simp] theorem State.wa_core_aregs (s : State) (r : Reg) (x : Word) : (s.wa r x).core.aregs = writeReg s.core.aregs r x := rfl
@[simp] theorem State.wa_core_xregs (s : State) (r : Reg) (x : Word) : (s.wa r x).core.xregs = s.core.xregs := rfl
@[simp] theorem State.wa_core_v (s : State) (r : Reg) (x : Word) : (s.wa r x).core.v = s.core.v := rfl
@[simp] theorem State.wa_core_p (s : State) (r : Reg) (x : Word) : (s.wa r x).core.p = s.core.p := rfl
@[simp] theorem State.wa_core_flags (s : State) (r : Reg) (x : Word) : (s.wa r x).core.flags = s.core.flags := rfl
@[simp] theorem State.wa_core_bt (s : State) (r : Reg) (x : Word) : (s.wa r x).core.bt = s.core.bt := rfl
@[simp] theorem State.wa_core_tiles (s : State) (r : Reg) (x : Word) : (s.wa r x).core.tiles = s.core.tiles := rfl
@[simp] theorem State.wa_core_accs (s : State) (r : Reg) (x : Word) : (s.wa r x).core.accs = s.core.accs := rfl
@[simp] theorem State.wa_core_shapes (s : State) (r : Reg) (x : Word) : (s.wa r x).core.shapes = s.core.shapes := rfl
@[simp] theorem State.wa_core_imemC (s : State) (r : Reg) (x : Word) : (s.wa r x).core.imemC = s.core.imemC := rfl
@[simp] theorem State.wa_core_imemA (s : State) (r : Reg) (x : Word) : (s.wa r x).core.imemA = s.core.imemA := rfl
@[simp] theorem State.wa_core_imemX (s : State) (r : Reg) (x : Word) : (s.wa r x).core.imemX = s.core.imemX := rfl
@[simp] theorem State.wa_core_lq (s : State) (r : Reg) (x : Word) : (s.wa r x).core.lq = s.core.lq := rfl
@[simp] theorem State.wa_core_sq (s : State) (r : Reg) (x : Word) : (s.wa r x).core.sq = s.core.sq := rfl
@[simp] theorem State.wa_core_vq (s : State) (r : Reg) (x : Word) : (s.wa r x).core.vq = s.core.vq := rfl
@[simp] theorem State.wa_core_bqa (s : State) (r : Reg) (x : Word) : (s.wa r x).core.bqa = s.core.bqa := rfl
@[simp] theorem State.wa_core_bqx (s : State) (r : Reg) (x : Word) : (s.wa r x).core.bqx = s.core.bqx := rfl
@[simp] theorem State.wa_core_fq (s : State) (r : Reg) (x : Word) : (s.wa r x).core.fq = s.core.fq := rfl
@[simp] theorem State.wa_core_tokens (s : State) (r : Reg) (x : Word) : (s.wa r x).core.tokens = s.core.tokens := rfl
@[simp] theorem State.wa_core_banks (s : State) (r : Reg) (x : Word) : (s.wa r x).core.banks = s.core.banks := rfl
@[simp] theorem State.wa_core_halted (s : State) (r : Reg) (x : Word) : (s.wa r x).core.halted = s.core.halted := rfl
@[simp] theorem State.wa_core_pending (s : State) (r : Reg) (x : Word) : (s.wa r x).core.pending = s.core.pending := rfl
@[simp] theorem State.wa_core_cyclesBase (s : State) (r : Reg) (x : Word) : (s.wa r x).core.cyclesBase = s.core.cyclesBase := rfl
@[simp] theorem State.wa_core_cyclesSince (s : State) (r : Reg) (x : Word) : (s.wa r x).core.cyclesSince = s.core.cyclesSince := rfl
@[simp] theorem State.wa_core_tbudget (s : State) (r : Reg) (x : Word) : (s.wa r x).core.tbudget = s.core.tbudget := rfl
@[simp] theorem State.wa_core_dmem (s : State) (r : Reg) (x : Word) : (s.wa r x).core.dmem = s.core.dmem := rfl
@[simp] theorem State.wa_core_tphase (s : State) (r : Reg) (x : Word) : (s.wa r x).core.tphase = s.core.tphase := rfl
@[simp] theorem State.wa_core_gphase (s : State) (r : Reg) (x : Word) : (s.wa r x).core.gphase = s.core.gphase := rfl
@[simp] theorem State.wa_core_gen (s : State) (r : Reg) (x : Word) : (s.wa r x).core.gen = s.core.gen := rfl
@[simp] theorem State.wa_core_lastrel (s : State) (r : Reg) (x : Word) : (s.wa r x).core.lastrel = s.core.lastrel := rfl
@[simp] theorem State.wa_core_lastacq (s : State) (r : Reg) (x : Word) : (s.wa r x).core.lastacq = s.core.lastacq := rfl
@[simp] theorem State.wa_core_unpublished (s : State) (r : Reg) (x : Word) : (s.wa r x).core.unpublished = s.core.unpublished := rfl
@[simp] theorem State.wa_core_mvthr (s : State) (r : Reg) (x : Word) : (s.wa r x).core.mvthr = s.core.mvthr := rfl
@[simp] theorem State.wa_core_mlate (s : State) (r : Reg) (x : Word) : (s.wa r x).core.mlate = s.core.mlate := rfl
@[simp] theorem State.wa_core_isat (s : State) (r : Reg) (x : Word) : (s.wa r x).core.isat = s.core.isat := rfl
@[simp] theorem State.wa_core_slipmax (s : State) (r : Reg) (x : Word) : (s.wa r x).core.slipmax = s.core.slipmax := rfl
@[simp] theorem State.wa_core_ldcnt (s : State) (r : Reg) (x : Word) : (s.wa r x).core.ldcnt = s.core.ldcnt := rfl
@[simp] theorem State.wa_core_wdc (s : State) (r : Reg) (x : Word) : (s.wa r x).core.wdc = s.core.wdc := rfl
@[simp] theorem State.wa_core_wda (s : State) (r : Reg) (x : Word) : (s.wa r x).core.wda = s.core.wda := rfl
@[simp] theorem State.wa_core_wdx (s : State) (r : Reg) (x : Word) : (s.wa r x).core.wdx = s.core.wdx := rfl
@[simp] theorem State.wa_core_sh (s : State) (r : Reg) (x : Word) : (s.wa r x).core.sh = s.core.sh := rfl
@[simp] theorem State.wa_core_tvec (s : State) (r : Reg) (x : Word) : (s.wa r x).core.tvec = s.core.tvec := rfl
@[simp] theorem State.wa_core_tscr0 (s : State) (r : Reg) (x : Word) : (s.wa r x).core.tscr0 = s.core.tscr0 := rfl
@[simp] theorem State.wa_core_tscr1 (s : State) (r : Reg) (x : Word) : (s.wa r x).core.tscr1 = s.core.tscr1 := rfl
@[simp] theorem State.wa_core_handles (s : State) (r : Reg) (x : Word) : (s.wa r x).core.handles = s.core.handles := rfl
@[simp] theorem State.wa_core_ltt (s : State) (r : Reg) (x : Word) : (s.wa r x).core.ltt = s.core.ltt := rfl
@[simp] theorem State.wa_core_reports (s : State) (r : Reg) (x : Word) : (s.wa r x).core.reports = s.core.reports := rfl
@[simp] theorem State.wa_core_latches (s : State) (r : Reg) (x : Word) : (s.wa r x).core.latches = s.core.latches := rfl
@[simp] theorem State.wa_core_matrix (s : State) (r : Reg) (x : Word) : (s.wa r x).core.matrix = s.core.matrix := rfl
@[simp] theorem State.wa_core_engineFree (s : State) (r : Reg) (x : Word) : (s.wa r x).core.engineFree = s.core.engineFree := rfl
@[simp] theorem State.wa_core_tape (s : State) (r : Reg) (x : Word) : (s.wa r x).core.tape = s.core.tape := rfl
@[simp] theorem State.wa_core_lastRead (s : State) (r : Reg) (x : Word) : (s.wa r x).core.lastRead = s.core.lastRead := rfl
@[simp] theorem State.wa_core_member (s : State) (r : Reg) (x : Word) : (s.wa r x).core.member = s.core.member := rfl
@[simp] theorem State.wa_core_softPending (s : State) (r : Reg) (x : Word) : (s.wa r x).core.softPending = s.core.softPending := rfl
@[simp] theorem State.wa_core_hardStop (s : State) (r : Reg) (x : Word) : (s.wa r x).core.hardStop = s.core.hardStop := rfl
@[simp] theorem State.wa_core_engineHeld (s : State) (r : Reg) (x : Word) : (s.wa r x).core.engineHeld = s.core.engineHeld := rfl

/-! ### wx -/

@[simp] theorem State.wx_others (s : State) (r : Reg) (x : Word) : (s.wx r x).others = s.others := rfl
@[simp] theorem State.wx_agenda (s : State) (r : Reg) (x : Word) : (s.wx r x).agenda = s.agenda := rfl
@[simp] theorem State.wx_rotor (s : State) (r : Reg) (x : Word) : (s.wx r x).rotor = s.rotor := rfl
@[simp] theorem State.wx_now (s : State) (r : Reg) (x : Word) : (s.wx r x).now = s.now := rfl
@[simp] theorem State.wx_fresh (s : State) (r : Reg) (x : Word) : (s.wx r x).fresh = s.fresh := rfl
@[simp] theorem State.wx_nextId (s : State) (r : Reg) (x : Word) : (s.wx r x).nextId = s.nextId := rfl
@[simp] theorem State.wx_mem (s : State) (r : Reg) (x : Word) : (s.wx r x).mem = s.mem := rfl
@[simp] theorem State.wx_poison (s : State) (r : Reg) (x : Word) : (s.wx r x).poison = s.poison := rfl
@[simp] theorem State.wx_marks (s : State) (r : Reg) (x : Word) : (s.wx r x).marks = s.marks := rfl
@[simp] theorem State.wx_syncclk (s : State) (r : Reg) (x : Word) : (s.wx r x).syncclk = s.syncclk := rfl
@[simp] theorem State.wx_flights (s : State) (r : Reg) (x : Word) : (s.wx r x).flights = s.flights := rfl
@[simp] theorem State.wx_regions (s : State) (r : Reg) (x : Word) : (s.wx r x).regions = s.regions := rfl
@[simp] theorem State.wx_entries (s : State) (r : Reg) (x : Word) : (s.wx r x).entries = s.entries := rfl
@[simp] theorem State.wx_stamps (s : State) (r : Reg) (x : Word) : (s.wx r x).stamps = s.stamps := rfl
@[simp] theorem State.wx_cache (s : State) (r : Reg) (x : Word) : (s.wx r x).cache = s.cache := rfl
@[simp] theorem State.wx_writeback (s : State) (r : Reg) (x : Word) : (s.wx r x).writeback = s.writeback := rfl
@[simp] theorem State.wx_watch (s : State) (r : Reg) (x : Word) : (s.wx r x).watch = s.watch := rfl
@[simp] theorem State.wx_arrivals (s : State) (r : Reg) (x : Word) : (s.wx r x).arrivals = s.arrivals := rfl
@[simp] theorem State.wx_migrations (s : State) (r : Reg) (x : Word) : (s.wx r x).migrations = s.migrations := rfl
@[simp] theorem State.wx_echoes (s : State) (r : Reg) (x : Word) : (s.wx r x).echoes = s.echoes := rfl
@[simp] theorem State.wx_claims (s : State) (r : Reg) (x : Word) : (s.wx r x).claims = s.claims := rfl
@[simp] theorem State.wx_gathering (s : State) (r : Reg) (x : Word) : (s.wx r x).gathering = s.gathering := rfl
@[simp] theorem State.wx_units (s : State) (r : Reg) (x : Word) : (s.wx r x).units = s.units := rfl
@[simp] theorem State.wx_launches (s : State) (r : Reg) (x : Word) : (s.wx r x).launches = s.launches := rfl
@[simp] theorem State.wx_preemption (s : State) (r : Reg) (x : Word) : (s.wx r x).preemption = s.preemption := rfl
@[simp] theorem State.wx_transfers (s : State) (r : Reg) (x : Word) : (s.wx r x).transfers = s.transfers := rfl
@[simp] theorem State.wx_crashes (s : State) (r : Reg) (x : Word) : (s.wx r x).crashes = s.crashes := rfl
@[simp] theorem State.wx_lastTick (s : State) (r : Reg) (x : Word) : (s.wx r x).lastTick = s.lastTick := rfl
@[simp] theorem State.wx_passDue (s : State) (r : Reg) (x : Word) : (s.wx r x).passDue = s.passDue := rfl
@[simp] theorem State.wx_links (s : State) (r : Reg) (x : Word) : (s.wx r x).links = s.links := rfl
@[simp] theorem State.wx_deadChips (s : State) (r : Reg) (x : Word) : (s.wx r x).deadChips = s.deadChips := rfl
@[simp] theorem State.wx_groups (s : State) (r : Reg) (x : Word) : (s.wx r x).groups = s.groups := rfl
@[simp] theorem State.wx_drops (s : State) (r : Reg) (x : Word) : (s.wx r x).drops = s.drops := rfl
@[simp] theorem State.wx_tableSteps (s : State) (r : Reg) (x : Word) : (s.wx r x).tableSteps = s.tableSteps := rfl
@[simp] theorem State.wx_inbox (s : State) (r : Reg) (x : Word) : (s.wx r x).inbox = s.inbox := rfl
@[simp] theorem State.wx_hostIn (s : State) (r : Reg) (x : Word) : (s.wx r x).hostIn = s.hostIn := rfl
@[simp] theorem State.wx_hostErrors (s : State) (r : Reg) (x : Word) : (s.wx r x).hostErrors = s.hostErrors := rfl
@[simp] theorem State.wx_outputs (s : State) (r : Reg) (x : Word) : (s.wx r x).outputs = s.outputs := rfl
@[simp] theorem State.wx_devid (s : State) (r : Reg) (x : Word) : (s.wx r x).devid = s.devid := rfl
@[simp] theorem State.wx_phase (s : State) (r : Reg) (x : Word) : (s.wx r x).phase = s.phase := rfl
@[simp] theorem State.wx_bootErr (s : State) (r : Reg) (x : Word) : (s.wx r x).bootErr = s.bootErr := rfl
@[simp] theorem State.wx_idGone (s : State) (r : Reg) (x : Word) : (s.wx r x).idGone = s.idGone := rfl
@[simp] theorem State.wx_alarms (s : State) (r : Reg) (x : Word) : (s.wx r x).alarms = s.alarms := rfl
@[simp] theorem State.wx_lastAlarm (s : State) (r : Reg) (x : Word) : (s.wx r x).lastAlarm = s.lastAlarm := rfl
@[simp] theorem State.wx_tamperNext (s : State) (r : Reg) (x : Word) : (s.wx r x).tamperNext = s.tamperNext := rfl
@[simp] theorem State.wx_cmap (s : State) (r : Reg) (x : Word) : (s.wx r x).cmap = s.cmap := rfl
@[simp] theorem State.wx_ret0 (s : State) (r : Reg) (x : Word) : (s.wx r x).ret0 = s.ret0 := rfl
@[simp] theorem State.wx_ret1 (s : State) (r : Reg) (x : Word) : (s.wx r x).ret1 = s.ret1 := rfl
@[simp] theorem State.wx_corr (s : State) (r : Reg) (x : Word) : (s.wx r x).corr = s.corr := rfl
@[simp] theorem State.wx_epoch (s : State) (r : Reg) (x : Word) : (s.wx r x).epoch = s.epoch := rfl
@[simp] theorem State.wx_failures (s : State) (r : Reg) (x : Word) : (s.wx r x).failures = s.failures := rfl
@[simp] theorem State.wx_retiring (s : State) (r : Reg) (x : Word) : (s.wx r x).retiring = s.retiring := rfl
@[simp] theorem State.wx_retired (s : State) (r : Reg) (x : Word) : (s.wx r x).retired = s.retired := rfl
@[simp] theorem State.wx_attesting (s : State) (r : Reg) (x : Word) : (s.wx r x).attesting = s.attesting := rfl
@[simp] theorem State.wx_parity (s : State) (r : Reg) (x : Word) : (s.wx r x).parity = s.parity := rfl
@[simp] theorem State.wx_core_num (s : State) (r : Reg) (x : Word) : (s.wx r x).core.num = s.core.num := rfl
@[simp] theorem State.wx_core_c (s : State) (r : Reg) (x : Word) : (s.wx r x).core.c = s.core.c := rfl
@[simp] theorem State.wx_core_a (s : State) (r : Reg) (x : Word) : (s.wx r x).core.a = s.core.a := rfl
@[simp] theorem State.wx_core_x (s : State) (r : Reg) (x : Word) : (s.wx r x).core.x = s.core.x := rfl
@[simp] theorem State.wx_core_sregs (s : State) (r : Reg) (x : Word) : (s.wx r x).core.sregs = s.core.sregs := rfl
@[simp] theorem State.wx_core_aregs (s : State) (r : Reg) (x : Word) : (s.wx r x).core.aregs = s.core.aregs := rfl
@[simp] theorem State.wx_core_xregs (s : State) (r : Reg) (x : Word) : (s.wx r x).core.xregs = writeReg s.core.xregs r x := rfl
@[simp] theorem State.wx_core_v (s : State) (r : Reg) (x : Word) : (s.wx r x).core.v = s.core.v := rfl
@[simp] theorem State.wx_core_p (s : State) (r : Reg) (x : Word) : (s.wx r x).core.p = s.core.p := rfl
@[simp] theorem State.wx_core_flags (s : State) (r : Reg) (x : Word) : (s.wx r x).core.flags = s.core.flags := rfl
@[simp] theorem State.wx_core_bt (s : State) (r : Reg) (x : Word) : (s.wx r x).core.bt = s.core.bt := rfl
@[simp] theorem State.wx_core_tiles (s : State) (r : Reg) (x : Word) : (s.wx r x).core.tiles = s.core.tiles := rfl
@[simp] theorem State.wx_core_accs (s : State) (r : Reg) (x : Word) : (s.wx r x).core.accs = s.core.accs := rfl
@[simp] theorem State.wx_core_shapes (s : State) (r : Reg) (x : Word) : (s.wx r x).core.shapes = s.core.shapes := rfl
@[simp] theorem State.wx_core_imemC (s : State) (r : Reg) (x : Word) : (s.wx r x).core.imemC = s.core.imemC := rfl
@[simp] theorem State.wx_core_imemA (s : State) (r : Reg) (x : Word) : (s.wx r x).core.imemA = s.core.imemA := rfl
@[simp] theorem State.wx_core_imemX (s : State) (r : Reg) (x : Word) : (s.wx r x).core.imemX = s.core.imemX := rfl
@[simp] theorem State.wx_core_lq (s : State) (r : Reg) (x : Word) : (s.wx r x).core.lq = s.core.lq := rfl
@[simp] theorem State.wx_core_sq (s : State) (r : Reg) (x : Word) : (s.wx r x).core.sq = s.core.sq := rfl
@[simp] theorem State.wx_core_vq (s : State) (r : Reg) (x : Word) : (s.wx r x).core.vq = s.core.vq := rfl
@[simp] theorem State.wx_core_bqa (s : State) (r : Reg) (x : Word) : (s.wx r x).core.bqa = s.core.bqa := rfl
@[simp] theorem State.wx_core_bqx (s : State) (r : Reg) (x : Word) : (s.wx r x).core.bqx = s.core.bqx := rfl
@[simp] theorem State.wx_core_fq (s : State) (r : Reg) (x : Word) : (s.wx r x).core.fq = s.core.fq := rfl
@[simp] theorem State.wx_core_tokens (s : State) (r : Reg) (x : Word) : (s.wx r x).core.tokens = s.core.tokens := rfl
@[simp] theorem State.wx_core_banks (s : State) (r : Reg) (x : Word) : (s.wx r x).core.banks = s.core.banks := rfl
@[simp] theorem State.wx_core_halted (s : State) (r : Reg) (x : Word) : (s.wx r x).core.halted = s.core.halted := rfl
@[simp] theorem State.wx_core_pending (s : State) (r : Reg) (x : Word) : (s.wx r x).core.pending = s.core.pending := rfl
@[simp] theorem State.wx_core_cyclesBase (s : State) (r : Reg) (x : Word) : (s.wx r x).core.cyclesBase = s.core.cyclesBase := rfl
@[simp] theorem State.wx_core_cyclesSince (s : State) (r : Reg) (x : Word) : (s.wx r x).core.cyclesSince = s.core.cyclesSince := rfl
@[simp] theorem State.wx_core_tbudget (s : State) (r : Reg) (x : Word) : (s.wx r x).core.tbudget = s.core.tbudget := rfl
@[simp] theorem State.wx_core_dmem (s : State) (r : Reg) (x : Word) : (s.wx r x).core.dmem = s.core.dmem := rfl
@[simp] theorem State.wx_core_tphase (s : State) (r : Reg) (x : Word) : (s.wx r x).core.tphase = s.core.tphase := rfl
@[simp] theorem State.wx_core_gphase (s : State) (r : Reg) (x : Word) : (s.wx r x).core.gphase = s.core.gphase := rfl
@[simp] theorem State.wx_core_gen (s : State) (r : Reg) (x : Word) : (s.wx r x).core.gen = s.core.gen := rfl
@[simp] theorem State.wx_core_lastrel (s : State) (r : Reg) (x : Word) : (s.wx r x).core.lastrel = s.core.lastrel := rfl
@[simp] theorem State.wx_core_lastacq (s : State) (r : Reg) (x : Word) : (s.wx r x).core.lastacq = s.core.lastacq := rfl
@[simp] theorem State.wx_core_unpublished (s : State) (r : Reg) (x : Word) : (s.wx r x).core.unpublished = s.core.unpublished := rfl
@[simp] theorem State.wx_core_mvthr (s : State) (r : Reg) (x : Word) : (s.wx r x).core.mvthr = s.core.mvthr := rfl
@[simp] theorem State.wx_core_mlate (s : State) (r : Reg) (x : Word) : (s.wx r x).core.mlate = s.core.mlate := rfl
@[simp] theorem State.wx_core_isat (s : State) (r : Reg) (x : Word) : (s.wx r x).core.isat = s.core.isat := rfl
@[simp] theorem State.wx_core_slipmax (s : State) (r : Reg) (x : Word) : (s.wx r x).core.slipmax = s.core.slipmax := rfl
@[simp] theorem State.wx_core_ldcnt (s : State) (r : Reg) (x : Word) : (s.wx r x).core.ldcnt = s.core.ldcnt := rfl
@[simp] theorem State.wx_core_wdc (s : State) (r : Reg) (x : Word) : (s.wx r x).core.wdc = s.core.wdc := rfl
@[simp] theorem State.wx_core_wda (s : State) (r : Reg) (x : Word) : (s.wx r x).core.wda = s.core.wda := rfl
@[simp] theorem State.wx_core_wdx (s : State) (r : Reg) (x : Word) : (s.wx r x).core.wdx = s.core.wdx := rfl
@[simp] theorem State.wx_core_sh (s : State) (r : Reg) (x : Word) : (s.wx r x).core.sh = s.core.sh := rfl
@[simp] theorem State.wx_core_tvec (s : State) (r : Reg) (x : Word) : (s.wx r x).core.tvec = s.core.tvec := rfl
@[simp] theorem State.wx_core_tscr0 (s : State) (r : Reg) (x : Word) : (s.wx r x).core.tscr0 = s.core.tscr0 := rfl
@[simp] theorem State.wx_core_tscr1 (s : State) (r : Reg) (x : Word) : (s.wx r x).core.tscr1 = s.core.tscr1 := rfl
@[simp] theorem State.wx_core_handles (s : State) (r : Reg) (x : Word) : (s.wx r x).core.handles = s.core.handles := rfl
@[simp] theorem State.wx_core_ltt (s : State) (r : Reg) (x : Word) : (s.wx r x).core.ltt = s.core.ltt := rfl
@[simp] theorem State.wx_core_reports (s : State) (r : Reg) (x : Word) : (s.wx r x).core.reports = s.core.reports := rfl
@[simp] theorem State.wx_core_latches (s : State) (r : Reg) (x : Word) : (s.wx r x).core.latches = s.core.latches := rfl
@[simp] theorem State.wx_core_matrix (s : State) (r : Reg) (x : Word) : (s.wx r x).core.matrix = s.core.matrix := rfl
@[simp] theorem State.wx_core_engineFree (s : State) (r : Reg) (x : Word) : (s.wx r x).core.engineFree = s.core.engineFree := rfl
@[simp] theorem State.wx_core_tape (s : State) (r : Reg) (x : Word) : (s.wx r x).core.tape = s.core.tape := rfl
@[simp] theorem State.wx_core_lastRead (s : State) (r : Reg) (x : Word) : (s.wx r x).core.lastRead = s.core.lastRead := rfl
@[simp] theorem State.wx_core_member (s : State) (r : Reg) (x : Word) : (s.wx r x).core.member = s.core.member := rfl
@[simp] theorem State.wx_core_softPending (s : State) (r : Reg) (x : Word) : (s.wx r x).core.softPending = s.core.softPending := rfl
@[simp] theorem State.wx_core_hardStop (s : State) (r : Reg) (x : Word) : (s.wx r x).core.hardStop = s.core.hardStop := rfl
@[simp] theorem State.wx_core_engineHeld (s : State) (r : Reg) (x : Word) : (s.wx r x).core.engineHeld = s.core.engineHeld := rfl

/-! ### wv -/

@[simp] theorem State.wv_others (s : State) (r : VReg) (x : Vec) : (s.wv r x).others = s.others := rfl
@[simp] theorem State.wv_agenda (s : State) (r : VReg) (x : Vec) : (s.wv r x).agenda = s.agenda := rfl
@[simp] theorem State.wv_rotor (s : State) (r : VReg) (x : Vec) : (s.wv r x).rotor = s.rotor := rfl
@[simp] theorem State.wv_now (s : State) (r : VReg) (x : Vec) : (s.wv r x).now = s.now := rfl
@[simp] theorem State.wv_fresh (s : State) (r : VReg) (x : Vec) : (s.wv r x).fresh = s.fresh := rfl
@[simp] theorem State.wv_nextId (s : State) (r : VReg) (x : Vec) : (s.wv r x).nextId = s.nextId := rfl
@[simp] theorem State.wv_mem (s : State) (r : VReg) (x : Vec) : (s.wv r x).mem = s.mem := rfl
@[simp] theorem State.wv_poison (s : State) (r : VReg) (x : Vec) : (s.wv r x).poison = s.poison := rfl
@[simp] theorem State.wv_marks (s : State) (r : VReg) (x : Vec) : (s.wv r x).marks = s.marks := rfl
@[simp] theorem State.wv_syncclk (s : State) (r : VReg) (x : Vec) : (s.wv r x).syncclk = s.syncclk := rfl
@[simp] theorem State.wv_flights (s : State) (r : VReg) (x : Vec) : (s.wv r x).flights = s.flights := rfl
@[simp] theorem State.wv_regions (s : State) (r : VReg) (x : Vec) : (s.wv r x).regions = s.regions := rfl
@[simp] theorem State.wv_entries (s : State) (r : VReg) (x : Vec) : (s.wv r x).entries = s.entries := rfl
@[simp] theorem State.wv_stamps (s : State) (r : VReg) (x : Vec) : (s.wv r x).stamps = s.stamps := rfl
@[simp] theorem State.wv_cache (s : State) (r : VReg) (x : Vec) : (s.wv r x).cache = s.cache := rfl
@[simp] theorem State.wv_writeback (s : State) (r : VReg) (x : Vec) : (s.wv r x).writeback = s.writeback := rfl
@[simp] theorem State.wv_watch (s : State) (r : VReg) (x : Vec) : (s.wv r x).watch = s.watch := rfl
@[simp] theorem State.wv_arrivals (s : State) (r : VReg) (x : Vec) : (s.wv r x).arrivals = s.arrivals := rfl
@[simp] theorem State.wv_migrations (s : State) (r : VReg) (x : Vec) : (s.wv r x).migrations = s.migrations := rfl
@[simp] theorem State.wv_echoes (s : State) (r : VReg) (x : Vec) : (s.wv r x).echoes = s.echoes := rfl
@[simp] theorem State.wv_claims (s : State) (r : VReg) (x : Vec) : (s.wv r x).claims = s.claims := rfl
@[simp] theorem State.wv_gathering (s : State) (r : VReg) (x : Vec) : (s.wv r x).gathering = s.gathering := rfl
@[simp] theorem State.wv_units (s : State) (r : VReg) (x : Vec) : (s.wv r x).units = s.units := rfl
@[simp] theorem State.wv_launches (s : State) (r : VReg) (x : Vec) : (s.wv r x).launches = s.launches := rfl
@[simp] theorem State.wv_preemption (s : State) (r : VReg) (x : Vec) : (s.wv r x).preemption = s.preemption := rfl
@[simp] theorem State.wv_transfers (s : State) (r : VReg) (x : Vec) : (s.wv r x).transfers = s.transfers := rfl
@[simp] theorem State.wv_crashes (s : State) (r : VReg) (x : Vec) : (s.wv r x).crashes = s.crashes := rfl
@[simp] theorem State.wv_lastTick (s : State) (r : VReg) (x : Vec) : (s.wv r x).lastTick = s.lastTick := rfl
@[simp] theorem State.wv_passDue (s : State) (r : VReg) (x : Vec) : (s.wv r x).passDue = s.passDue := rfl
@[simp] theorem State.wv_links (s : State) (r : VReg) (x : Vec) : (s.wv r x).links = s.links := rfl
@[simp] theorem State.wv_deadChips (s : State) (r : VReg) (x : Vec) : (s.wv r x).deadChips = s.deadChips := rfl
@[simp] theorem State.wv_groups (s : State) (r : VReg) (x : Vec) : (s.wv r x).groups = s.groups := rfl
@[simp] theorem State.wv_drops (s : State) (r : VReg) (x : Vec) : (s.wv r x).drops = s.drops := rfl
@[simp] theorem State.wv_tableSteps (s : State) (r : VReg) (x : Vec) : (s.wv r x).tableSteps = s.tableSteps := rfl
@[simp] theorem State.wv_inbox (s : State) (r : VReg) (x : Vec) : (s.wv r x).inbox = s.inbox := rfl
@[simp] theorem State.wv_hostIn (s : State) (r : VReg) (x : Vec) : (s.wv r x).hostIn = s.hostIn := rfl
@[simp] theorem State.wv_hostErrors (s : State) (r : VReg) (x : Vec) : (s.wv r x).hostErrors = s.hostErrors := rfl
@[simp] theorem State.wv_outputs (s : State) (r : VReg) (x : Vec) : (s.wv r x).outputs = s.outputs := rfl
@[simp] theorem State.wv_devid (s : State) (r : VReg) (x : Vec) : (s.wv r x).devid = s.devid := rfl
@[simp] theorem State.wv_phase (s : State) (r : VReg) (x : Vec) : (s.wv r x).phase = s.phase := rfl
@[simp] theorem State.wv_bootErr (s : State) (r : VReg) (x : Vec) : (s.wv r x).bootErr = s.bootErr := rfl
@[simp] theorem State.wv_idGone (s : State) (r : VReg) (x : Vec) : (s.wv r x).idGone = s.idGone := rfl
@[simp] theorem State.wv_alarms (s : State) (r : VReg) (x : Vec) : (s.wv r x).alarms = s.alarms := rfl
@[simp] theorem State.wv_lastAlarm (s : State) (r : VReg) (x : Vec) : (s.wv r x).lastAlarm = s.lastAlarm := rfl
@[simp] theorem State.wv_tamperNext (s : State) (r : VReg) (x : Vec) : (s.wv r x).tamperNext = s.tamperNext := rfl
@[simp] theorem State.wv_cmap (s : State) (r : VReg) (x : Vec) : (s.wv r x).cmap = s.cmap := rfl
@[simp] theorem State.wv_ret0 (s : State) (r : VReg) (x : Vec) : (s.wv r x).ret0 = s.ret0 := rfl
@[simp] theorem State.wv_ret1 (s : State) (r : VReg) (x : Vec) : (s.wv r x).ret1 = s.ret1 := rfl
@[simp] theorem State.wv_corr (s : State) (r : VReg) (x : Vec) : (s.wv r x).corr = s.corr := rfl
@[simp] theorem State.wv_epoch (s : State) (r : VReg) (x : Vec) : (s.wv r x).epoch = s.epoch := rfl
@[simp] theorem State.wv_failures (s : State) (r : VReg) (x : Vec) : (s.wv r x).failures = s.failures := rfl
@[simp] theorem State.wv_retiring (s : State) (r : VReg) (x : Vec) : (s.wv r x).retiring = s.retiring := rfl
@[simp] theorem State.wv_retired (s : State) (r : VReg) (x : Vec) : (s.wv r x).retired = s.retired := rfl
@[simp] theorem State.wv_attesting (s : State) (r : VReg) (x : Vec) : (s.wv r x).attesting = s.attesting := rfl
@[simp] theorem State.wv_parity (s : State) (r : VReg) (x : Vec) : (s.wv r x).parity = s.parity := rfl
@[simp] theorem State.wv_core_num (s : State) (r : VReg) (x : Vec) : (s.wv r x).core.num = s.core.num := rfl
@[simp] theorem State.wv_core_c (s : State) (r : VReg) (x : Vec) : (s.wv r x).core.c = s.core.c := rfl
@[simp] theorem State.wv_core_a (s : State) (r : VReg) (x : Vec) : (s.wv r x).core.a = s.core.a := rfl
@[simp] theorem State.wv_core_x (s : State) (r : VReg) (x : Vec) : (s.wv r x).core.x = s.core.x := rfl
@[simp] theorem State.wv_core_sregs (s : State) (r : VReg) (x : Vec) : (s.wv r x).core.sregs = s.core.sregs := rfl
@[simp] theorem State.wv_core_aregs (s : State) (r : VReg) (x : Vec) : (s.wv r x).core.aregs = s.core.aregs := rfl
@[simp] theorem State.wv_core_xregs (s : State) (r : VReg) (x : Vec) : (s.wv r x).core.xregs = s.core.xregs := rfl
@[simp] theorem State.wv_core_v (s : State) (r : VReg) (x : Vec) : (s.wv r x).core.v = s.core.v.set r x := rfl
@[simp] theorem State.wv_core_p (s : State) (r : VReg) (x : Vec) : (s.wv r x).core.p = s.core.p := rfl
@[simp] theorem State.wv_core_flags (s : State) (r : VReg) (x : Vec) : (s.wv r x).core.flags = s.core.flags := rfl
@[simp] theorem State.wv_core_bt (s : State) (r : VReg) (x : Vec) : (s.wv r x).core.bt = s.core.bt := rfl
@[simp] theorem State.wv_core_tiles (s : State) (r : VReg) (x : Vec) : (s.wv r x).core.tiles = s.core.tiles := rfl
@[simp] theorem State.wv_core_accs (s : State) (r : VReg) (x : Vec) : (s.wv r x).core.accs = s.core.accs := rfl
@[simp] theorem State.wv_core_shapes (s : State) (r : VReg) (x : Vec) : (s.wv r x).core.shapes = s.core.shapes := rfl
@[simp] theorem State.wv_core_imemC (s : State) (r : VReg) (x : Vec) : (s.wv r x).core.imemC = s.core.imemC := rfl
@[simp] theorem State.wv_core_imemA (s : State) (r : VReg) (x : Vec) : (s.wv r x).core.imemA = s.core.imemA := rfl
@[simp] theorem State.wv_core_imemX (s : State) (r : VReg) (x : Vec) : (s.wv r x).core.imemX = s.core.imemX := rfl
@[simp] theorem State.wv_core_lq (s : State) (r : VReg) (x : Vec) : (s.wv r x).core.lq = s.core.lq := rfl
@[simp] theorem State.wv_core_sq (s : State) (r : VReg) (x : Vec) : (s.wv r x).core.sq = s.core.sq := rfl
@[simp] theorem State.wv_core_vq (s : State) (r : VReg) (x : Vec) : (s.wv r x).core.vq = s.core.vq := rfl
@[simp] theorem State.wv_core_bqa (s : State) (r : VReg) (x : Vec) : (s.wv r x).core.bqa = s.core.bqa := rfl
@[simp] theorem State.wv_core_bqx (s : State) (r : VReg) (x : Vec) : (s.wv r x).core.bqx = s.core.bqx := rfl
@[simp] theorem State.wv_core_fq (s : State) (r : VReg) (x : Vec) : (s.wv r x).core.fq = s.core.fq := rfl
@[simp] theorem State.wv_core_tokens (s : State) (r : VReg) (x : Vec) : (s.wv r x).core.tokens = s.core.tokens := rfl
@[simp] theorem State.wv_core_banks (s : State) (r : VReg) (x : Vec) : (s.wv r x).core.banks = s.core.banks := rfl
@[simp] theorem State.wv_core_halted (s : State) (r : VReg) (x : Vec) : (s.wv r x).core.halted = s.core.halted := rfl
@[simp] theorem State.wv_core_pending (s : State) (r : VReg) (x : Vec) : (s.wv r x).core.pending = s.core.pending := rfl
@[simp] theorem State.wv_core_cyclesBase (s : State) (r : VReg) (x : Vec) : (s.wv r x).core.cyclesBase = s.core.cyclesBase := rfl
@[simp] theorem State.wv_core_cyclesSince (s : State) (r : VReg) (x : Vec) : (s.wv r x).core.cyclesSince = s.core.cyclesSince := rfl
@[simp] theorem State.wv_core_tbudget (s : State) (r : VReg) (x : Vec) : (s.wv r x).core.tbudget = s.core.tbudget := rfl
@[simp] theorem State.wv_core_dmem (s : State) (r : VReg) (x : Vec) : (s.wv r x).core.dmem = s.core.dmem := rfl
@[simp] theorem State.wv_core_tphase (s : State) (r : VReg) (x : Vec) : (s.wv r x).core.tphase = s.core.tphase := rfl
@[simp] theorem State.wv_core_gphase (s : State) (r : VReg) (x : Vec) : (s.wv r x).core.gphase = s.core.gphase := rfl
@[simp] theorem State.wv_core_gen (s : State) (r : VReg) (x : Vec) : (s.wv r x).core.gen = s.core.gen := rfl
@[simp] theorem State.wv_core_lastrel (s : State) (r : VReg) (x : Vec) : (s.wv r x).core.lastrel = s.core.lastrel := rfl
@[simp] theorem State.wv_core_lastacq (s : State) (r : VReg) (x : Vec) : (s.wv r x).core.lastacq = s.core.lastacq := rfl
@[simp] theorem State.wv_core_unpublished (s : State) (r : VReg) (x : Vec) : (s.wv r x).core.unpublished = s.core.unpublished := rfl
@[simp] theorem State.wv_core_mvthr (s : State) (r : VReg) (x : Vec) : (s.wv r x).core.mvthr = s.core.mvthr := rfl
@[simp] theorem State.wv_core_mlate (s : State) (r : VReg) (x : Vec) : (s.wv r x).core.mlate = s.core.mlate := rfl
@[simp] theorem State.wv_core_isat (s : State) (r : VReg) (x : Vec) : (s.wv r x).core.isat = s.core.isat := rfl
@[simp] theorem State.wv_core_slipmax (s : State) (r : VReg) (x : Vec) : (s.wv r x).core.slipmax = s.core.slipmax := rfl
@[simp] theorem State.wv_core_ldcnt (s : State) (r : VReg) (x : Vec) : (s.wv r x).core.ldcnt = s.core.ldcnt := rfl
@[simp] theorem State.wv_core_wdc (s : State) (r : VReg) (x : Vec) : (s.wv r x).core.wdc = s.core.wdc := rfl
@[simp] theorem State.wv_core_wda (s : State) (r : VReg) (x : Vec) : (s.wv r x).core.wda = s.core.wda := rfl
@[simp] theorem State.wv_core_wdx (s : State) (r : VReg) (x : Vec) : (s.wv r x).core.wdx = s.core.wdx := rfl
@[simp] theorem State.wv_core_sh (s : State) (r : VReg) (x : Vec) : (s.wv r x).core.sh = s.core.sh := rfl
@[simp] theorem State.wv_core_tvec (s : State) (r : VReg) (x : Vec) : (s.wv r x).core.tvec = s.core.tvec := rfl
@[simp] theorem State.wv_core_tscr0 (s : State) (r : VReg) (x : Vec) : (s.wv r x).core.tscr0 = s.core.tscr0 := rfl
@[simp] theorem State.wv_core_tscr1 (s : State) (r : VReg) (x : Vec) : (s.wv r x).core.tscr1 = s.core.tscr1 := rfl
@[simp] theorem State.wv_core_handles (s : State) (r : VReg) (x : Vec) : (s.wv r x).core.handles = s.core.handles := rfl
@[simp] theorem State.wv_core_ltt (s : State) (r : VReg) (x : Vec) : (s.wv r x).core.ltt = s.core.ltt := rfl
@[simp] theorem State.wv_core_reports (s : State) (r : VReg) (x : Vec) : (s.wv r x).core.reports = s.core.reports := rfl
@[simp] theorem State.wv_core_latches (s : State) (r : VReg) (x : Vec) : (s.wv r x).core.latches = s.core.latches := rfl
@[simp] theorem State.wv_core_matrix (s : State) (r : VReg) (x : Vec) : (s.wv r x).core.matrix = s.core.matrix := rfl
@[simp] theorem State.wv_core_engineFree (s : State) (r : VReg) (x : Vec) : (s.wv r x).core.engineFree = s.core.engineFree := rfl
@[simp] theorem State.wv_core_tape (s : State) (r : VReg) (x : Vec) : (s.wv r x).core.tape = s.core.tape := rfl
@[simp] theorem State.wv_core_lastRead (s : State) (r : VReg) (x : Vec) : (s.wv r x).core.lastRead = s.core.lastRead := rfl
@[simp] theorem State.wv_core_member (s : State) (r : VReg) (x : Vec) : (s.wv r x).core.member = s.core.member := rfl
@[simp] theorem State.wv_core_softPending (s : State) (r : VReg) (x : Vec) : (s.wv r x).core.softPending = s.core.softPending := rfl
@[simp] theorem State.wv_core_hardStop (s : State) (r : VReg) (x : Vec) : (s.wv r x).core.hardStop = s.core.hardStop := rfl
@[simp] theorem State.wv_core_engineHeld (s : State) (r : VReg) (x : Vec) : (s.wv r x).core.engineHeld = s.core.engineHeld := rfl

/-! ### wflag -/

@[simp] theorem State.wflag_others (s : State) (r : CFlag) (x : Bool) : (s.wflag r x).others = s.others := rfl
@[simp] theorem State.wflag_agenda (s : State) (r : CFlag) (x : Bool) : (s.wflag r x).agenda = s.agenda := rfl
@[simp] theorem State.wflag_rotor (s : State) (r : CFlag) (x : Bool) : (s.wflag r x).rotor = s.rotor := rfl
@[simp] theorem State.wflag_now (s : State) (r : CFlag) (x : Bool) : (s.wflag r x).now = s.now := rfl
@[simp] theorem State.wflag_fresh (s : State) (r : CFlag) (x : Bool) : (s.wflag r x).fresh = s.fresh := rfl
@[simp] theorem State.wflag_nextId (s : State) (r : CFlag) (x : Bool) : (s.wflag r x).nextId = s.nextId := rfl
@[simp] theorem State.wflag_mem (s : State) (r : CFlag) (x : Bool) : (s.wflag r x).mem = s.mem := rfl
@[simp] theorem State.wflag_poison (s : State) (r : CFlag) (x : Bool) : (s.wflag r x).poison = s.poison := rfl
@[simp] theorem State.wflag_marks (s : State) (r : CFlag) (x : Bool) : (s.wflag r x).marks = s.marks := rfl
@[simp] theorem State.wflag_syncclk (s : State) (r : CFlag) (x : Bool) : (s.wflag r x).syncclk = s.syncclk := rfl
@[simp] theorem State.wflag_flights (s : State) (r : CFlag) (x : Bool) : (s.wflag r x).flights = s.flights := rfl
@[simp] theorem State.wflag_regions (s : State) (r : CFlag) (x : Bool) : (s.wflag r x).regions = s.regions := rfl
@[simp] theorem State.wflag_entries (s : State) (r : CFlag) (x : Bool) : (s.wflag r x).entries = s.entries := rfl
@[simp] theorem State.wflag_stamps (s : State) (r : CFlag) (x : Bool) : (s.wflag r x).stamps = s.stamps := rfl
@[simp] theorem State.wflag_cache (s : State) (r : CFlag) (x : Bool) : (s.wflag r x).cache = s.cache := rfl
@[simp] theorem State.wflag_writeback (s : State) (r : CFlag) (x : Bool) : (s.wflag r x).writeback = s.writeback := rfl
@[simp] theorem State.wflag_watch (s : State) (r : CFlag) (x : Bool) : (s.wflag r x).watch = s.watch := rfl
@[simp] theorem State.wflag_arrivals (s : State) (r : CFlag) (x : Bool) : (s.wflag r x).arrivals = s.arrivals := rfl
@[simp] theorem State.wflag_migrations (s : State) (r : CFlag) (x : Bool) : (s.wflag r x).migrations = s.migrations := rfl
@[simp] theorem State.wflag_echoes (s : State) (r : CFlag) (x : Bool) : (s.wflag r x).echoes = s.echoes := rfl
@[simp] theorem State.wflag_claims (s : State) (r : CFlag) (x : Bool) : (s.wflag r x).claims = s.claims := rfl
@[simp] theorem State.wflag_gathering (s : State) (r : CFlag) (x : Bool) : (s.wflag r x).gathering = s.gathering := rfl
@[simp] theorem State.wflag_units (s : State) (r : CFlag) (x : Bool) : (s.wflag r x).units = s.units := rfl
@[simp] theorem State.wflag_launches (s : State) (r : CFlag) (x : Bool) : (s.wflag r x).launches = s.launches := rfl
@[simp] theorem State.wflag_preemption (s : State) (r : CFlag) (x : Bool) : (s.wflag r x).preemption = s.preemption := rfl
@[simp] theorem State.wflag_transfers (s : State) (r : CFlag) (x : Bool) : (s.wflag r x).transfers = s.transfers := rfl
@[simp] theorem State.wflag_crashes (s : State) (r : CFlag) (x : Bool) : (s.wflag r x).crashes = s.crashes := rfl
@[simp] theorem State.wflag_lastTick (s : State) (r : CFlag) (x : Bool) : (s.wflag r x).lastTick = s.lastTick := rfl
@[simp] theorem State.wflag_passDue (s : State) (r : CFlag) (x : Bool) : (s.wflag r x).passDue = s.passDue := rfl
@[simp] theorem State.wflag_links (s : State) (r : CFlag) (x : Bool) : (s.wflag r x).links = s.links := rfl
@[simp] theorem State.wflag_deadChips (s : State) (r : CFlag) (x : Bool) : (s.wflag r x).deadChips = s.deadChips := rfl
@[simp] theorem State.wflag_groups (s : State) (r : CFlag) (x : Bool) : (s.wflag r x).groups = s.groups := rfl
@[simp] theorem State.wflag_drops (s : State) (r : CFlag) (x : Bool) : (s.wflag r x).drops = s.drops := rfl
@[simp] theorem State.wflag_tableSteps (s : State) (r : CFlag) (x : Bool) : (s.wflag r x).tableSteps = s.tableSteps := rfl
@[simp] theorem State.wflag_inbox (s : State) (r : CFlag) (x : Bool) : (s.wflag r x).inbox = s.inbox := rfl
@[simp] theorem State.wflag_hostIn (s : State) (r : CFlag) (x : Bool) : (s.wflag r x).hostIn = s.hostIn := rfl
@[simp] theorem State.wflag_hostErrors (s : State) (r : CFlag) (x : Bool) : (s.wflag r x).hostErrors = s.hostErrors := rfl
@[simp] theorem State.wflag_outputs (s : State) (r : CFlag) (x : Bool) : (s.wflag r x).outputs = s.outputs := rfl
@[simp] theorem State.wflag_devid (s : State) (r : CFlag) (x : Bool) : (s.wflag r x).devid = s.devid := rfl
@[simp] theorem State.wflag_phase (s : State) (r : CFlag) (x : Bool) : (s.wflag r x).phase = s.phase := rfl
@[simp] theorem State.wflag_bootErr (s : State) (r : CFlag) (x : Bool) : (s.wflag r x).bootErr = s.bootErr := rfl
@[simp] theorem State.wflag_idGone (s : State) (r : CFlag) (x : Bool) : (s.wflag r x).idGone = s.idGone := rfl
@[simp] theorem State.wflag_alarms (s : State) (r : CFlag) (x : Bool) : (s.wflag r x).alarms = s.alarms := rfl
@[simp] theorem State.wflag_lastAlarm (s : State) (r : CFlag) (x : Bool) : (s.wflag r x).lastAlarm = s.lastAlarm := rfl
@[simp] theorem State.wflag_tamperNext (s : State) (r : CFlag) (x : Bool) : (s.wflag r x).tamperNext = s.tamperNext := rfl
@[simp] theorem State.wflag_cmap (s : State) (r : CFlag) (x : Bool) : (s.wflag r x).cmap = s.cmap := rfl
@[simp] theorem State.wflag_ret0 (s : State) (r : CFlag) (x : Bool) : (s.wflag r x).ret0 = s.ret0 := rfl
@[simp] theorem State.wflag_ret1 (s : State) (r : CFlag) (x : Bool) : (s.wflag r x).ret1 = s.ret1 := rfl
@[simp] theorem State.wflag_corr (s : State) (r : CFlag) (x : Bool) : (s.wflag r x).corr = s.corr := rfl
@[simp] theorem State.wflag_epoch (s : State) (r : CFlag) (x : Bool) : (s.wflag r x).epoch = s.epoch := rfl
@[simp] theorem State.wflag_failures (s : State) (r : CFlag) (x : Bool) : (s.wflag r x).failures = s.failures := rfl
@[simp] theorem State.wflag_retiring (s : State) (r : CFlag) (x : Bool) : (s.wflag r x).retiring = s.retiring := rfl
@[simp] theorem State.wflag_retired (s : State) (r : CFlag) (x : Bool) : (s.wflag r x).retired = s.retired := rfl
@[simp] theorem State.wflag_attesting (s : State) (r : CFlag) (x : Bool) : (s.wflag r x).attesting = s.attesting := rfl
@[simp] theorem State.wflag_parity (s : State) (r : CFlag) (x : Bool) : (s.wflag r x).parity = s.parity := rfl
@[simp] theorem State.wflag_core_num (s : State) (r : CFlag) (x : Bool) : (s.wflag r x).core.num = s.core.num := rfl
@[simp] theorem State.wflag_core_c (s : State) (r : CFlag) (x : Bool) : (s.wflag r x).core.c = s.core.c := rfl
@[simp] theorem State.wflag_core_a (s : State) (r : CFlag) (x : Bool) : (s.wflag r x).core.a = s.core.a := rfl
@[simp] theorem State.wflag_core_x (s : State) (r : CFlag) (x : Bool) : (s.wflag r x).core.x = s.core.x := rfl
@[simp] theorem State.wflag_core_sregs (s : State) (r : CFlag) (x : Bool) : (s.wflag r x).core.sregs = s.core.sregs := rfl
@[simp] theorem State.wflag_core_aregs (s : State) (r : CFlag) (x : Bool) : (s.wflag r x).core.aregs = s.core.aregs := rfl
@[simp] theorem State.wflag_core_xregs (s : State) (r : CFlag) (x : Bool) : (s.wflag r x).core.xregs = s.core.xregs := rfl
@[simp] theorem State.wflag_core_v (s : State) (r : CFlag) (x : Bool) : (s.wflag r x).core.v = s.core.v := rfl
@[simp] theorem State.wflag_core_p (s : State) (r : CFlag) (x : Bool) : (s.wflag r x).core.p = s.core.p := rfl
@[simp] theorem State.wflag_core_flags (s : State) (r : CFlag) (x : Bool) : (s.wflag r x).core.flags = s.core.flags.set r x := rfl
@[simp] theorem State.wflag_core_bt (s : State) (r : CFlag) (x : Bool) : (s.wflag r x).core.bt = s.core.bt := rfl
@[simp] theorem State.wflag_core_tiles (s : State) (r : CFlag) (x : Bool) : (s.wflag r x).core.tiles = s.core.tiles := rfl
@[simp] theorem State.wflag_core_accs (s : State) (r : CFlag) (x : Bool) : (s.wflag r x).core.accs = s.core.accs := rfl
@[simp] theorem State.wflag_core_shapes (s : State) (r : CFlag) (x : Bool) : (s.wflag r x).core.shapes = s.core.shapes := rfl
@[simp] theorem State.wflag_core_imemC (s : State) (r : CFlag) (x : Bool) : (s.wflag r x).core.imemC = s.core.imemC := rfl
@[simp] theorem State.wflag_core_imemA (s : State) (r : CFlag) (x : Bool) : (s.wflag r x).core.imemA = s.core.imemA := rfl
@[simp] theorem State.wflag_core_imemX (s : State) (r : CFlag) (x : Bool) : (s.wflag r x).core.imemX = s.core.imemX := rfl
@[simp] theorem State.wflag_core_lq (s : State) (r : CFlag) (x : Bool) : (s.wflag r x).core.lq = s.core.lq := rfl
@[simp] theorem State.wflag_core_sq (s : State) (r : CFlag) (x : Bool) : (s.wflag r x).core.sq = s.core.sq := rfl
@[simp] theorem State.wflag_core_vq (s : State) (r : CFlag) (x : Bool) : (s.wflag r x).core.vq = s.core.vq := rfl
@[simp] theorem State.wflag_core_bqa (s : State) (r : CFlag) (x : Bool) : (s.wflag r x).core.bqa = s.core.bqa := rfl
@[simp] theorem State.wflag_core_bqx (s : State) (r : CFlag) (x : Bool) : (s.wflag r x).core.bqx = s.core.bqx := rfl
@[simp] theorem State.wflag_core_fq (s : State) (r : CFlag) (x : Bool) : (s.wflag r x).core.fq = s.core.fq := rfl
@[simp] theorem State.wflag_core_tokens (s : State) (r : CFlag) (x : Bool) : (s.wflag r x).core.tokens = s.core.tokens := rfl
@[simp] theorem State.wflag_core_banks (s : State) (r : CFlag) (x : Bool) : (s.wflag r x).core.banks = s.core.banks := rfl
@[simp] theorem State.wflag_core_halted (s : State) (r : CFlag) (x : Bool) : (s.wflag r x).core.halted = s.core.halted := rfl
@[simp] theorem State.wflag_core_pending (s : State) (r : CFlag) (x : Bool) : (s.wflag r x).core.pending = s.core.pending := rfl
@[simp] theorem State.wflag_core_cyclesBase (s : State) (r : CFlag) (x : Bool) : (s.wflag r x).core.cyclesBase = s.core.cyclesBase := rfl
@[simp] theorem State.wflag_core_cyclesSince (s : State) (r : CFlag) (x : Bool) : (s.wflag r x).core.cyclesSince = s.core.cyclesSince := rfl
@[simp] theorem State.wflag_core_tbudget (s : State) (r : CFlag) (x : Bool) : (s.wflag r x).core.tbudget = s.core.tbudget := rfl
@[simp] theorem State.wflag_core_dmem (s : State) (r : CFlag) (x : Bool) : (s.wflag r x).core.dmem = s.core.dmem := rfl
@[simp] theorem State.wflag_core_tphase (s : State) (r : CFlag) (x : Bool) : (s.wflag r x).core.tphase = s.core.tphase := rfl
@[simp] theorem State.wflag_core_gphase (s : State) (r : CFlag) (x : Bool) : (s.wflag r x).core.gphase = s.core.gphase := rfl
@[simp] theorem State.wflag_core_gen (s : State) (r : CFlag) (x : Bool) : (s.wflag r x).core.gen = s.core.gen := rfl
@[simp] theorem State.wflag_core_lastrel (s : State) (r : CFlag) (x : Bool) : (s.wflag r x).core.lastrel = s.core.lastrel := rfl
@[simp] theorem State.wflag_core_lastacq (s : State) (r : CFlag) (x : Bool) : (s.wflag r x).core.lastacq = s.core.lastacq := rfl
@[simp] theorem State.wflag_core_unpublished (s : State) (r : CFlag) (x : Bool) : (s.wflag r x).core.unpublished = s.core.unpublished := rfl
@[simp] theorem State.wflag_core_mvthr (s : State) (r : CFlag) (x : Bool) : (s.wflag r x).core.mvthr = s.core.mvthr := rfl
@[simp] theorem State.wflag_core_mlate (s : State) (r : CFlag) (x : Bool) : (s.wflag r x).core.mlate = s.core.mlate := rfl
@[simp] theorem State.wflag_core_isat (s : State) (r : CFlag) (x : Bool) : (s.wflag r x).core.isat = s.core.isat := rfl
@[simp] theorem State.wflag_core_slipmax (s : State) (r : CFlag) (x : Bool) : (s.wflag r x).core.slipmax = s.core.slipmax := rfl
@[simp] theorem State.wflag_core_ldcnt (s : State) (r : CFlag) (x : Bool) : (s.wflag r x).core.ldcnt = s.core.ldcnt := rfl
@[simp] theorem State.wflag_core_wdc (s : State) (r : CFlag) (x : Bool) : (s.wflag r x).core.wdc = s.core.wdc := rfl
@[simp] theorem State.wflag_core_wda (s : State) (r : CFlag) (x : Bool) : (s.wflag r x).core.wda = s.core.wda := rfl
@[simp] theorem State.wflag_core_wdx (s : State) (r : CFlag) (x : Bool) : (s.wflag r x).core.wdx = s.core.wdx := rfl
@[simp] theorem State.wflag_core_sh (s : State) (r : CFlag) (x : Bool) : (s.wflag r x).core.sh = s.core.sh := rfl
@[simp] theorem State.wflag_core_tvec (s : State) (r : CFlag) (x : Bool) : (s.wflag r x).core.tvec = s.core.tvec := rfl
@[simp] theorem State.wflag_core_tscr0 (s : State) (r : CFlag) (x : Bool) : (s.wflag r x).core.tscr0 = s.core.tscr0 := rfl
@[simp] theorem State.wflag_core_tscr1 (s : State) (r : CFlag) (x : Bool) : (s.wflag r x).core.tscr1 = s.core.tscr1 := rfl
@[simp] theorem State.wflag_core_handles (s : State) (r : CFlag) (x : Bool) : (s.wflag r x).core.handles = s.core.handles := rfl
@[simp] theorem State.wflag_core_ltt (s : State) (r : CFlag) (x : Bool) : (s.wflag r x).core.ltt = s.core.ltt := rfl
@[simp] theorem State.wflag_core_reports (s : State) (r : CFlag) (x : Bool) : (s.wflag r x).core.reports = s.core.reports := rfl
@[simp] theorem State.wflag_core_latches (s : State) (r : CFlag) (x : Bool) : (s.wflag r x).core.latches = s.core.latches := rfl
@[simp] theorem State.wflag_core_matrix (s : State) (r : CFlag) (x : Bool) : (s.wflag r x).core.matrix = s.core.matrix := rfl
@[simp] theorem State.wflag_core_engineFree (s : State) (r : CFlag) (x : Bool) : (s.wflag r x).core.engineFree = s.core.engineFree := rfl
@[simp] theorem State.wflag_core_tape (s : State) (r : CFlag) (x : Bool) : (s.wflag r x).core.tape = s.core.tape := rfl
@[simp] theorem State.wflag_core_lastRead (s : State) (r : CFlag) (x : Bool) : (s.wflag r x).core.lastRead = s.core.lastRead := rfl
@[simp] theorem State.wflag_core_member (s : State) (r : CFlag) (x : Bool) : (s.wflag r x).core.member = s.core.member := rfl
@[simp] theorem State.wflag_core_softPending (s : State) (r : CFlag) (x : Bool) : (s.wflag r x).core.softPending = s.core.softPending := rfl
@[simp] theorem State.wflag_core_hardStop (s : State) (r : CFlag) (x : Bool) : (s.wflag r x).core.hardStop = s.core.hardStop := rfl
@[simp] theorem State.wflag_core_engineHeld (s : State) (r : CFlag) (x : Bool) : (s.wflag r x).core.engineHeld = s.core.engineHeld := rfl

/-! ### wp -/

@[simp] theorem State.wp_others (s : State) (r : PReg) (x : Word) : (s.wp r x).others = s.others := by
  unfold State.wp; split <;> rfl
@[simp] theorem State.wp_agenda (s : State) (r : PReg) (x : Word) : (s.wp r x).agenda = s.agenda := by
  unfold State.wp; split <;> rfl
@[simp] theorem State.wp_rotor (s : State) (r : PReg) (x : Word) : (s.wp r x).rotor = s.rotor := by
  unfold State.wp; split <;> rfl
@[simp] theorem State.wp_now (s : State) (r : PReg) (x : Word) : (s.wp r x).now = s.now := by
  unfold State.wp; split <;> rfl
@[simp] theorem State.wp_fresh (s : State) (r : PReg) (x : Word) : (s.wp r x).fresh = s.fresh := by
  unfold State.wp; split <;> rfl
@[simp] theorem State.wp_nextId (s : State) (r : PReg) (x : Word) : (s.wp r x).nextId = s.nextId := by
  unfold State.wp; split <;> rfl
@[simp] theorem State.wp_mem (s : State) (r : PReg) (x : Word) : (s.wp r x).mem = s.mem := by
  unfold State.wp; split <;> rfl
@[simp] theorem State.wp_poison (s : State) (r : PReg) (x : Word) : (s.wp r x).poison = s.poison := by
  unfold State.wp; split <;> rfl
@[simp] theorem State.wp_marks (s : State) (r : PReg) (x : Word) : (s.wp r x).marks = s.marks := by
  unfold State.wp; split <;> rfl
@[simp] theorem State.wp_syncclk (s : State) (r : PReg) (x : Word) : (s.wp r x).syncclk = s.syncclk := by
  unfold State.wp; split <;> rfl
@[simp] theorem State.wp_flights (s : State) (r : PReg) (x : Word) : (s.wp r x).flights = s.flights := by
  unfold State.wp; split <;> rfl
@[simp] theorem State.wp_regions (s : State) (r : PReg) (x : Word) : (s.wp r x).regions = s.regions := by
  unfold State.wp; split <;> rfl
@[simp] theorem State.wp_entries (s : State) (r : PReg) (x : Word) : (s.wp r x).entries = s.entries := by
  unfold State.wp; split <;> rfl
@[simp] theorem State.wp_stamps (s : State) (r : PReg) (x : Word) : (s.wp r x).stamps = s.stamps := by
  unfold State.wp; split <;> rfl
@[simp] theorem State.wp_cache (s : State) (r : PReg) (x : Word) : (s.wp r x).cache = s.cache := by
  unfold State.wp; split <;> rfl
@[simp] theorem State.wp_writeback (s : State) (r : PReg) (x : Word) : (s.wp r x).writeback = s.writeback := by
  unfold State.wp; split <;> rfl
@[simp] theorem State.wp_watch (s : State) (r : PReg) (x : Word) : (s.wp r x).watch = s.watch := by
  unfold State.wp; split <;> rfl
@[simp] theorem State.wp_arrivals (s : State) (r : PReg) (x : Word) : (s.wp r x).arrivals = s.arrivals := by
  unfold State.wp; split <;> rfl
@[simp] theorem State.wp_migrations (s : State) (r : PReg) (x : Word) : (s.wp r x).migrations = s.migrations := by
  unfold State.wp; split <;> rfl
@[simp] theorem State.wp_echoes (s : State) (r : PReg) (x : Word) : (s.wp r x).echoes = s.echoes := by
  unfold State.wp; split <;> rfl
@[simp] theorem State.wp_claims (s : State) (r : PReg) (x : Word) : (s.wp r x).claims = s.claims := by
  unfold State.wp; split <;> rfl
@[simp] theorem State.wp_gathering (s : State) (r : PReg) (x : Word) : (s.wp r x).gathering = s.gathering := by
  unfold State.wp; split <;> rfl
@[simp] theorem State.wp_units (s : State) (r : PReg) (x : Word) : (s.wp r x).units = s.units := by
  unfold State.wp; split <;> rfl
@[simp] theorem State.wp_launches (s : State) (r : PReg) (x : Word) : (s.wp r x).launches = s.launches := by
  unfold State.wp; split <;> rfl
@[simp] theorem State.wp_preemption (s : State) (r : PReg) (x : Word) : (s.wp r x).preemption = s.preemption := by
  unfold State.wp; split <;> rfl
@[simp] theorem State.wp_transfers (s : State) (r : PReg) (x : Word) : (s.wp r x).transfers = s.transfers := by
  unfold State.wp; split <;> rfl
@[simp] theorem State.wp_crashes (s : State) (r : PReg) (x : Word) : (s.wp r x).crashes = s.crashes := by
  unfold State.wp; split <;> rfl
@[simp] theorem State.wp_lastTick (s : State) (r : PReg) (x : Word) : (s.wp r x).lastTick = s.lastTick := by
  unfold State.wp; split <;> rfl
@[simp] theorem State.wp_passDue (s : State) (r : PReg) (x : Word) : (s.wp r x).passDue = s.passDue := by
  unfold State.wp; split <;> rfl
@[simp] theorem State.wp_links (s : State) (r : PReg) (x : Word) : (s.wp r x).links = s.links := by
  unfold State.wp; split <;> rfl
@[simp] theorem State.wp_deadChips (s : State) (r : PReg) (x : Word) : (s.wp r x).deadChips = s.deadChips := by
  unfold State.wp; split <;> rfl
@[simp] theorem State.wp_groups (s : State) (r : PReg) (x : Word) : (s.wp r x).groups = s.groups := by
  unfold State.wp; split <;> rfl
@[simp] theorem State.wp_drops (s : State) (r : PReg) (x : Word) : (s.wp r x).drops = s.drops := by
  unfold State.wp; split <;> rfl
@[simp] theorem State.wp_tableSteps (s : State) (r : PReg) (x : Word) : (s.wp r x).tableSteps = s.tableSteps := by
  unfold State.wp; split <;> rfl
@[simp] theorem State.wp_inbox (s : State) (r : PReg) (x : Word) : (s.wp r x).inbox = s.inbox := by
  unfold State.wp; split <;> rfl
@[simp] theorem State.wp_hostIn (s : State) (r : PReg) (x : Word) : (s.wp r x).hostIn = s.hostIn := by
  unfold State.wp; split <;> rfl
@[simp] theorem State.wp_hostErrors (s : State) (r : PReg) (x : Word) : (s.wp r x).hostErrors = s.hostErrors := by
  unfold State.wp; split <;> rfl
@[simp] theorem State.wp_outputs (s : State) (r : PReg) (x : Word) : (s.wp r x).outputs = s.outputs := by
  unfold State.wp; split <;> rfl
@[simp] theorem State.wp_devid (s : State) (r : PReg) (x : Word) : (s.wp r x).devid = s.devid := by
  unfold State.wp; split <;> rfl
@[simp] theorem State.wp_phase (s : State) (r : PReg) (x : Word) : (s.wp r x).phase = s.phase := by
  unfold State.wp; split <;> rfl
@[simp] theorem State.wp_bootErr (s : State) (r : PReg) (x : Word) : (s.wp r x).bootErr = s.bootErr := by
  unfold State.wp; split <;> rfl
@[simp] theorem State.wp_idGone (s : State) (r : PReg) (x : Word) : (s.wp r x).idGone = s.idGone := by
  unfold State.wp; split <;> rfl
@[simp] theorem State.wp_alarms (s : State) (r : PReg) (x : Word) : (s.wp r x).alarms = s.alarms := by
  unfold State.wp; split <;> rfl
@[simp] theorem State.wp_lastAlarm (s : State) (r : PReg) (x : Word) : (s.wp r x).lastAlarm = s.lastAlarm := by
  unfold State.wp; split <;> rfl
@[simp] theorem State.wp_tamperNext (s : State) (r : PReg) (x : Word) : (s.wp r x).tamperNext = s.tamperNext := by
  unfold State.wp; split <;> rfl
@[simp] theorem State.wp_cmap (s : State) (r : PReg) (x : Word) : (s.wp r x).cmap = s.cmap := by
  unfold State.wp; split <;> rfl
@[simp] theorem State.wp_ret0 (s : State) (r : PReg) (x : Word) : (s.wp r x).ret0 = s.ret0 := by
  unfold State.wp; split <;> rfl
@[simp] theorem State.wp_ret1 (s : State) (r : PReg) (x : Word) : (s.wp r x).ret1 = s.ret1 := by
  unfold State.wp; split <;> rfl
@[simp] theorem State.wp_corr (s : State) (r : PReg) (x : Word) : (s.wp r x).corr = s.corr := by
  unfold State.wp; split <;> rfl
@[simp] theorem State.wp_epoch (s : State) (r : PReg) (x : Word) : (s.wp r x).epoch = s.epoch := by
  unfold State.wp; split <;> rfl
@[simp] theorem State.wp_failures (s : State) (r : PReg) (x : Word) : (s.wp r x).failures = s.failures := by
  unfold State.wp; split <;> rfl
@[simp] theorem State.wp_retiring (s : State) (r : PReg) (x : Word) : (s.wp r x).retiring = s.retiring := by
  unfold State.wp; split <;> rfl
@[simp] theorem State.wp_retired (s : State) (r : PReg) (x : Word) : (s.wp r x).retired = s.retired := by
  unfold State.wp; split <;> rfl
@[simp] theorem State.wp_attesting (s : State) (r : PReg) (x : Word) : (s.wp r x).attesting = s.attesting := by
  unfold State.wp; split <;> rfl
@[simp] theorem State.wp_parity (s : State) (r : PReg) (x : Word) : (s.wp r x).parity = s.parity := by
  unfold State.wp; split <;> rfl
@[simp] theorem State.wp_core_num (s : State) (r : PReg) (x : Word) : (s.wp r x).core.num = s.core.num := by
  unfold State.wp; split <;> rfl
@[simp] theorem State.wp_core_c (s : State) (r : PReg) (x : Word) : (s.wp r x).core.c = s.core.c := by
  unfold State.wp; split <;> rfl
@[simp] theorem State.wp_core_a (s : State) (r : PReg) (x : Word) : (s.wp r x).core.a = s.core.a := by
  unfold State.wp; split <;> rfl
@[simp] theorem State.wp_core_x (s : State) (r : PReg) (x : Word) : (s.wp r x).core.x = s.core.x := by
  unfold State.wp; split <;> rfl
@[simp] theorem State.wp_core_sregs (s : State) (r : PReg) (x : Word) : (s.wp r x).core.sregs = s.core.sregs := by
  unfold State.wp; split <;> rfl
@[simp] theorem State.wp_core_aregs (s : State) (r : PReg) (x : Word) : (s.wp r x).core.aregs = s.core.aregs := by
  unfold State.wp; split <;> rfl
@[simp] theorem State.wp_core_xregs (s : State) (r : PReg) (x : Word) : (s.wp r x).core.xregs = s.core.xregs := by
  unfold State.wp; split <;> rfl
@[simp] theorem State.wp_core_v (s : State) (r : PReg) (x : Word) : (s.wp r x).core.v = s.core.v := by
  unfold State.wp; split <;> rfl
@[simp] theorem State.wp_core_flags (s : State) (r : PReg) (x : Word) : (s.wp r x).core.flags = s.core.flags := by
  unfold State.wp; split <;> rfl
@[simp] theorem State.wp_core_bt (s : State) (r : PReg) (x : Word) : (s.wp r x).core.bt = s.core.bt := by
  unfold State.wp; split <;> rfl
@[simp] theorem State.wp_core_tiles (s : State) (r : PReg) (x : Word) : (s.wp r x).core.tiles = s.core.tiles := by
  unfold State.wp; split <;> rfl
@[simp] theorem State.wp_core_accs (s : State) (r : PReg) (x : Word) : (s.wp r x).core.accs = s.core.accs := by
  unfold State.wp; split <;> rfl
@[simp] theorem State.wp_core_shapes (s : State) (r : PReg) (x : Word) : (s.wp r x).core.shapes = s.core.shapes := by
  unfold State.wp; split <;> rfl
@[simp] theorem State.wp_core_imemC (s : State) (r : PReg) (x : Word) : (s.wp r x).core.imemC = s.core.imemC := by
  unfold State.wp; split <;> rfl
@[simp] theorem State.wp_core_imemA (s : State) (r : PReg) (x : Word) : (s.wp r x).core.imemA = s.core.imemA := by
  unfold State.wp; split <;> rfl
@[simp] theorem State.wp_core_imemX (s : State) (r : PReg) (x : Word) : (s.wp r x).core.imemX = s.core.imemX := by
  unfold State.wp; split <;> rfl
@[simp] theorem State.wp_core_lq (s : State) (r : PReg) (x : Word) : (s.wp r x).core.lq = s.core.lq := by
  unfold State.wp; split <;> rfl
@[simp] theorem State.wp_core_sq (s : State) (r : PReg) (x : Word) : (s.wp r x).core.sq = s.core.sq := by
  unfold State.wp; split <;> rfl
@[simp] theorem State.wp_core_vq (s : State) (r : PReg) (x : Word) : (s.wp r x).core.vq = s.core.vq := by
  unfold State.wp; split <;> rfl
@[simp] theorem State.wp_core_bqa (s : State) (r : PReg) (x : Word) : (s.wp r x).core.bqa = s.core.bqa := by
  unfold State.wp; split <;> rfl
@[simp] theorem State.wp_core_bqx (s : State) (r : PReg) (x : Word) : (s.wp r x).core.bqx = s.core.bqx := by
  unfold State.wp; split <;> rfl
@[simp] theorem State.wp_core_fq (s : State) (r : PReg) (x : Word) : (s.wp r x).core.fq = s.core.fq := by
  unfold State.wp; split <;> rfl
@[simp] theorem State.wp_core_tokens (s : State) (r : PReg) (x : Word) : (s.wp r x).core.tokens = s.core.tokens := by
  unfold State.wp; split <;> rfl
@[simp] theorem State.wp_core_banks (s : State) (r : PReg) (x : Word) : (s.wp r x).core.banks = s.core.banks := by
  unfold State.wp; split <;> rfl
@[simp] theorem State.wp_core_halted (s : State) (r : PReg) (x : Word) : (s.wp r x).core.halted = s.core.halted := by
  unfold State.wp; split <;> rfl
@[simp] theorem State.wp_core_pending (s : State) (r : PReg) (x : Word) : (s.wp r x).core.pending = s.core.pending := by
  unfold State.wp; split <;> rfl
@[simp] theorem State.wp_core_cyclesBase (s : State) (r : PReg) (x : Word) : (s.wp r x).core.cyclesBase = s.core.cyclesBase := by
  unfold State.wp; split <;> rfl
@[simp] theorem State.wp_core_cyclesSince (s : State) (r : PReg) (x : Word) : (s.wp r x).core.cyclesSince = s.core.cyclesSince := by
  unfold State.wp; split <;> rfl
@[simp] theorem State.wp_core_tbudget (s : State) (r : PReg) (x : Word) : (s.wp r x).core.tbudget = s.core.tbudget := by
  unfold State.wp; split <;> rfl
@[simp] theorem State.wp_core_dmem (s : State) (r : PReg) (x : Word) : (s.wp r x).core.dmem = s.core.dmem := by
  unfold State.wp; split <;> rfl
@[simp] theorem State.wp_core_tphase (s : State) (r : PReg) (x : Word) : (s.wp r x).core.tphase = s.core.tphase := by
  unfold State.wp; split <;> rfl
@[simp] theorem State.wp_core_gphase (s : State) (r : PReg) (x : Word) : (s.wp r x).core.gphase = s.core.gphase := by
  unfold State.wp; split <;> rfl
@[simp] theorem State.wp_core_gen (s : State) (r : PReg) (x : Word) : (s.wp r x).core.gen = s.core.gen := by
  unfold State.wp; split <;> rfl
@[simp] theorem State.wp_core_lastrel (s : State) (r : PReg) (x : Word) : (s.wp r x).core.lastrel = s.core.lastrel := by
  unfold State.wp; split <;> rfl
@[simp] theorem State.wp_core_lastacq (s : State) (r : PReg) (x : Word) : (s.wp r x).core.lastacq = s.core.lastacq := by
  unfold State.wp; split <;> rfl
@[simp] theorem State.wp_core_unpublished (s : State) (r : PReg) (x : Word) : (s.wp r x).core.unpublished = s.core.unpublished := by
  unfold State.wp; split <;> rfl
@[simp] theorem State.wp_core_mvthr (s : State) (r : PReg) (x : Word) : (s.wp r x).core.mvthr = s.core.mvthr := by
  unfold State.wp; split <;> rfl
@[simp] theorem State.wp_core_mlate (s : State) (r : PReg) (x : Word) : (s.wp r x).core.mlate = s.core.mlate := by
  unfold State.wp; split <;> rfl
@[simp] theorem State.wp_core_isat (s : State) (r : PReg) (x : Word) : (s.wp r x).core.isat = s.core.isat := by
  unfold State.wp; split <;> rfl
@[simp] theorem State.wp_core_slipmax (s : State) (r : PReg) (x : Word) : (s.wp r x).core.slipmax = s.core.slipmax := by
  unfold State.wp; split <;> rfl
@[simp] theorem State.wp_core_ldcnt (s : State) (r : PReg) (x : Word) : (s.wp r x).core.ldcnt = s.core.ldcnt := by
  unfold State.wp; split <;> rfl
@[simp] theorem State.wp_core_wdc (s : State) (r : PReg) (x : Word) : (s.wp r x).core.wdc = s.core.wdc := by
  unfold State.wp; split <;> rfl
@[simp] theorem State.wp_core_wda (s : State) (r : PReg) (x : Word) : (s.wp r x).core.wda = s.core.wda := by
  unfold State.wp; split <;> rfl
@[simp] theorem State.wp_core_wdx (s : State) (r : PReg) (x : Word) : (s.wp r x).core.wdx = s.core.wdx := by
  unfold State.wp; split <;> rfl
@[simp] theorem State.wp_core_sh (s : State) (r : PReg) (x : Word) : (s.wp r x).core.sh = s.core.sh := by
  unfold State.wp; split <;> rfl
@[simp] theorem State.wp_core_tvec (s : State) (r : PReg) (x : Word) : (s.wp r x).core.tvec = s.core.tvec := by
  unfold State.wp; split <;> rfl
@[simp] theorem State.wp_core_tscr0 (s : State) (r : PReg) (x : Word) : (s.wp r x).core.tscr0 = s.core.tscr0 := by
  unfold State.wp; split <;> rfl
@[simp] theorem State.wp_core_tscr1 (s : State) (r : PReg) (x : Word) : (s.wp r x).core.tscr1 = s.core.tscr1 := by
  unfold State.wp; split <;> rfl
@[simp] theorem State.wp_core_handles (s : State) (r : PReg) (x : Word) : (s.wp r x).core.handles = s.core.handles := by
  unfold State.wp; split <;> rfl
@[simp] theorem State.wp_core_ltt (s : State) (r : PReg) (x : Word) : (s.wp r x).core.ltt = s.core.ltt := by
  unfold State.wp; split <;> rfl
@[simp] theorem State.wp_core_reports (s : State) (r : PReg) (x : Word) : (s.wp r x).core.reports = s.core.reports := by
  unfold State.wp; split <;> rfl
@[simp] theorem State.wp_core_latches (s : State) (r : PReg) (x : Word) : (s.wp r x).core.latches = s.core.latches := by
  unfold State.wp; split <;> rfl
@[simp] theorem State.wp_core_matrix (s : State) (r : PReg) (x : Word) : (s.wp r x).core.matrix = s.core.matrix := by
  unfold State.wp; split <;> rfl
@[simp] theorem State.wp_core_engineFree (s : State) (r : PReg) (x : Word) : (s.wp r x).core.engineFree = s.core.engineFree := by
  unfold State.wp; split <;> rfl
@[simp] theorem State.wp_core_tape (s : State) (r : PReg) (x : Word) : (s.wp r x).core.tape = s.core.tape := by
  unfold State.wp; split <;> rfl
@[simp] theorem State.wp_core_lastRead (s : State) (r : PReg) (x : Word) : (s.wp r x).core.lastRead = s.core.lastRead := by
  unfold State.wp; split <;> rfl
@[simp] theorem State.wp_core_member (s : State) (r : PReg) (x : Word) : (s.wp r x).core.member = s.core.member := by
  unfold State.wp; split <;> rfl
@[simp] theorem State.wp_core_softPending (s : State) (r : PReg) (x : Word) : (s.wp r x).core.softPending = s.core.softPending := by
  unfold State.wp; split <;> rfl
@[simp] theorem State.wp_core_hardStop (s : State) (r : PReg) (x : Word) : (s.wp r x).core.hardStop = s.core.hardStop := by
  unfold State.wp; split <;> rfl
@[simp] theorem State.wp_core_engineHeld (s : State) (r : PReg) (x : Word) : (s.wp r x).core.engineHeld = s.core.engineHeld := by
  unfold State.wp; split <;> rfl

/-! ### setStream -/

@[simp] theorem State.setStream_others (s : State) (st : StreamId) (v : StreamState) : (s.setStream st v).others = s.others := rfl
@[simp] theorem State.setStream_agenda (s : State) (st : StreamId) (v : StreamState) : (s.setStream st v).agenda = s.agenda := rfl
@[simp] theorem State.setStream_rotor (s : State) (st : StreamId) (v : StreamState) : (s.setStream st v).rotor = s.rotor := rfl
@[simp] theorem State.setStream_now (s : State) (st : StreamId) (v : StreamState) : (s.setStream st v).now = s.now := rfl
@[simp] theorem State.setStream_fresh (s : State) (st : StreamId) (v : StreamState) : (s.setStream st v).fresh = s.fresh := rfl
@[simp] theorem State.setStream_nextId (s : State) (st : StreamId) (v : StreamState) : (s.setStream st v).nextId = s.nextId := rfl
@[simp] theorem State.setStream_mem (s : State) (st : StreamId) (v : StreamState) : (s.setStream st v).mem = s.mem := rfl
@[simp] theorem State.setStream_poison (s : State) (st : StreamId) (v : StreamState) : (s.setStream st v).poison = s.poison := rfl
@[simp] theorem State.setStream_marks (s : State) (st : StreamId) (v : StreamState) : (s.setStream st v).marks = s.marks := rfl
@[simp] theorem State.setStream_syncclk (s : State) (st : StreamId) (v : StreamState) : (s.setStream st v).syncclk = s.syncclk := rfl
@[simp] theorem State.setStream_flights (s : State) (st : StreamId) (v : StreamState) : (s.setStream st v).flights = s.flights := rfl
@[simp] theorem State.setStream_regions (s : State) (st : StreamId) (v : StreamState) : (s.setStream st v).regions = s.regions := rfl
@[simp] theorem State.setStream_entries (s : State) (st : StreamId) (v : StreamState) : (s.setStream st v).entries = s.entries := rfl
@[simp] theorem State.setStream_stamps (s : State) (st : StreamId) (v : StreamState) : (s.setStream st v).stamps = s.stamps := rfl
@[simp] theorem State.setStream_cache (s : State) (st : StreamId) (v : StreamState) : (s.setStream st v).cache = s.cache := rfl
@[simp] theorem State.setStream_writeback (s : State) (st : StreamId) (v : StreamState) : (s.setStream st v).writeback = s.writeback := rfl
@[simp] theorem State.setStream_watch (s : State) (st : StreamId) (v : StreamState) : (s.setStream st v).watch = s.watch := rfl
@[simp] theorem State.setStream_arrivals (s : State) (st : StreamId) (v : StreamState) : (s.setStream st v).arrivals = s.arrivals := rfl
@[simp] theorem State.setStream_migrations (s : State) (st : StreamId) (v : StreamState) : (s.setStream st v).migrations = s.migrations := rfl
@[simp] theorem State.setStream_echoes (s : State) (st : StreamId) (v : StreamState) : (s.setStream st v).echoes = s.echoes := rfl
@[simp] theorem State.setStream_claims (s : State) (st : StreamId) (v : StreamState) : (s.setStream st v).claims = s.claims := rfl
@[simp] theorem State.setStream_gathering (s : State) (st : StreamId) (v : StreamState) : (s.setStream st v).gathering = s.gathering := rfl
@[simp] theorem State.setStream_units (s : State) (st : StreamId) (v : StreamState) : (s.setStream st v).units = s.units := rfl
@[simp] theorem State.setStream_launches (s : State) (st : StreamId) (v : StreamState) : (s.setStream st v).launches = s.launches := rfl
@[simp] theorem State.setStream_preemption (s : State) (st : StreamId) (v : StreamState) : (s.setStream st v).preemption = s.preemption := rfl
@[simp] theorem State.setStream_transfers (s : State) (st : StreamId) (v : StreamState) : (s.setStream st v).transfers = s.transfers := rfl
@[simp] theorem State.setStream_crashes (s : State) (st : StreamId) (v : StreamState) : (s.setStream st v).crashes = s.crashes := rfl
@[simp] theorem State.setStream_lastTick (s : State) (st : StreamId) (v : StreamState) : (s.setStream st v).lastTick = s.lastTick := rfl
@[simp] theorem State.setStream_passDue (s : State) (st : StreamId) (v : StreamState) : (s.setStream st v).passDue = s.passDue := rfl
@[simp] theorem State.setStream_links (s : State) (st : StreamId) (v : StreamState) : (s.setStream st v).links = s.links := rfl
@[simp] theorem State.setStream_deadChips (s : State) (st : StreamId) (v : StreamState) : (s.setStream st v).deadChips = s.deadChips := rfl
@[simp] theorem State.setStream_groups (s : State) (st : StreamId) (v : StreamState) : (s.setStream st v).groups = s.groups := rfl
@[simp] theorem State.setStream_drops (s : State) (st : StreamId) (v : StreamState) : (s.setStream st v).drops = s.drops := rfl
@[simp] theorem State.setStream_tableSteps (s : State) (st : StreamId) (v : StreamState) : (s.setStream st v).tableSteps = s.tableSteps := rfl
@[simp] theorem State.setStream_inbox (s : State) (st : StreamId) (v : StreamState) : (s.setStream st v).inbox = s.inbox := rfl
@[simp] theorem State.setStream_hostIn (s : State) (st : StreamId) (v : StreamState) : (s.setStream st v).hostIn = s.hostIn := rfl
@[simp] theorem State.setStream_hostErrors (s : State) (st : StreamId) (v : StreamState) : (s.setStream st v).hostErrors = s.hostErrors := rfl
@[simp] theorem State.setStream_outputs (s : State) (st : StreamId) (v : StreamState) : (s.setStream st v).outputs = s.outputs := rfl
@[simp] theorem State.setStream_devid (s : State) (st : StreamId) (v : StreamState) : (s.setStream st v).devid = s.devid := rfl
@[simp] theorem State.setStream_phase (s : State) (st : StreamId) (v : StreamState) : (s.setStream st v).phase = s.phase := rfl
@[simp] theorem State.setStream_bootErr (s : State) (st : StreamId) (v : StreamState) : (s.setStream st v).bootErr = s.bootErr := rfl
@[simp] theorem State.setStream_idGone (s : State) (st : StreamId) (v : StreamState) : (s.setStream st v).idGone = s.idGone := rfl
@[simp] theorem State.setStream_alarms (s : State) (st : StreamId) (v : StreamState) : (s.setStream st v).alarms = s.alarms := rfl
@[simp] theorem State.setStream_lastAlarm (s : State) (st : StreamId) (v : StreamState) : (s.setStream st v).lastAlarm = s.lastAlarm := rfl
@[simp] theorem State.setStream_tamperNext (s : State) (st : StreamId) (v : StreamState) : (s.setStream st v).tamperNext = s.tamperNext := rfl
@[simp] theorem State.setStream_cmap (s : State) (st : StreamId) (v : StreamState) : (s.setStream st v).cmap = s.cmap := rfl
@[simp] theorem State.setStream_ret0 (s : State) (st : StreamId) (v : StreamState) : (s.setStream st v).ret0 = s.ret0 := rfl
@[simp] theorem State.setStream_ret1 (s : State) (st : StreamId) (v : StreamState) : (s.setStream st v).ret1 = s.ret1 := rfl
@[simp] theorem State.setStream_corr (s : State) (st : StreamId) (v : StreamState) : (s.setStream st v).corr = s.corr := rfl
@[simp] theorem State.setStream_epoch (s : State) (st : StreamId) (v : StreamState) : (s.setStream st v).epoch = s.epoch := rfl
@[simp] theorem State.setStream_failures (s : State) (st : StreamId) (v : StreamState) : (s.setStream st v).failures = s.failures := rfl
@[simp] theorem State.setStream_retiring (s : State) (st : StreamId) (v : StreamState) : (s.setStream st v).retiring = s.retiring := rfl
@[simp] theorem State.setStream_retired (s : State) (st : StreamId) (v : StreamState) : (s.setStream st v).retired = s.retired := rfl
@[simp] theorem State.setStream_attesting (s : State) (st : StreamId) (v : StreamState) : (s.setStream st v).attesting = s.attesting := rfl
@[simp] theorem State.setStream_parity (s : State) (st : StreamId) (v : StreamState) : (s.setStream st v).parity = s.parity := rfl
@[simp] theorem State.setStream_core_num (s : State) (st : StreamId) (v : StreamState) :
    (s.setStream st v).core.num = s.core.num := by cases st <;> rfl
@[simp] theorem State.setStream_core_sregs (s : State) (st : StreamId) (v : StreamState) :
    (s.setStream st v).core.sregs = s.core.sregs := by cases st <;> rfl
@[simp] theorem State.setStream_core_aregs (s : State) (st : StreamId) (v : StreamState) :
    (s.setStream st v).core.aregs = s.core.aregs := by cases st <;> rfl
@[simp] theorem State.setStream_core_xregs (s : State) (st : StreamId) (v : StreamState) :
    (s.setStream st v).core.xregs = s.core.xregs := by cases st <;> rfl
@[simp] theorem State.setStream_core_v (s : State) (st : StreamId) (v : StreamState) :
    (s.setStream st v).core.v = s.core.v := by cases st <;> rfl
@[simp] theorem State.setStream_core_p (s : State) (st : StreamId) (v : StreamState) :
    (s.setStream st v).core.p = s.core.p := by cases st <;> rfl
@[simp] theorem State.setStream_core_flags (s : State) (st : StreamId) (v : StreamState) :
    (s.setStream st v).core.flags = s.core.flags := by cases st <;> rfl
@[simp] theorem State.setStream_core_bt (s : State) (st : StreamId) (v : StreamState) :
    (s.setStream st v).core.bt = s.core.bt := by cases st <;> rfl
@[simp] theorem State.setStream_core_tiles (s : State) (st : StreamId) (v : StreamState) :
    (s.setStream st v).core.tiles = s.core.tiles := by cases st <;> rfl
@[simp] theorem State.setStream_core_accs (s : State) (st : StreamId) (v : StreamState) :
    (s.setStream st v).core.accs = s.core.accs := by cases st <;> rfl
@[simp] theorem State.setStream_core_shapes (s : State) (st : StreamId) (v : StreamState) :
    (s.setStream st v).core.shapes = s.core.shapes := by cases st <;> rfl
@[simp] theorem State.setStream_core_imemC (s : State) (st : StreamId) (v : StreamState) :
    (s.setStream st v).core.imemC = s.core.imemC := by cases st <;> rfl
@[simp] theorem State.setStream_core_imemA (s : State) (st : StreamId) (v : StreamState) :
    (s.setStream st v).core.imemA = s.core.imemA := by cases st <;> rfl
@[simp] theorem State.setStream_core_imemX (s : State) (st : StreamId) (v : StreamState) :
    (s.setStream st v).core.imemX = s.core.imemX := by cases st <;> rfl
@[simp] theorem State.setStream_core_lq (s : State) (st : StreamId) (v : StreamState) :
    (s.setStream st v).core.lq = s.core.lq := by cases st <;> rfl
@[simp] theorem State.setStream_core_sq (s : State) (st : StreamId) (v : StreamState) :
    (s.setStream st v).core.sq = s.core.sq := by cases st <;> rfl
@[simp] theorem State.setStream_core_vq (s : State) (st : StreamId) (v : StreamState) :
    (s.setStream st v).core.vq = s.core.vq := by cases st <;> rfl
@[simp] theorem State.setStream_core_bqa (s : State) (st : StreamId) (v : StreamState) :
    (s.setStream st v).core.bqa = s.core.bqa := by cases st <;> rfl
@[simp] theorem State.setStream_core_bqx (s : State) (st : StreamId) (v : StreamState) :
    (s.setStream st v).core.bqx = s.core.bqx := by cases st <;> rfl
@[simp] theorem State.setStream_core_fq (s : State) (st : StreamId) (v : StreamState) :
    (s.setStream st v).core.fq = s.core.fq := by cases st <;> rfl
@[simp] theorem State.setStream_core_tokens (s : State) (st : StreamId) (v : StreamState) :
    (s.setStream st v).core.tokens = s.core.tokens := by cases st <;> rfl
@[simp] theorem State.setStream_core_banks (s : State) (st : StreamId) (v : StreamState) :
    (s.setStream st v).core.banks = s.core.banks := by cases st <;> rfl
@[simp] theorem State.setStream_core_halted (s : State) (st : StreamId) (v : StreamState) :
    (s.setStream st v).core.halted = s.core.halted := by cases st <;> rfl
@[simp] theorem State.setStream_core_pending (s : State) (st : StreamId) (v : StreamState) :
    (s.setStream st v).core.pending = s.core.pending := by cases st <;> rfl
@[simp] theorem State.setStream_core_cyclesBase (s : State) (st : StreamId) (v : StreamState) :
    (s.setStream st v).core.cyclesBase = s.core.cyclesBase := by cases st <;> rfl
@[simp] theorem State.setStream_core_cyclesSince (s : State) (st : StreamId) (v : StreamState) :
    (s.setStream st v).core.cyclesSince = s.core.cyclesSince := by cases st <;> rfl
@[simp] theorem State.setStream_core_tbudget (s : State) (st : StreamId) (v : StreamState) :
    (s.setStream st v).core.tbudget = s.core.tbudget := by cases st <;> rfl
@[simp] theorem State.setStream_core_dmem (s : State) (st : StreamId) (v : StreamState) :
    (s.setStream st v).core.dmem = s.core.dmem := by cases st <;> rfl
@[simp] theorem State.setStream_core_tphase (s : State) (st : StreamId) (v : StreamState) :
    (s.setStream st v).core.tphase = s.core.tphase := by cases st <;> rfl
@[simp] theorem State.setStream_core_gphase (s : State) (st : StreamId) (v : StreamState) :
    (s.setStream st v).core.gphase = s.core.gphase := by cases st <;> rfl
@[simp] theorem State.setStream_core_gen (s : State) (st : StreamId) (v : StreamState) :
    (s.setStream st v).core.gen = s.core.gen := by cases st <;> rfl
@[simp] theorem State.setStream_core_lastrel (s : State) (st : StreamId) (v : StreamState) :
    (s.setStream st v).core.lastrel = s.core.lastrel := by cases st <;> rfl
@[simp] theorem State.setStream_core_lastacq (s : State) (st : StreamId) (v : StreamState) :
    (s.setStream st v).core.lastacq = s.core.lastacq := by cases st <;> rfl
@[simp] theorem State.setStream_core_unpublished (s : State) (st : StreamId) (v : StreamState) :
    (s.setStream st v).core.unpublished = s.core.unpublished := by cases st <;> rfl
@[simp] theorem State.setStream_core_mvthr (s : State) (st : StreamId) (v : StreamState) :
    (s.setStream st v).core.mvthr = s.core.mvthr := by cases st <;> rfl
@[simp] theorem State.setStream_core_mlate (s : State) (st : StreamId) (v : StreamState) :
    (s.setStream st v).core.mlate = s.core.mlate := by cases st <;> rfl
@[simp] theorem State.setStream_core_isat (s : State) (st : StreamId) (v : StreamState) :
    (s.setStream st v).core.isat = s.core.isat := by cases st <;> rfl
@[simp] theorem State.setStream_core_slipmax (s : State) (st : StreamId) (v : StreamState) :
    (s.setStream st v).core.slipmax = s.core.slipmax := by cases st <;> rfl
@[simp] theorem State.setStream_core_ldcnt (s : State) (st : StreamId) (v : StreamState) :
    (s.setStream st v).core.ldcnt = s.core.ldcnt := by cases st <;> rfl
@[simp] theorem State.setStream_core_wdc (s : State) (st : StreamId) (v : StreamState) :
    (s.setStream st v).core.wdc = s.core.wdc := by cases st <;> rfl
@[simp] theorem State.setStream_core_wda (s : State) (st : StreamId) (v : StreamState) :
    (s.setStream st v).core.wda = s.core.wda := by cases st <;> rfl
@[simp] theorem State.setStream_core_wdx (s : State) (st : StreamId) (v : StreamState) :
    (s.setStream st v).core.wdx = s.core.wdx := by cases st <;> rfl
@[simp] theorem State.setStream_core_sh (s : State) (st : StreamId) (v : StreamState) :
    (s.setStream st v).core.sh = s.core.sh := by cases st <;> rfl
@[simp] theorem State.setStream_core_tvec (s : State) (st : StreamId) (v : StreamState) :
    (s.setStream st v).core.tvec = s.core.tvec := by cases st <;> rfl
@[simp] theorem State.setStream_core_tscr0 (s : State) (st : StreamId) (v : StreamState) :
    (s.setStream st v).core.tscr0 = s.core.tscr0 := by cases st <;> rfl
@[simp] theorem State.setStream_core_tscr1 (s : State) (st : StreamId) (v : StreamState) :
    (s.setStream st v).core.tscr1 = s.core.tscr1 := by cases st <;> rfl
@[simp] theorem State.setStream_core_handles (s : State) (st : StreamId) (v : StreamState) :
    (s.setStream st v).core.handles = s.core.handles := by cases st <;> rfl
@[simp] theorem State.setStream_core_ltt (s : State) (st : StreamId) (v : StreamState) :
    (s.setStream st v).core.ltt = s.core.ltt := by cases st <;> rfl
@[simp] theorem State.setStream_core_reports (s : State) (st : StreamId) (v : StreamState) :
    (s.setStream st v).core.reports = s.core.reports := by cases st <;> rfl
@[simp] theorem State.setStream_core_latches (s : State) (st : StreamId) (v : StreamState) :
    (s.setStream st v).core.latches = s.core.latches := by cases st <;> rfl
@[simp] theorem State.setStream_core_matrix (s : State) (st : StreamId) (v : StreamState) :
    (s.setStream st v).core.matrix = s.core.matrix := by cases st <;> rfl
@[simp] theorem State.setStream_core_engineFree (s : State) (st : StreamId) (v : StreamState) :
    (s.setStream st v).core.engineFree = s.core.engineFree := by cases st <;> rfl
@[simp] theorem State.setStream_core_tape (s : State) (st : StreamId) (v : StreamState) :
    (s.setStream st v).core.tape = s.core.tape := by cases st <;> rfl
@[simp] theorem State.setStream_core_lastRead (s : State) (st : StreamId) (v : StreamState) :
    (s.setStream st v).core.lastRead = s.core.lastRead := by cases st <;> rfl
@[simp] theorem State.setStream_core_member (s : State) (st : StreamId) (v : StreamState) :
    (s.setStream st v).core.member = s.core.member := by cases st <;> rfl
@[simp] theorem State.setStream_core_softPending (s : State) (st : StreamId) (v : StreamState) :
    (s.setStream st v).core.softPending = s.core.softPending := by cases st <;> rfl
@[simp] theorem State.setStream_core_hardStop (s : State) (st : StreamId) (v : StreamState) :
    (s.setStream st v).core.hardStop = s.core.hardStop := by cases st <;> rfl
@[simp] theorem State.setStream_core_engineHeld (s : State) (st : StreamId) (v : StreamState) :
    (s.setStream st v).core.engineHeld = s.core.engineHeld := by cases st <;> rfl
@[simp] theorem State.setStream_stream (s : State) (st : StreamId) (v : StreamState) : (s.setStream st v).stream st = v := by
  cases st <;> rfl
theorem State.setStream_stream_ne (s : State) (st st' : StreamId) (v : StreamState) (h : st' ≠ st) :
    (s.setStream st v).stream st' = s.stream st' := by
  cases st <;> cases st' <;> first | rfl | exact absurd rfl h
@[simp] theorem State.stream_C (s : State) : s.stream .C = s.core.c := rfl
@[simp] theorem State.stream_A (s : State) : s.stream .A = s.core.a := rfl
@[simp] theorem State.stream_X (s : State) : s.stream .X = s.core.x := rfl
@[simp] theorem State.setStream_C_c (s : State) (v : StreamState) : (s.setStream .C v).core.c = v := rfl
@[simp] theorem State.setStream_C_a (s : State) (v : StreamState) : (s.setStream .C v).core.a = s.core.a := rfl
@[simp] theorem State.setStream_C_x (s : State) (v : StreamState) : (s.setStream .C v).core.x = s.core.x := rfl
@[simp] theorem State.setStream_A_c (s : State) (v : StreamState) : (s.setStream .A v).core.c = s.core.c := rfl
@[simp] theorem State.setStream_A_a (s : State) (v : StreamState) : (s.setStream .A v).core.a = v := rfl
@[simp] theorem State.setStream_A_x (s : State) (v : StreamState) : (s.setStream .A v).core.x = s.core.x := rfl
@[simp] theorem State.setStream_X_c (s : State) (v : StreamState) : (s.setStream .X v).core.c = s.core.c := rfl
@[simp] theorem State.setStream_X_a (s : State) (v : StreamState) : (s.setStream .X v).core.a = s.core.a := rfl
@[simp] theorem State.setStream_X_x (s : State) (v : StreamState) : (s.setStream .X v).core.x = v := rfl

/-! ### addTokens -/

@[simp] theorem Core.addTokens_num (k : Core) (p q : StreamId) (n : Nat) : (k.addTokens p q n).num = k.num := rfl
@[simp] theorem Core.addTokens_c (k : Core) (p q : StreamId) (n : Nat) : (k.addTokens p q n).c = k.c := rfl
@[simp] theorem Core.addTokens_a (k : Core) (p q : StreamId) (n : Nat) : (k.addTokens p q n).a = k.a := rfl
@[simp] theorem Core.addTokens_x (k : Core) (p q : StreamId) (n : Nat) : (k.addTokens p q n).x = k.x := rfl
@[simp] theorem Core.addTokens_sregs (k : Core) (p q : StreamId) (n : Nat) : (k.addTokens p q n).sregs = k.sregs := rfl
@[simp] theorem Core.addTokens_aregs (k : Core) (p q : StreamId) (n : Nat) : (k.addTokens p q n).aregs = k.aregs := rfl
@[simp] theorem Core.addTokens_xregs (k : Core) (p q : StreamId) (n : Nat) : (k.addTokens p q n).xregs = k.xregs := rfl
@[simp] theorem Core.addTokens_v (k : Core) (p q : StreamId) (n : Nat) : (k.addTokens p q n).v = k.v := rfl
@[simp] theorem Core.addTokens_p (k : Core) (p q : StreamId) (n : Nat) : (k.addTokens p q n).p = k.p := rfl
@[simp] theorem Core.addTokens_flags (k : Core) (p q : StreamId) (n : Nat) : (k.addTokens p q n).flags = k.flags := rfl
@[simp] theorem Core.addTokens_bt (k : Core) (p q : StreamId) (n : Nat) : (k.addTokens p q n).bt = k.bt := rfl
@[simp] theorem Core.addTokens_tiles (k : Core) (p q : StreamId) (n : Nat) : (k.addTokens p q n).tiles = k.tiles := rfl
@[simp] theorem Core.addTokens_accs (k : Core) (p q : StreamId) (n : Nat) : (k.addTokens p q n).accs = k.accs := rfl
@[simp] theorem Core.addTokens_shapes (k : Core) (p q : StreamId) (n : Nat) : (k.addTokens p q n).shapes = k.shapes := rfl
@[simp] theorem Core.addTokens_imemC (k : Core) (p q : StreamId) (n : Nat) : (k.addTokens p q n).imemC = k.imemC := rfl
@[simp] theorem Core.addTokens_imemA (k : Core) (p q : StreamId) (n : Nat) : (k.addTokens p q n).imemA = k.imemA := rfl
@[simp] theorem Core.addTokens_imemX (k : Core) (p q : StreamId) (n : Nat) : (k.addTokens p q n).imemX = k.imemX := rfl
@[simp] theorem Core.addTokens_lq (k : Core) (p q : StreamId) (n : Nat) : (k.addTokens p q n).lq = k.lq := rfl
@[simp] theorem Core.addTokens_sq (k : Core) (p q : StreamId) (n : Nat) : (k.addTokens p q n).sq = k.sq := rfl
@[simp] theorem Core.addTokens_vq (k : Core) (p q : StreamId) (n : Nat) : (k.addTokens p q n).vq = k.vq := rfl
@[simp] theorem Core.addTokens_bqa (k : Core) (p q : StreamId) (n : Nat) : (k.addTokens p q n).bqa = k.bqa := rfl
@[simp] theorem Core.addTokens_bqx (k : Core) (p q : StreamId) (n : Nat) : (k.addTokens p q n).bqx = k.bqx := rfl
@[simp] theorem Core.addTokens_fq (k : Core) (p q : StreamId) (n : Nat) : (k.addTokens p q n).fq = k.fq := rfl
@[simp] theorem Core.addTokens_banks (k : Core) (p q : StreamId) (n : Nat) : (k.addTokens p q n).banks = k.banks := rfl
@[simp] theorem Core.addTokens_halted (k : Core) (p q : StreamId) (n : Nat) : (k.addTokens p q n).halted = k.halted := rfl
@[simp] theorem Core.addTokens_pending (k : Core) (p q : StreamId) (n : Nat) : (k.addTokens p q n).pending = k.pending := rfl
@[simp] theorem Core.addTokens_cyclesBase (k : Core) (p q : StreamId) (n : Nat) : (k.addTokens p q n).cyclesBase = k.cyclesBase := rfl
@[simp] theorem Core.addTokens_cyclesSince (k : Core) (p q : StreamId) (n : Nat) : (k.addTokens p q n).cyclesSince = k.cyclesSince := rfl
@[simp] theorem Core.addTokens_tbudget (k : Core) (p q : StreamId) (n : Nat) : (k.addTokens p q n).tbudget = k.tbudget := rfl
@[simp] theorem Core.addTokens_dmem (k : Core) (p q : StreamId) (n : Nat) : (k.addTokens p q n).dmem = k.dmem := rfl
@[simp] theorem Core.addTokens_tphase (k : Core) (p q : StreamId) (n : Nat) : (k.addTokens p q n).tphase = k.tphase := rfl
@[simp] theorem Core.addTokens_gphase (k : Core) (p q : StreamId) (n : Nat) : (k.addTokens p q n).gphase = k.gphase := rfl
@[simp] theorem Core.addTokens_gen (k : Core) (p q : StreamId) (n : Nat) : (k.addTokens p q n).gen = k.gen := rfl
@[simp] theorem Core.addTokens_lastrel (k : Core) (p q : StreamId) (n : Nat) : (k.addTokens p q n).lastrel = k.lastrel := rfl
@[simp] theorem Core.addTokens_lastacq (k : Core) (p q : StreamId) (n : Nat) : (k.addTokens p q n).lastacq = k.lastacq := rfl
@[simp] theorem Core.addTokens_unpublished (k : Core) (p q : StreamId) (n : Nat) : (k.addTokens p q n).unpublished = k.unpublished := rfl
@[simp] theorem Core.addTokens_mvthr (k : Core) (p q : StreamId) (n : Nat) : (k.addTokens p q n).mvthr = k.mvthr := rfl
@[simp] theorem Core.addTokens_mlate (k : Core) (p q : StreamId) (n : Nat) : (k.addTokens p q n).mlate = k.mlate := rfl
@[simp] theorem Core.addTokens_isat (k : Core) (p q : StreamId) (n : Nat) : (k.addTokens p q n).isat = k.isat := rfl
@[simp] theorem Core.addTokens_slipmax (k : Core) (p q : StreamId) (n : Nat) : (k.addTokens p q n).slipmax = k.slipmax := rfl
@[simp] theorem Core.addTokens_ldcnt (k : Core) (p q : StreamId) (n : Nat) : (k.addTokens p q n).ldcnt = k.ldcnt := rfl
@[simp] theorem Core.addTokens_wdc (k : Core) (p q : StreamId) (n : Nat) : (k.addTokens p q n).wdc = k.wdc := rfl
@[simp] theorem Core.addTokens_wda (k : Core) (p q : StreamId) (n : Nat) : (k.addTokens p q n).wda = k.wda := rfl
@[simp] theorem Core.addTokens_wdx (k : Core) (p q : StreamId) (n : Nat) : (k.addTokens p q n).wdx = k.wdx := rfl
@[simp] theorem Core.addTokens_sh (k : Core) (p q : StreamId) (n : Nat) : (k.addTokens p q n).sh = k.sh := rfl
@[simp] theorem Core.addTokens_tvec (k : Core) (p q : StreamId) (n : Nat) : (k.addTokens p q n).tvec = k.tvec := rfl
@[simp] theorem Core.addTokens_tscr0 (k : Core) (p q : StreamId) (n : Nat) : (k.addTokens p q n).tscr0 = k.tscr0 := rfl
@[simp] theorem Core.addTokens_tscr1 (k : Core) (p q : StreamId) (n : Nat) : (k.addTokens p q n).tscr1 = k.tscr1 := rfl
@[simp] theorem Core.addTokens_handles (k : Core) (p q : StreamId) (n : Nat) : (k.addTokens p q n).handles = k.handles := rfl
@[simp] theorem Core.addTokens_ltt (k : Core) (p q : StreamId) (n : Nat) : (k.addTokens p q n).ltt = k.ltt := rfl
@[simp] theorem Core.addTokens_reports (k : Core) (p q : StreamId) (n : Nat) : (k.addTokens p q n).reports = k.reports := rfl
@[simp] theorem Core.addTokens_latches (k : Core) (p q : StreamId) (n : Nat) : (k.addTokens p q n).latches = k.latches := rfl
@[simp] theorem Core.addTokens_matrix (k : Core) (p q : StreamId) (n : Nat) : (k.addTokens p q n).matrix = k.matrix := rfl
@[simp] theorem Core.addTokens_engineFree (k : Core) (p q : StreamId) (n : Nat) : (k.addTokens p q n).engineFree = k.engineFree := rfl
@[simp] theorem Core.addTokens_tape (k : Core) (p q : StreamId) (n : Nat) : (k.addTokens p q n).tape = k.tape := rfl
@[simp] theorem Core.addTokens_lastRead (k : Core) (p q : StreamId) (n : Nat) : (k.addTokens p q n).lastRead = k.lastRead := rfl
@[simp] theorem Core.addTokens_member (k : Core) (p q : StreamId) (n : Nat) : (k.addTokens p q n).member = k.member := rfl
@[simp] theorem Core.addTokens_softPending (k : Core) (p q : StreamId) (n : Nat) : (k.addTokens p q n).softPending = k.softPending := rfl
@[simp] theorem Core.addTokens_hardStop (k : Core) (p q : StreamId) (n : Nat) : (k.addTokens p q n).hardStop = k.hardStop := rfl
@[simp] theorem Core.addTokens_engineHeld (k : Core) (p q : StreamId) (n : Nat) : (k.addTokens p q n).engineHeld = k.engineHeld := rfl

/-! ### takeTokens -/

@[simp] theorem Core.takeTokens_num (k : Core) (p q : StreamId) (n : Nat) : (k.takeTokens p q n).num = k.num := rfl
@[simp] theorem Core.takeTokens_c (k : Core) (p q : StreamId) (n : Nat) : (k.takeTokens p q n).c = k.c := rfl
@[simp] theorem Core.takeTokens_a (k : Core) (p q : StreamId) (n : Nat) : (k.takeTokens p q n).a = k.a := rfl
@[simp] theorem Core.takeTokens_x (k : Core) (p q : StreamId) (n : Nat) : (k.takeTokens p q n).x = k.x := rfl
@[simp] theorem Core.takeTokens_sregs (k : Core) (p q : StreamId) (n : Nat) : (k.takeTokens p q n).sregs = k.sregs := rfl
@[simp] theorem Core.takeTokens_aregs (k : Core) (p q : StreamId) (n : Nat) : (k.takeTokens p q n).aregs = k.aregs := rfl
@[simp] theorem Core.takeTokens_xregs (k : Core) (p q : StreamId) (n : Nat) : (k.takeTokens p q n).xregs = k.xregs := rfl
@[simp] theorem Core.takeTokens_v (k : Core) (p q : StreamId) (n : Nat) : (k.takeTokens p q n).v = k.v := rfl
@[simp] theorem Core.takeTokens_p (k : Core) (p q : StreamId) (n : Nat) : (k.takeTokens p q n).p = k.p := rfl
@[simp] theorem Core.takeTokens_flags (k : Core) (p q : StreamId) (n : Nat) : (k.takeTokens p q n).flags = k.flags := rfl
@[simp] theorem Core.takeTokens_bt (k : Core) (p q : StreamId) (n : Nat) : (k.takeTokens p q n).bt = k.bt := rfl
@[simp] theorem Core.takeTokens_tiles (k : Core) (p q : StreamId) (n : Nat) : (k.takeTokens p q n).tiles = k.tiles := rfl
@[simp] theorem Core.takeTokens_accs (k : Core) (p q : StreamId) (n : Nat) : (k.takeTokens p q n).accs = k.accs := rfl
@[simp] theorem Core.takeTokens_shapes (k : Core) (p q : StreamId) (n : Nat) : (k.takeTokens p q n).shapes = k.shapes := rfl
@[simp] theorem Core.takeTokens_imemC (k : Core) (p q : StreamId) (n : Nat) : (k.takeTokens p q n).imemC = k.imemC := rfl
@[simp] theorem Core.takeTokens_imemA (k : Core) (p q : StreamId) (n : Nat) : (k.takeTokens p q n).imemA = k.imemA := rfl
@[simp] theorem Core.takeTokens_imemX (k : Core) (p q : StreamId) (n : Nat) : (k.takeTokens p q n).imemX = k.imemX := rfl
@[simp] theorem Core.takeTokens_lq (k : Core) (p q : StreamId) (n : Nat) : (k.takeTokens p q n).lq = k.lq := rfl
@[simp] theorem Core.takeTokens_sq (k : Core) (p q : StreamId) (n : Nat) : (k.takeTokens p q n).sq = k.sq := rfl
@[simp] theorem Core.takeTokens_vq (k : Core) (p q : StreamId) (n : Nat) : (k.takeTokens p q n).vq = k.vq := rfl
@[simp] theorem Core.takeTokens_bqa (k : Core) (p q : StreamId) (n : Nat) : (k.takeTokens p q n).bqa = k.bqa := rfl
@[simp] theorem Core.takeTokens_bqx (k : Core) (p q : StreamId) (n : Nat) : (k.takeTokens p q n).bqx = k.bqx := rfl
@[simp] theorem Core.takeTokens_fq (k : Core) (p q : StreamId) (n : Nat) : (k.takeTokens p q n).fq = k.fq := rfl
@[simp] theorem Core.takeTokens_banks (k : Core) (p q : StreamId) (n : Nat) : (k.takeTokens p q n).banks = k.banks := rfl
@[simp] theorem Core.takeTokens_halted (k : Core) (p q : StreamId) (n : Nat) : (k.takeTokens p q n).halted = k.halted := rfl
@[simp] theorem Core.takeTokens_pending (k : Core) (p q : StreamId) (n : Nat) : (k.takeTokens p q n).pending = k.pending := rfl
@[simp] theorem Core.takeTokens_cyclesBase (k : Core) (p q : StreamId) (n : Nat) : (k.takeTokens p q n).cyclesBase = k.cyclesBase := rfl
@[simp] theorem Core.takeTokens_cyclesSince (k : Core) (p q : StreamId) (n : Nat) : (k.takeTokens p q n).cyclesSince = k.cyclesSince := rfl
@[simp] theorem Core.takeTokens_tbudget (k : Core) (p q : StreamId) (n : Nat) : (k.takeTokens p q n).tbudget = k.tbudget := rfl
@[simp] theorem Core.takeTokens_dmem (k : Core) (p q : StreamId) (n : Nat) : (k.takeTokens p q n).dmem = k.dmem := rfl
@[simp] theorem Core.takeTokens_tphase (k : Core) (p q : StreamId) (n : Nat) : (k.takeTokens p q n).tphase = k.tphase := rfl
@[simp] theorem Core.takeTokens_gphase (k : Core) (p q : StreamId) (n : Nat) : (k.takeTokens p q n).gphase = k.gphase := rfl
@[simp] theorem Core.takeTokens_gen (k : Core) (p q : StreamId) (n : Nat) : (k.takeTokens p q n).gen = k.gen := rfl
@[simp] theorem Core.takeTokens_lastrel (k : Core) (p q : StreamId) (n : Nat) : (k.takeTokens p q n).lastrel = k.lastrel := rfl
@[simp] theorem Core.takeTokens_lastacq (k : Core) (p q : StreamId) (n : Nat) : (k.takeTokens p q n).lastacq = k.lastacq := rfl
@[simp] theorem Core.takeTokens_unpublished (k : Core) (p q : StreamId) (n : Nat) : (k.takeTokens p q n).unpublished = k.unpublished := rfl
@[simp] theorem Core.takeTokens_mvthr (k : Core) (p q : StreamId) (n : Nat) : (k.takeTokens p q n).mvthr = k.mvthr := rfl
@[simp] theorem Core.takeTokens_mlate (k : Core) (p q : StreamId) (n : Nat) : (k.takeTokens p q n).mlate = k.mlate := rfl
@[simp] theorem Core.takeTokens_isat (k : Core) (p q : StreamId) (n : Nat) : (k.takeTokens p q n).isat = k.isat := rfl
@[simp] theorem Core.takeTokens_slipmax (k : Core) (p q : StreamId) (n : Nat) : (k.takeTokens p q n).slipmax = k.slipmax := rfl
@[simp] theorem Core.takeTokens_ldcnt (k : Core) (p q : StreamId) (n : Nat) : (k.takeTokens p q n).ldcnt = k.ldcnt := rfl
@[simp] theorem Core.takeTokens_wdc (k : Core) (p q : StreamId) (n : Nat) : (k.takeTokens p q n).wdc = k.wdc := rfl
@[simp] theorem Core.takeTokens_wda (k : Core) (p q : StreamId) (n : Nat) : (k.takeTokens p q n).wda = k.wda := rfl
@[simp] theorem Core.takeTokens_wdx (k : Core) (p q : StreamId) (n : Nat) : (k.takeTokens p q n).wdx = k.wdx := rfl
@[simp] theorem Core.takeTokens_sh (k : Core) (p q : StreamId) (n : Nat) : (k.takeTokens p q n).sh = k.sh := rfl
@[simp] theorem Core.takeTokens_tvec (k : Core) (p q : StreamId) (n : Nat) : (k.takeTokens p q n).tvec = k.tvec := rfl
@[simp] theorem Core.takeTokens_tscr0 (k : Core) (p q : StreamId) (n : Nat) : (k.takeTokens p q n).tscr0 = k.tscr0 := rfl
@[simp] theorem Core.takeTokens_tscr1 (k : Core) (p q : StreamId) (n : Nat) : (k.takeTokens p q n).tscr1 = k.tscr1 := rfl
@[simp] theorem Core.takeTokens_handles (k : Core) (p q : StreamId) (n : Nat) : (k.takeTokens p q n).handles = k.handles := rfl
@[simp] theorem Core.takeTokens_ltt (k : Core) (p q : StreamId) (n : Nat) : (k.takeTokens p q n).ltt = k.ltt := rfl
@[simp] theorem Core.takeTokens_reports (k : Core) (p q : StreamId) (n : Nat) : (k.takeTokens p q n).reports = k.reports := rfl
@[simp] theorem Core.takeTokens_latches (k : Core) (p q : StreamId) (n : Nat) : (k.takeTokens p q n).latches = k.latches := rfl
@[simp] theorem Core.takeTokens_matrix (k : Core) (p q : StreamId) (n : Nat) : (k.takeTokens p q n).matrix = k.matrix := rfl
@[simp] theorem Core.takeTokens_engineFree (k : Core) (p q : StreamId) (n : Nat) : (k.takeTokens p q n).engineFree = k.engineFree := rfl
@[simp] theorem Core.takeTokens_tape (k : Core) (p q : StreamId) (n : Nat) : (k.takeTokens p q n).tape = k.tape := rfl
@[simp] theorem Core.takeTokens_lastRead (k : Core) (p q : StreamId) (n : Nat) : (k.takeTokens p q n).lastRead = k.lastRead := rfl
@[simp] theorem Core.takeTokens_member (k : Core) (p q : StreamId) (n : Nat) : (k.takeTokens p q n).member = k.member := rfl
@[simp] theorem Core.takeTokens_softPending (k : Core) (p q : StreamId) (n : Nat) : (k.takeTokens p q n).softPending = k.softPending := rfl
@[simp] theorem Core.takeTokens_hardStop (k : Core) (p q : StreamId) (n : Nat) : (k.takeTokens p q n).hardStop = k.hardStop := rfl
@[simp] theorem Core.takeTokens_engineHeld (k : Core) (p q : StreamId) (n : Nat) : (k.takeTokens p q n).engineHeld = k.engineHeld := rfl

/-! ### takeSync -/

@[simp] theorem Core.takeSync_num (k : Core) (st : StreamId) (y : BitVec 4) : (k.takeSync st y).num = k.num := by
  unfold Core.takeSync; dsimp only; split <;> split <;> rfl
@[simp] theorem Core.takeSync_c (k : Core) (st : StreamId) (y : BitVec 4) : (k.takeSync st y).c = k.c := by
  unfold Core.takeSync; dsimp only; split <;> split <;> rfl
@[simp] theorem Core.takeSync_a (k : Core) (st : StreamId) (y : BitVec 4) : (k.takeSync st y).a = k.a := by
  unfold Core.takeSync; dsimp only; split <;> split <;> rfl
@[simp] theorem Core.takeSync_x (k : Core) (st : StreamId) (y : BitVec 4) : (k.takeSync st y).x = k.x := by
  unfold Core.takeSync; dsimp only; split <;> split <;> rfl
@[simp] theorem Core.takeSync_sregs (k : Core) (st : StreamId) (y : BitVec 4) : (k.takeSync st y).sregs = k.sregs := by
  unfold Core.takeSync; dsimp only; split <;> split <;> rfl
@[simp] theorem Core.takeSync_aregs (k : Core) (st : StreamId) (y : BitVec 4) : (k.takeSync st y).aregs = k.aregs := by
  unfold Core.takeSync; dsimp only; split <;> split <;> rfl
@[simp] theorem Core.takeSync_xregs (k : Core) (st : StreamId) (y : BitVec 4) : (k.takeSync st y).xregs = k.xregs := by
  unfold Core.takeSync; dsimp only; split <;> split <;> rfl
@[simp] theorem Core.takeSync_v (k : Core) (st : StreamId) (y : BitVec 4) : (k.takeSync st y).v = k.v := by
  unfold Core.takeSync; dsimp only; split <;> split <;> rfl
@[simp] theorem Core.takeSync_p (k : Core) (st : StreamId) (y : BitVec 4) : (k.takeSync st y).p = k.p := by
  unfold Core.takeSync; dsimp only; split <;> split <;> rfl
@[simp] theorem Core.takeSync_flags (k : Core) (st : StreamId) (y : BitVec 4) : (k.takeSync st y).flags = k.flags := by
  unfold Core.takeSync; dsimp only; split <;> split <;> rfl
@[simp] theorem Core.takeSync_bt (k : Core) (st : StreamId) (y : BitVec 4) : (k.takeSync st y).bt = k.bt := by
  unfold Core.takeSync; dsimp only; split <;> split <;> rfl
@[simp] theorem Core.takeSync_tiles (k : Core) (st : StreamId) (y : BitVec 4) : (k.takeSync st y).tiles = k.tiles := by
  unfold Core.takeSync; dsimp only; split <;> split <;> rfl
@[simp] theorem Core.takeSync_accs (k : Core) (st : StreamId) (y : BitVec 4) : (k.takeSync st y).accs = k.accs := by
  unfold Core.takeSync; dsimp only; split <;> split <;> rfl
@[simp] theorem Core.takeSync_shapes (k : Core) (st : StreamId) (y : BitVec 4) : (k.takeSync st y).shapes = k.shapes := by
  unfold Core.takeSync; dsimp only; split <;> split <;> rfl
@[simp] theorem Core.takeSync_imemC (k : Core) (st : StreamId) (y : BitVec 4) : (k.takeSync st y).imemC = k.imemC := by
  unfold Core.takeSync; dsimp only; split <;> split <;> rfl
@[simp] theorem Core.takeSync_imemA (k : Core) (st : StreamId) (y : BitVec 4) : (k.takeSync st y).imemA = k.imemA := by
  unfold Core.takeSync; dsimp only; split <;> split <;> rfl
@[simp] theorem Core.takeSync_imemX (k : Core) (st : StreamId) (y : BitVec 4) : (k.takeSync st y).imemX = k.imemX := by
  unfold Core.takeSync; dsimp only; split <;> split <;> rfl
@[simp] theorem Core.takeSync_lq (k : Core) (st : StreamId) (y : BitVec 4) : (k.takeSync st y).lq = k.lq := by
  unfold Core.takeSync; dsimp only; split <;> split <;> rfl
@[simp] theorem Core.takeSync_sq (k : Core) (st : StreamId) (y : BitVec 4) : (k.takeSync st y).sq = k.sq := by
  unfold Core.takeSync; dsimp only; split <;> split <;> rfl
@[simp] theorem Core.takeSync_vq (k : Core) (st : StreamId) (y : BitVec 4) : (k.takeSync st y).vq = k.vq := by
  unfold Core.takeSync; dsimp only; split <;> split <;> rfl
@[simp] theorem Core.takeSync_bqa (k : Core) (st : StreamId) (y : BitVec 4) : (k.takeSync st y).bqa = k.bqa := by
  unfold Core.takeSync; dsimp only; split <;> split <;> rfl
@[simp] theorem Core.takeSync_bqx (k : Core) (st : StreamId) (y : BitVec 4) : (k.takeSync st y).bqx = k.bqx := by
  unfold Core.takeSync; dsimp only; split <;> split <;> rfl
@[simp] theorem Core.takeSync_fq (k : Core) (st : StreamId) (y : BitVec 4) : (k.takeSync st y).fq = k.fq := by
  unfold Core.takeSync; dsimp only; split <;> split <;> rfl
@[simp] theorem Core.takeSync_banks (k : Core) (st : StreamId) (y : BitVec 4) : (k.takeSync st y).banks = k.banks := by
  unfold Core.takeSync; dsimp only; split <;> split <;> rfl
@[simp] theorem Core.takeSync_halted (k : Core) (st : StreamId) (y : BitVec 4) : (k.takeSync st y).halted = k.halted := by
  unfold Core.takeSync; dsimp only; split <;> split <;> rfl
@[simp] theorem Core.takeSync_pending (k : Core) (st : StreamId) (y : BitVec 4) : (k.takeSync st y).pending = k.pending := by
  unfold Core.takeSync; dsimp only; split <;> split <;> rfl
@[simp] theorem Core.takeSync_cyclesBase (k : Core) (st : StreamId) (y : BitVec 4) : (k.takeSync st y).cyclesBase = k.cyclesBase := by
  unfold Core.takeSync; dsimp only; split <;> split <;> rfl
@[simp] theorem Core.takeSync_cyclesSince (k : Core) (st : StreamId) (y : BitVec 4) : (k.takeSync st y).cyclesSince = k.cyclesSince := by
  unfold Core.takeSync; dsimp only; split <;> split <;> rfl
@[simp] theorem Core.takeSync_tbudget (k : Core) (st : StreamId) (y : BitVec 4) : (k.takeSync st y).tbudget = k.tbudget := by
  unfold Core.takeSync; dsimp only; split <;> split <;> rfl
@[simp] theorem Core.takeSync_dmem (k : Core) (st : StreamId) (y : BitVec 4) : (k.takeSync st y).dmem = k.dmem := by
  unfold Core.takeSync; dsimp only; split <;> split <;> rfl
@[simp] theorem Core.takeSync_tphase (k : Core) (st : StreamId) (y : BitVec 4) : (k.takeSync st y).tphase = k.tphase := by
  unfold Core.takeSync; dsimp only; split <;> split <;> rfl
@[simp] theorem Core.takeSync_gphase (k : Core) (st : StreamId) (y : BitVec 4) : (k.takeSync st y).gphase = k.gphase := by
  unfold Core.takeSync; dsimp only; split <;> split <;> rfl
@[simp] theorem Core.takeSync_gen (k : Core) (st : StreamId) (y : BitVec 4) : (k.takeSync st y).gen = k.gen := by
  unfold Core.takeSync; dsimp only; split <;> split <;> rfl
@[simp] theorem Core.takeSync_lastrel (k : Core) (st : StreamId) (y : BitVec 4) : (k.takeSync st y).lastrel = k.lastrel := by
  unfold Core.takeSync; dsimp only; split <;> split <;> rfl
@[simp] theorem Core.takeSync_lastacq (k : Core) (st : StreamId) (y : BitVec 4) : (k.takeSync st y).lastacq = k.lastacq := by
  unfold Core.takeSync; dsimp only; split <;> split <;> rfl
@[simp] theorem Core.takeSync_unpublished (k : Core) (st : StreamId) (y : BitVec 4) : (k.takeSync st y).unpublished = k.unpublished := by
  unfold Core.takeSync; dsimp only; split <;> split <;> rfl
@[simp] theorem Core.takeSync_mvthr (k : Core) (st : StreamId) (y : BitVec 4) : (k.takeSync st y).mvthr = k.mvthr := by
  unfold Core.takeSync; dsimp only; split <;> split <;> rfl
@[simp] theorem Core.takeSync_mlate (k : Core) (st : StreamId) (y : BitVec 4) : (k.takeSync st y).mlate = k.mlate := by
  unfold Core.takeSync; dsimp only; split <;> split <;> rfl
@[simp] theorem Core.takeSync_isat (k : Core) (st : StreamId) (y : BitVec 4) : (k.takeSync st y).isat = k.isat := by
  unfold Core.takeSync; dsimp only; split <;> split <;> rfl
@[simp] theorem Core.takeSync_slipmax (k : Core) (st : StreamId) (y : BitVec 4) : (k.takeSync st y).slipmax = k.slipmax := by
  unfold Core.takeSync; dsimp only; split <;> split <;> rfl
@[simp] theorem Core.takeSync_ldcnt (k : Core) (st : StreamId) (y : BitVec 4) : (k.takeSync st y).ldcnt = k.ldcnt := by
  unfold Core.takeSync; dsimp only; split <;> split <;> rfl
@[simp] theorem Core.takeSync_wdc (k : Core) (st : StreamId) (y : BitVec 4) : (k.takeSync st y).wdc = k.wdc := by
  unfold Core.takeSync; dsimp only; split <;> split <;> rfl
@[simp] theorem Core.takeSync_wda (k : Core) (st : StreamId) (y : BitVec 4) : (k.takeSync st y).wda = k.wda := by
  unfold Core.takeSync; dsimp only; split <;> split <;> rfl
@[simp] theorem Core.takeSync_wdx (k : Core) (st : StreamId) (y : BitVec 4) : (k.takeSync st y).wdx = k.wdx := by
  unfold Core.takeSync; dsimp only; split <;> split <;> rfl
@[simp] theorem Core.takeSync_sh (k : Core) (st : StreamId) (y : BitVec 4) : (k.takeSync st y).sh = k.sh := by
  unfold Core.takeSync; dsimp only; split <;> split <;> rfl
@[simp] theorem Core.takeSync_tvec (k : Core) (st : StreamId) (y : BitVec 4) : (k.takeSync st y).tvec = k.tvec := by
  unfold Core.takeSync; dsimp only; split <;> split <;> rfl
@[simp] theorem Core.takeSync_tscr0 (k : Core) (st : StreamId) (y : BitVec 4) : (k.takeSync st y).tscr0 = k.tscr0 := by
  unfold Core.takeSync; dsimp only; split <;> split <;> rfl
@[simp] theorem Core.takeSync_tscr1 (k : Core) (st : StreamId) (y : BitVec 4) : (k.takeSync st y).tscr1 = k.tscr1 := by
  unfold Core.takeSync; dsimp only; split <;> split <;> rfl
@[simp] theorem Core.takeSync_handles (k : Core) (st : StreamId) (y : BitVec 4) : (k.takeSync st y).handles = k.handles := by
  unfold Core.takeSync; dsimp only; split <;> split <;> rfl
@[simp] theorem Core.takeSync_ltt (k : Core) (st : StreamId) (y : BitVec 4) : (k.takeSync st y).ltt = k.ltt := by
  unfold Core.takeSync; dsimp only; split <;> split <;> rfl
@[simp] theorem Core.takeSync_reports (k : Core) (st : StreamId) (y : BitVec 4) : (k.takeSync st y).reports = k.reports := by
  unfold Core.takeSync; dsimp only; split <;> split <;> rfl
@[simp] theorem Core.takeSync_latches (k : Core) (st : StreamId) (y : BitVec 4) : (k.takeSync st y).latches = k.latches := by
  unfold Core.takeSync; dsimp only; split <;> split <;> rfl
@[simp] theorem Core.takeSync_matrix (k : Core) (st : StreamId) (y : BitVec 4) : (k.takeSync st y).matrix = k.matrix := by
  unfold Core.takeSync; dsimp only; split <;> split <;> rfl
@[simp] theorem Core.takeSync_engineFree (k : Core) (st : StreamId) (y : BitVec 4) : (k.takeSync st y).engineFree = k.engineFree := by
  unfold Core.takeSync; dsimp only; split <;> split <;> rfl
@[simp] theorem Core.takeSync_tape (k : Core) (st : StreamId) (y : BitVec 4) : (k.takeSync st y).tape = k.tape := by
  unfold Core.takeSync; dsimp only; split <;> split <;> rfl
@[simp] theorem Core.takeSync_lastRead (k : Core) (st : StreamId) (y : BitVec 4) : (k.takeSync st y).lastRead = k.lastRead := by
  unfold Core.takeSync; dsimp only; split <;> split <;> rfl
@[simp] theorem Core.takeSync_member (k : Core) (st : StreamId) (y : BitVec 4) : (k.takeSync st y).member = k.member := by
  unfold Core.takeSync; dsimp only; split <;> split <;> rfl
@[simp] theorem Core.takeSync_softPending (k : Core) (st : StreamId) (y : BitVec 4) : (k.takeSync st y).softPending = k.softPending := by
  unfold Core.takeSync; dsimp only; split <;> split <;> rfl
@[simp] theorem Core.takeSync_hardStop (k : Core) (st : StreamId) (y : BitVec 4) : (k.takeSync st y).hardStop = k.hardStop := by
  unfold Core.takeSync; dsimp only; split <;> split <;> rfl
@[simp] theorem Core.takeSync_engineHeld (k : Core) (st : StreamId) (y : BitVec 4) : (k.takeSync st y).engineHeld = k.engineHeld := by
  unfold Core.takeSync; dsimp only; split <;> split <;> rfl

/-! ### giveSync -/

@[simp] theorem Core.giveSync_num (k : Core) (st : StreamId) (y : BitVec 2) : (k.giveSync st y).num = k.num := by
  unfold Core.giveSync; dsimp only; split <;> split <;> rfl
@[simp] theorem Core.giveSync_c (k : Core) (st : StreamId) (y : BitVec 2) : (k.giveSync st y).c = k.c := by
  unfold Core.giveSync; dsimp only; split <;> split <;> rfl
@[simp] theorem Core.giveSync_a (k : Core) (st : StreamId) (y : BitVec 2) : (k.giveSync st y).a = k.a := by
  unfold Core.giveSync; dsimp only; split <;> split <;> rfl
@[simp] theorem Core.giveSync_x (k : Core) (st : StreamId) (y : BitVec 2) : (k.giveSync st y).x = k.x := by
  unfold Core.giveSync; dsimp only; split <;> split <;> rfl
@[simp] theorem Core.giveSync_sregs (k : Core) (st : StreamId) (y : BitVec 2) : (k.giveSync st y).sregs = k.sregs := by
  unfold Core.giveSync; dsimp only; split <;> split <;> rfl
@[simp] theorem Core.giveSync_aregs (k : Core) (st : StreamId) (y : BitVec 2) : (k.giveSync st y).aregs = k.aregs := by
  unfold Core.giveSync; dsimp only; split <;> split <;> rfl
@[simp] theorem Core.giveSync_xregs (k : Core) (st : StreamId) (y : BitVec 2) : (k.giveSync st y).xregs = k.xregs := by
  unfold Core.giveSync; dsimp only; split <;> split <;> rfl
@[simp] theorem Core.giveSync_v (k : Core) (st : StreamId) (y : BitVec 2) : (k.giveSync st y).v = k.v := by
  unfold Core.giveSync; dsimp only; split <;> split <;> rfl
@[simp] theorem Core.giveSync_p (k : Core) (st : StreamId) (y : BitVec 2) : (k.giveSync st y).p = k.p := by
  unfold Core.giveSync; dsimp only; split <;> split <;> rfl
@[simp] theorem Core.giveSync_flags (k : Core) (st : StreamId) (y : BitVec 2) : (k.giveSync st y).flags = k.flags := by
  unfold Core.giveSync; dsimp only; split <;> split <;> rfl
@[simp] theorem Core.giveSync_bt (k : Core) (st : StreamId) (y : BitVec 2) : (k.giveSync st y).bt = k.bt := by
  unfold Core.giveSync; dsimp only; split <;> split <;> rfl
@[simp] theorem Core.giveSync_tiles (k : Core) (st : StreamId) (y : BitVec 2) : (k.giveSync st y).tiles = k.tiles := by
  unfold Core.giveSync; dsimp only; split <;> split <;> rfl
@[simp] theorem Core.giveSync_accs (k : Core) (st : StreamId) (y : BitVec 2) : (k.giveSync st y).accs = k.accs := by
  unfold Core.giveSync; dsimp only; split <;> split <;> rfl
@[simp] theorem Core.giveSync_shapes (k : Core) (st : StreamId) (y : BitVec 2) : (k.giveSync st y).shapes = k.shapes := by
  unfold Core.giveSync; dsimp only; split <;> split <;> rfl
@[simp] theorem Core.giveSync_imemC (k : Core) (st : StreamId) (y : BitVec 2) : (k.giveSync st y).imemC = k.imemC := by
  unfold Core.giveSync; dsimp only; split <;> split <;> rfl
@[simp] theorem Core.giveSync_imemA (k : Core) (st : StreamId) (y : BitVec 2) : (k.giveSync st y).imemA = k.imemA := by
  unfold Core.giveSync; dsimp only; split <;> split <;> rfl
@[simp] theorem Core.giveSync_imemX (k : Core) (st : StreamId) (y : BitVec 2) : (k.giveSync st y).imemX = k.imemX := by
  unfold Core.giveSync; dsimp only; split <;> split <;> rfl
@[simp] theorem Core.giveSync_lq (k : Core) (st : StreamId) (y : BitVec 2) : (k.giveSync st y).lq = k.lq := by
  unfold Core.giveSync; dsimp only; split <;> split <;> rfl
@[simp] theorem Core.giveSync_sq (k : Core) (st : StreamId) (y : BitVec 2) : (k.giveSync st y).sq = k.sq := by
  unfold Core.giveSync; dsimp only; split <;> split <;> rfl
@[simp] theorem Core.giveSync_vq (k : Core) (st : StreamId) (y : BitVec 2) : (k.giveSync st y).vq = k.vq := by
  unfold Core.giveSync; dsimp only; split <;> split <;> rfl
@[simp] theorem Core.giveSync_bqa (k : Core) (st : StreamId) (y : BitVec 2) : (k.giveSync st y).bqa = k.bqa := by
  unfold Core.giveSync; dsimp only; split <;> split <;> rfl
@[simp] theorem Core.giveSync_bqx (k : Core) (st : StreamId) (y : BitVec 2) : (k.giveSync st y).bqx = k.bqx := by
  unfold Core.giveSync; dsimp only; split <;> split <;> rfl
@[simp] theorem Core.giveSync_fq (k : Core) (st : StreamId) (y : BitVec 2) : (k.giveSync st y).fq = k.fq := by
  unfold Core.giveSync; dsimp only; split <;> split <;> rfl
@[simp] theorem Core.giveSync_banks (k : Core) (st : StreamId) (y : BitVec 2) : (k.giveSync st y).banks = k.banks := by
  unfold Core.giveSync; dsimp only; split <;> split <;> rfl
@[simp] theorem Core.giveSync_halted (k : Core) (st : StreamId) (y : BitVec 2) : (k.giveSync st y).halted = k.halted := by
  unfold Core.giveSync; dsimp only; split <;> split <;> rfl
@[simp] theorem Core.giveSync_pending (k : Core) (st : StreamId) (y : BitVec 2) : (k.giveSync st y).pending = k.pending := by
  unfold Core.giveSync; dsimp only; split <;> split <;> rfl
@[simp] theorem Core.giveSync_cyclesBase (k : Core) (st : StreamId) (y : BitVec 2) : (k.giveSync st y).cyclesBase = k.cyclesBase := by
  unfold Core.giveSync; dsimp only; split <;> split <;> rfl
@[simp] theorem Core.giveSync_cyclesSince (k : Core) (st : StreamId) (y : BitVec 2) : (k.giveSync st y).cyclesSince = k.cyclesSince := by
  unfold Core.giveSync; dsimp only; split <;> split <;> rfl
@[simp] theorem Core.giveSync_tbudget (k : Core) (st : StreamId) (y : BitVec 2) : (k.giveSync st y).tbudget = k.tbudget := by
  unfold Core.giveSync; dsimp only; split <;> split <;> rfl
@[simp] theorem Core.giveSync_dmem (k : Core) (st : StreamId) (y : BitVec 2) : (k.giveSync st y).dmem = k.dmem := by
  unfold Core.giveSync; dsimp only; split <;> split <;> rfl
@[simp] theorem Core.giveSync_tphase (k : Core) (st : StreamId) (y : BitVec 2) : (k.giveSync st y).tphase = k.tphase := by
  unfold Core.giveSync; dsimp only; split <;> split <;> rfl
@[simp] theorem Core.giveSync_gphase (k : Core) (st : StreamId) (y : BitVec 2) : (k.giveSync st y).gphase = k.gphase := by
  unfold Core.giveSync; dsimp only; split <;> split <;> rfl
@[simp] theorem Core.giveSync_gen (k : Core) (st : StreamId) (y : BitVec 2) : (k.giveSync st y).gen = k.gen := by
  unfold Core.giveSync; dsimp only; split <;> split <;> rfl
@[simp] theorem Core.giveSync_lastrel (k : Core) (st : StreamId) (y : BitVec 2) : (k.giveSync st y).lastrel = k.lastrel := by
  unfold Core.giveSync; dsimp only; split <;> split <;> rfl
@[simp] theorem Core.giveSync_lastacq (k : Core) (st : StreamId) (y : BitVec 2) : (k.giveSync st y).lastacq = k.lastacq := by
  unfold Core.giveSync; dsimp only; split <;> split <;> rfl
@[simp] theorem Core.giveSync_unpublished (k : Core) (st : StreamId) (y : BitVec 2) : (k.giveSync st y).unpublished = k.unpublished := by
  unfold Core.giveSync; dsimp only; split <;> split <;> rfl
@[simp] theorem Core.giveSync_mvthr (k : Core) (st : StreamId) (y : BitVec 2) : (k.giveSync st y).mvthr = k.mvthr := by
  unfold Core.giveSync; dsimp only; split <;> split <;> rfl
@[simp] theorem Core.giveSync_mlate (k : Core) (st : StreamId) (y : BitVec 2) : (k.giveSync st y).mlate = k.mlate := by
  unfold Core.giveSync; dsimp only; split <;> split <;> rfl
@[simp] theorem Core.giveSync_isat (k : Core) (st : StreamId) (y : BitVec 2) : (k.giveSync st y).isat = k.isat := by
  unfold Core.giveSync; dsimp only; split <;> split <;> rfl
@[simp] theorem Core.giveSync_slipmax (k : Core) (st : StreamId) (y : BitVec 2) : (k.giveSync st y).slipmax = k.slipmax := by
  unfold Core.giveSync; dsimp only; split <;> split <;> rfl
@[simp] theorem Core.giveSync_ldcnt (k : Core) (st : StreamId) (y : BitVec 2) : (k.giveSync st y).ldcnt = k.ldcnt := by
  unfold Core.giveSync; dsimp only; split <;> split <;> rfl
@[simp] theorem Core.giveSync_wdc (k : Core) (st : StreamId) (y : BitVec 2) : (k.giveSync st y).wdc = k.wdc := by
  unfold Core.giveSync; dsimp only; split <;> split <;> rfl
@[simp] theorem Core.giveSync_wda (k : Core) (st : StreamId) (y : BitVec 2) : (k.giveSync st y).wda = k.wda := by
  unfold Core.giveSync; dsimp only; split <;> split <;> rfl
@[simp] theorem Core.giveSync_wdx (k : Core) (st : StreamId) (y : BitVec 2) : (k.giveSync st y).wdx = k.wdx := by
  unfold Core.giveSync; dsimp only; split <;> split <;> rfl
@[simp] theorem Core.giveSync_sh (k : Core) (st : StreamId) (y : BitVec 2) : (k.giveSync st y).sh = k.sh := by
  unfold Core.giveSync; dsimp only; split <;> split <;> rfl
@[simp] theorem Core.giveSync_tvec (k : Core) (st : StreamId) (y : BitVec 2) : (k.giveSync st y).tvec = k.tvec := by
  unfold Core.giveSync; dsimp only; split <;> split <;> rfl
@[simp] theorem Core.giveSync_tscr0 (k : Core) (st : StreamId) (y : BitVec 2) : (k.giveSync st y).tscr0 = k.tscr0 := by
  unfold Core.giveSync; dsimp only; split <;> split <;> rfl
@[simp] theorem Core.giveSync_tscr1 (k : Core) (st : StreamId) (y : BitVec 2) : (k.giveSync st y).tscr1 = k.tscr1 := by
  unfold Core.giveSync; dsimp only; split <;> split <;> rfl
@[simp] theorem Core.giveSync_handles (k : Core) (st : StreamId) (y : BitVec 2) : (k.giveSync st y).handles = k.handles := by
  unfold Core.giveSync; dsimp only; split <;> split <;> rfl
@[simp] theorem Core.giveSync_ltt (k : Core) (st : StreamId) (y : BitVec 2) : (k.giveSync st y).ltt = k.ltt := by
  unfold Core.giveSync; dsimp only; split <;> split <;> rfl
@[simp] theorem Core.giveSync_reports (k : Core) (st : StreamId) (y : BitVec 2) : (k.giveSync st y).reports = k.reports := by
  unfold Core.giveSync; dsimp only; split <;> split <;> rfl
@[simp] theorem Core.giveSync_latches (k : Core) (st : StreamId) (y : BitVec 2) : (k.giveSync st y).latches = k.latches := by
  unfold Core.giveSync; dsimp only; split <;> split <;> rfl
@[simp] theorem Core.giveSync_matrix (k : Core) (st : StreamId) (y : BitVec 2) : (k.giveSync st y).matrix = k.matrix := by
  unfold Core.giveSync; dsimp only; split <;> split <;> rfl
@[simp] theorem Core.giveSync_engineFree (k : Core) (st : StreamId) (y : BitVec 2) : (k.giveSync st y).engineFree = k.engineFree := by
  unfold Core.giveSync; dsimp only; split <;> split <;> rfl
@[simp] theorem Core.giveSync_tape (k : Core) (st : StreamId) (y : BitVec 2) : (k.giveSync st y).tape = k.tape := by
  unfold Core.giveSync; dsimp only; split <;> split <;> rfl
@[simp] theorem Core.giveSync_lastRead (k : Core) (st : StreamId) (y : BitVec 2) : (k.giveSync st y).lastRead = k.lastRead := by
  unfold Core.giveSync; dsimp only; split <;> split <;> rfl
@[simp] theorem Core.giveSync_member (k : Core) (st : StreamId) (y : BitVec 2) : (k.giveSync st y).member = k.member := by
  unfold Core.giveSync; dsimp only; split <;> split <;> rfl
@[simp] theorem Core.giveSync_softPending (k : Core) (st : StreamId) (y : BitVec 2) : (k.giveSync st y).softPending = k.softPending := by
  unfold Core.giveSync; dsimp only; split <;> split <;> rfl
@[simp] theorem Core.giveSync_hardStop (k : Core) (st : StreamId) (y : BitVec 2) : (k.giveSync st y).hardStop = k.hardStop := by
  unfold Core.giveSync; dsimp only; split <;> split <;> rfl
@[simp] theorem Core.giveSync_engineHeld (k : Core) (st : StreamId) (y : BitVec 2) : (k.giveSync st y).engineHeld = k.engineHeld := by
  unfold Core.giveSync; dsimp only; split <;> split <;> rfl

/-! ### Starting, waiting, going on and trapping: nothing changes but streams, tokens and the pending trap -/


/-! ### synced -/

@[simp] theorem synced_others (st : StreamId) (y : BitVec 4) (s : State) : (synced st y s).others = s.others := by
  unfold synced; split
  · rfl
  · simp
@[simp] theorem synced_agenda (st : StreamId) (y : BitVec 4) (s : State) : (synced st y s).agenda = s.agenda := by
  unfold synced; split
  · rfl
  · simp
@[simp] theorem synced_rotor (st : StreamId) (y : BitVec 4) (s : State) : (synced st y s).rotor = s.rotor := by
  unfold synced; split
  · rfl
  · simp
@[simp] theorem synced_now (st : StreamId) (y : BitVec 4) (s : State) : (synced st y s).now = s.now := by
  unfold synced; split
  · rfl
  · simp
@[simp] theorem synced_fresh (st : StreamId) (y : BitVec 4) (s : State) : (synced st y s).fresh = s.fresh := by
  unfold synced; split
  · rfl
  · simp
@[simp] theorem synced_nextId (st : StreamId) (y : BitVec 4) (s : State) : (synced st y s).nextId = s.nextId := by
  unfold synced; split
  · rfl
  · simp
@[simp] theorem synced_mem (st : StreamId) (y : BitVec 4) (s : State) : (synced st y s).mem = s.mem := by
  unfold synced; split
  · rfl
  · simp
@[simp] theorem synced_poison (st : StreamId) (y : BitVec 4) (s : State) : (synced st y s).poison = s.poison := by
  unfold synced; split
  · rfl
  · simp
@[simp] theorem synced_marks (st : StreamId) (y : BitVec 4) (s : State) : (synced st y s).marks = s.marks := by
  unfold synced; split
  · rfl
  · simp
@[simp] theorem synced_syncclk (st : StreamId) (y : BitVec 4) (s : State) : (synced st y s).syncclk = s.syncclk := by
  unfold synced; split
  · rfl
  · simp
@[simp] theorem synced_flights (st : StreamId) (y : BitVec 4) (s : State) : (synced st y s).flights = s.flights := by
  unfold synced; split
  · rfl
  · simp
@[simp] theorem synced_regions (st : StreamId) (y : BitVec 4) (s : State) : (synced st y s).regions = s.regions := by
  unfold synced; split
  · rfl
  · simp
@[simp] theorem synced_entries (st : StreamId) (y : BitVec 4) (s : State) : (synced st y s).entries = s.entries := by
  unfold synced; split
  · rfl
  · simp
@[simp] theorem synced_stamps (st : StreamId) (y : BitVec 4) (s : State) : (synced st y s).stamps = s.stamps := by
  unfold synced; split
  · rfl
  · simp
@[simp] theorem synced_cache (st : StreamId) (y : BitVec 4) (s : State) : (synced st y s).cache = s.cache := by
  unfold synced; split
  · rfl
  · simp
@[simp] theorem synced_writeback (st : StreamId) (y : BitVec 4) (s : State) : (synced st y s).writeback = s.writeback := by
  unfold synced; split
  · rfl
  · simp
@[simp] theorem synced_watch (st : StreamId) (y : BitVec 4) (s : State) : (synced st y s).watch = s.watch := by
  unfold synced; split
  · rfl
  · simp
@[simp] theorem synced_arrivals (st : StreamId) (y : BitVec 4) (s : State) : (synced st y s).arrivals = s.arrivals := by
  unfold synced; split
  · rfl
  · simp
@[simp] theorem synced_migrations (st : StreamId) (y : BitVec 4) (s : State) : (synced st y s).migrations = s.migrations := by
  unfold synced; split
  · rfl
  · simp
@[simp] theorem synced_echoes (st : StreamId) (y : BitVec 4) (s : State) : (synced st y s).echoes = s.echoes := by
  unfold synced; split
  · rfl
  · simp
@[simp] theorem synced_claims (st : StreamId) (y : BitVec 4) (s : State) : (synced st y s).claims = s.claims := by
  unfold synced; split
  · rfl
  · simp
@[simp] theorem synced_gathering (st : StreamId) (y : BitVec 4) (s : State) : (synced st y s).gathering = s.gathering := by
  unfold synced; split
  · rfl
  · simp
@[simp] theorem synced_units (st : StreamId) (y : BitVec 4) (s : State) : (synced st y s).units = s.units := by
  unfold synced; split
  · rfl
  · simp
@[simp] theorem synced_launches (st : StreamId) (y : BitVec 4) (s : State) : (synced st y s).launches = s.launches := by
  unfold synced; split
  · rfl
  · simp
@[simp] theorem synced_preemption (st : StreamId) (y : BitVec 4) (s : State) : (synced st y s).preemption = s.preemption := by
  unfold synced; split
  · rfl
  · simp
@[simp] theorem synced_transfers (st : StreamId) (y : BitVec 4) (s : State) : (synced st y s).transfers = s.transfers := by
  unfold synced; split
  · rfl
  · simp
@[simp] theorem synced_crashes (st : StreamId) (y : BitVec 4) (s : State) : (synced st y s).crashes = s.crashes := by
  unfold synced; split
  · rfl
  · simp
@[simp] theorem synced_lastTick (st : StreamId) (y : BitVec 4) (s : State) : (synced st y s).lastTick = s.lastTick := by
  unfold synced; split
  · rfl
  · simp
@[simp] theorem synced_passDue (st : StreamId) (y : BitVec 4) (s : State) : (synced st y s).passDue = s.passDue := by
  unfold synced; split
  · rfl
  · simp
@[simp] theorem synced_links (st : StreamId) (y : BitVec 4) (s : State) : (synced st y s).links = s.links := by
  unfold synced; split
  · rfl
  · simp
@[simp] theorem synced_deadChips (st : StreamId) (y : BitVec 4) (s : State) : (synced st y s).deadChips = s.deadChips := by
  unfold synced; split
  · rfl
  · simp
@[simp] theorem synced_groups (st : StreamId) (y : BitVec 4) (s : State) : (synced st y s).groups = s.groups := by
  unfold synced; split
  · rfl
  · simp
@[simp] theorem synced_drops (st : StreamId) (y : BitVec 4) (s : State) : (synced st y s).drops = s.drops := by
  unfold synced; split
  · rfl
  · simp
@[simp] theorem synced_tableSteps (st : StreamId) (y : BitVec 4) (s : State) : (synced st y s).tableSteps = s.tableSteps := by
  unfold synced; split
  · rfl
  · simp
@[simp] theorem synced_inbox (st : StreamId) (y : BitVec 4) (s : State) : (synced st y s).inbox = s.inbox := by
  unfold synced; split
  · rfl
  · simp
@[simp] theorem synced_hostIn (st : StreamId) (y : BitVec 4) (s : State) : (synced st y s).hostIn = s.hostIn := by
  unfold synced; split
  · rfl
  · simp
@[simp] theorem synced_hostErrors (st : StreamId) (y : BitVec 4) (s : State) : (synced st y s).hostErrors = s.hostErrors := by
  unfold synced; split
  · rfl
  · simp
@[simp] theorem synced_outputs (st : StreamId) (y : BitVec 4) (s : State) : (synced st y s).outputs = s.outputs := by
  unfold synced; split
  · rfl
  · simp
@[simp] theorem synced_devid (st : StreamId) (y : BitVec 4) (s : State) : (synced st y s).devid = s.devid := by
  unfold synced; split
  · rfl
  · simp
@[simp] theorem synced_phase (st : StreamId) (y : BitVec 4) (s : State) : (synced st y s).phase = s.phase := by
  unfold synced; split
  · rfl
  · simp
@[simp] theorem synced_bootErr (st : StreamId) (y : BitVec 4) (s : State) : (synced st y s).bootErr = s.bootErr := by
  unfold synced; split
  · rfl
  · simp
@[simp] theorem synced_idGone (st : StreamId) (y : BitVec 4) (s : State) : (synced st y s).idGone = s.idGone := by
  unfold synced; split
  · rfl
  · simp
@[simp] theorem synced_alarms (st : StreamId) (y : BitVec 4) (s : State) : (synced st y s).alarms = s.alarms := by
  unfold synced; split
  · rfl
  · simp
@[simp] theorem synced_lastAlarm (st : StreamId) (y : BitVec 4) (s : State) : (synced st y s).lastAlarm = s.lastAlarm := by
  unfold synced; split
  · rfl
  · simp
@[simp] theorem synced_tamperNext (st : StreamId) (y : BitVec 4) (s : State) : (synced st y s).tamperNext = s.tamperNext := by
  unfold synced; split
  · rfl
  · simp
@[simp] theorem synced_cmap (st : StreamId) (y : BitVec 4) (s : State) : (synced st y s).cmap = s.cmap := by
  unfold synced; split
  · rfl
  · simp
@[simp] theorem synced_ret0 (st : StreamId) (y : BitVec 4) (s : State) : (synced st y s).ret0 = s.ret0 := by
  unfold synced; split
  · rfl
  · simp
@[simp] theorem synced_ret1 (st : StreamId) (y : BitVec 4) (s : State) : (synced st y s).ret1 = s.ret1 := by
  unfold synced; split
  · rfl
  · simp
@[simp] theorem synced_corr (st : StreamId) (y : BitVec 4) (s : State) : (synced st y s).corr = s.corr := by
  unfold synced; split
  · rfl
  · simp
@[simp] theorem synced_epoch (st : StreamId) (y : BitVec 4) (s : State) : (synced st y s).epoch = s.epoch := by
  unfold synced; split
  · rfl
  · simp
@[simp] theorem synced_failures (st : StreamId) (y : BitVec 4) (s : State) : (synced st y s).failures = s.failures := by
  unfold synced; split
  · rfl
  · simp
@[simp] theorem synced_retiring (st : StreamId) (y : BitVec 4) (s : State) : (synced st y s).retiring = s.retiring := by
  unfold synced; split
  · rfl
  · simp
@[simp] theorem synced_retired (st : StreamId) (y : BitVec 4) (s : State) : (synced st y s).retired = s.retired := by
  unfold synced; split
  · rfl
  · simp
@[simp] theorem synced_attesting (st : StreamId) (y : BitVec 4) (s : State) : (synced st y s).attesting = s.attesting := by
  unfold synced; split
  · rfl
  · simp
@[simp] theorem synced_parity (st : StreamId) (y : BitVec 4) (s : State) : (synced st y s).parity = s.parity := by
  unfold synced; split
  · rfl
  · simp
@[simp] theorem synced_core_num (st : StreamId) (y : BitVec 4) (s : State) : (synced st y s).core.num = s.core.num := by
  unfold synced; split
  · rfl
  · simp
@[simp] theorem synced_core_sregs (st : StreamId) (y : BitVec 4) (s : State) : (synced st y s).core.sregs = s.core.sregs := by
  unfold synced; split
  · rfl
  · simp
@[simp] theorem synced_core_aregs (st : StreamId) (y : BitVec 4) (s : State) : (synced st y s).core.aregs = s.core.aregs := by
  unfold synced; split
  · rfl
  · simp
@[simp] theorem synced_core_xregs (st : StreamId) (y : BitVec 4) (s : State) : (synced st y s).core.xregs = s.core.xregs := by
  unfold synced; split
  · rfl
  · simp
@[simp] theorem synced_core_v (st : StreamId) (y : BitVec 4) (s : State) : (synced st y s).core.v = s.core.v := by
  unfold synced; split
  · rfl
  · simp
@[simp] theorem synced_core_p (st : StreamId) (y : BitVec 4) (s : State) : (synced st y s).core.p = s.core.p := by
  unfold synced; split
  · rfl
  · simp
@[simp] theorem synced_core_flags (st : StreamId) (y : BitVec 4) (s : State) : (synced st y s).core.flags = s.core.flags := by
  unfold synced; split
  · rfl
  · simp
@[simp] theorem synced_core_bt (st : StreamId) (y : BitVec 4) (s : State) : (synced st y s).core.bt = s.core.bt := by
  unfold synced; split
  · rfl
  · simp
@[simp] theorem synced_core_tiles (st : StreamId) (y : BitVec 4) (s : State) : (synced st y s).core.tiles = s.core.tiles := by
  unfold synced; split
  · rfl
  · simp
@[simp] theorem synced_core_accs (st : StreamId) (y : BitVec 4) (s : State) : (synced st y s).core.accs = s.core.accs := by
  unfold synced; split
  · rfl
  · simp
@[simp] theorem synced_core_shapes (st : StreamId) (y : BitVec 4) (s : State) : (synced st y s).core.shapes = s.core.shapes := by
  unfold synced; split
  · rfl
  · simp
@[simp] theorem synced_core_imemC (st : StreamId) (y : BitVec 4) (s : State) : (synced st y s).core.imemC = s.core.imemC := by
  unfold synced; split
  · rfl
  · simp
@[simp] theorem synced_core_imemA (st : StreamId) (y : BitVec 4) (s : State) : (synced st y s).core.imemA = s.core.imemA := by
  unfold synced; split
  · rfl
  · simp
@[simp] theorem synced_core_imemX (st : StreamId) (y : BitVec 4) (s : State) : (synced st y s).core.imemX = s.core.imemX := by
  unfold synced; split
  · rfl
  · simp
@[simp] theorem synced_core_lq (st : StreamId) (y : BitVec 4) (s : State) : (synced st y s).core.lq = s.core.lq := by
  unfold synced; split
  · rfl
  · simp
@[simp] theorem synced_core_sq (st : StreamId) (y : BitVec 4) (s : State) : (synced st y s).core.sq = s.core.sq := by
  unfold synced; split
  · rfl
  · simp
@[simp] theorem synced_core_vq (st : StreamId) (y : BitVec 4) (s : State) : (synced st y s).core.vq = s.core.vq := by
  unfold synced; split
  · rfl
  · simp
@[simp] theorem synced_core_bqa (st : StreamId) (y : BitVec 4) (s : State) : (synced st y s).core.bqa = s.core.bqa := by
  unfold synced; split
  · rfl
  · simp
@[simp] theorem synced_core_bqx (st : StreamId) (y : BitVec 4) (s : State) : (synced st y s).core.bqx = s.core.bqx := by
  unfold synced; split
  · rfl
  · simp
@[simp] theorem synced_core_fq (st : StreamId) (y : BitVec 4) (s : State) : (synced st y s).core.fq = s.core.fq := by
  unfold synced; split
  · rfl
  · simp
@[simp] theorem synced_core_banks (st : StreamId) (y : BitVec 4) (s : State) : (synced st y s).core.banks = s.core.banks := by
  unfold synced; split
  · rfl
  · simp
@[simp] theorem synced_core_halted (st : StreamId) (y : BitVec 4) (s : State) : (synced st y s).core.halted = s.core.halted := by
  unfold synced; split
  · rfl
  · simp
@[simp] theorem synced_core_pending (st : StreamId) (y : BitVec 4) (s : State) : (synced st y s).core.pending = s.core.pending := by
  unfold synced; split
  · rfl
  · simp
@[simp] theorem synced_core_cyclesBase (st : StreamId) (y : BitVec 4) (s : State) : (synced st y s).core.cyclesBase = s.core.cyclesBase := by
  unfold synced; split
  · rfl
  · simp
@[simp] theorem synced_core_cyclesSince (st : StreamId) (y : BitVec 4) (s : State) : (synced st y s).core.cyclesSince = s.core.cyclesSince := by
  unfold synced; split
  · rfl
  · simp
@[simp] theorem synced_core_tbudget (st : StreamId) (y : BitVec 4) (s : State) : (synced st y s).core.tbudget = s.core.tbudget := by
  unfold synced; split
  · rfl
  · simp
@[simp] theorem synced_core_dmem (st : StreamId) (y : BitVec 4) (s : State) : (synced st y s).core.dmem = s.core.dmem := by
  unfold synced; split
  · rfl
  · simp
@[simp] theorem synced_core_tphase (st : StreamId) (y : BitVec 4) (s : State) : (synced st y s).core.tphase = s.core.tphase := by
  unfold synced; split
  · rfl
  · simp
@[simp] theorem synced_core_gphase (st : StreamId) (y : BitVec 4) (s : State) : (synced st y s).core.gphase = s.core.gphase := by
  unfold synced; split
  · rfl
  · simp
@[simp] theorem synced_core_gen (st : StreamId) (y : BitVec 4) (s : State) : (synced st y s).core.gen = s.core.gen := by
  unfold synced; split
  · rfl
  · simp
@[simp] theorem synced_core_lastrel (st : StreamId) (y : BitVec 4) (s : State) : (synced st y s).core.lastrel = s.core.lastrel := by
  unfold synced; split
  · rfl
  · simp
@[simp] theorem synced_core_lastacq (st : StreamId) (y : BitVec 4) (s : State) : (synced st y s).core.lastacq = s.core.lastacq := by
  unfold synced; split
  · rfl
  · simp
@[simp] theorem synced_core_unpublished (st : StreamId) (y : BitVec 4) (s : State) : (synced st y s).core.unpublished = s.core.unpublished := by
  unfold synced; split
  · rfl
  · simp
@[simp] theorem synced_core_mvthr (st : StreamId) (y : BitVec 4) (s : State) : (synced st y s).core.mvthr = s.core.mvthr := by
  unfold synced; split
  · rfl
  · simp
@[simp] theorem synced_core_mlate (st : StreamId) (y : BitVec 4) (s : State) : (synced st y s).core.mlate = s.core.mlate := by
  unfold synced; split
  · rfl
  · simp
@[simp] theorem synced_core_isat (st : StreamId) (y : BitVec 4) (s : State) : (synced st y s).core.isat = s.core.isat := by
  unfold synced; split
  · rfl
  · simp
@[simp] theorem synced_core_slipmax (st : StreamId) (y : BitVec 4) (s : State) : (synced st y s).core.slipmax = s.core.slipmax := by
  unfold synced; split
  · rfl
  · simp
@[simp] theorem synced_core_ldcnt (st : StreamId) (y : BitVec 4) (s : State) : (synced st y s).core.ldcnt = s.core.ldcnt := by
  unfold synced; split
  · rfl
  · simp
@[simp] theorem synced_core_wdc (st : StreamId) (y : BitVec 4) (s : State) : (synced st y s).core.wdc = s.core.wdc := by
  unfold synced; split
  · rfl
  · simp
@[simp] theorem synced_core_wda (st : StreamId) (y : BitVec 4) (s : State) : (synced st y s).core.wda = s.core.wda := by
  unfold synced; split
  · rfl
  · simp
@[simp] theorem synced_core_wdx (st : StreamId) (y : BitVec 4) (s : State) : (synced st y s).core.wdx = s.core.wdx := by
  unfold synced; split
  · rfl
  · simp
@[simp] theorem synced_core_sh (st : StreamId) (y : BitVec 4) (s : State) : (synced st y s).core.sh = s.core.sh := by
  unfold synced; split
  · rfl
  · simp
@[simp] theorem synced_core_tvec (st : StreamId) (y : BitVec 4) (s : State) : (synced st y s).core.tvec = s.core.tvec := by
  unfold synced; split
  · rfl
  · simp
@[simp] theorem synced_core_tscr0 (st : StreamId) (y : BitVec 4) (s : State) : (synced st y s).core.tscr0 = s.core.tscr0 := by
  unfold synced; split
  · rfl
  · simp
@[simp] theorem synced_core_tscr1 (st : StreamId) (y : BitVec 4) (s : State) : (synced st y s).core.tscr1 = s.core.tscr1 := by
  unfold synced; split
  · rfl
  · simp
@[simp] theorem synced_core_handles (st : StreamId) (y : BitVec 4) (s : State) : (synced st y s).core.handles = s.core.handles := by
  unfold synced; split
  · rfl
  · simp
@[simp] theorem synced_core_ltt (st : StreamId) (y : BitVec 4) (s : State) : (synced st y s).core.ltt = s.core.ltt := by
  unfold synced; split
  · rfl
  · simp
@[simp] theorem synced_core_reports (st : StreamId) (y : BitVec 4) (s : State) : (synced st y s).core.reports = s.core.reports := by
  unfold synced; split
  · rfl
  · simp
@[simp] theorem synced_core_latches (st : StreamId) (y : BitVec 4) (s : State) : (synced st y s).core.latches = s.core.latches := by
  unfold synced; split
  · rfl
  · simp
@[simp] theorem synced_core_matrix (st : StreamId) (y : BitVec 4) (s : State) : (synced st y s).core.matrix = s.core.matrix := by
  unfold synced; split
  · rfl
  · simp
@[simp] theorem synced_core_engineFree (st : StreamId) (y : BitVec 4) (s : State) : (synced st y s).core.engineFree = s.core.engineFree := by
  unfold synced; split
  · rfl
  · simp
@[simp] theorem synced_core_tape (st : StreamId) (y : BitVec 4) (s : State) : (synced st y s).core.tape = s.core.tape := by
  unfold synced; split
  · rfl
  · simp
@[simp] theorem synced_core_lastRead (st : StreamId) (y : BitVec 4) (s : State) : (synced st y s).core.lastRead = s.core.lastRead := by
  unfold synced; split
  · rfl
  · simp
@[simp] theorem synced_core_member (st : StreamId) (y : BitVec 4) (s : State) : (synced st y s).core.member = s.core.member := by
  unfold synced; split
  · rfl
  · simp
@[simp] theorem synced_core_softPending (st : StreamId) (y : BitVec 4) (s : State) : (synced st y s).core.softPending = s.core.softPending := by
  unfold synced; split
  · rfl
  · simp
@[simp] theorem synced_core_hardStop (st : StreamId) (y : BitVec 4) (s : State) : (synced st y s).core.hardStop = s.core.hardStop := by
  unfold synced; split
  · rfl
  · simp
@[simp] theorem synced_core_engineHeld (st : StreamId) (y : BitVec 4) (s : State) : (synced st y s).core.engineHeld = s.core.engineHeld := by
  unfold synced; split
  · rfl
  · simp

/-! ### blockOn -/

@[simp] theorem blockOn_others (st : StreamId) (s : State) (w : Wait) : (blockOn st s w).others = s.others := by
  unfold blockOn; simp
@[simp] theorem blockOn_agenda (st : StreamId) (s : State) (w : Wait) : (blockOn st s w).agenda = s.agenda := by
  unfold blockOn; simp
@[simp] theorem blockOn_rotor (st : StreamId) (s : State) (w : Wait) : (blockOn st s w).rotor = s.rotor := by
  unfold blockOn; simp
@[simp] theorem blockOn_now (st : StreamId) (s : State) (w : Wait) : (blockOn st s w).now = s.now := by
  unfold blockOn; simp
@[simp] theorem blockOn_fresh (st : StreamId) (s : State) (w : Wait) : (blockOn st s w).fresh = s.fresh := by
  unfold blockOn; simp
@[simp] theorem blockOn_nextId (st : StreamId) (s : State) (w : Wait) : (blockOn st s w).nextId = s.nextId := by
  unfold blockOn; simp
@[simp] theorem blockOn_mem (st : StreamId) (s : State) (w : Wait) : (blockOn st s w).mem = s.mem := by
  unfold blockOn; simp
@[simp] theorem blockOn_poison (st : StreamId) (s : State) (w : Wait) : (blockOn st s w).poison = s.poison := by
  unfold blockOn; simp
@[simp] theorem blockOn_marks (st : StreamId) (s : State) (w : Wait) : (blockOn st s w).marks = s.marks := by
  unfold blockOn; simp
@[simp] theorem blockOn_syncclk (st : StreamId) (s : State) (w : Wait) : (blockOn st s w).syncclk = s.syncclk := by
  unfold blockOn; simp
@[simp] theorem blockOn_flights (st : StreamId) (s : State) (w : Wait) : (blockOn st s w).flights = s.flights := by
  unfold blockOn; simp
@[simp] theorem blockOn_regions (st : StreamId) (s : State) (w : Wait) : (blockOn st s w).regions = s.regions := by
  unfold blockOn; simp
@[simp] theorem blockOn_entries (st : StreamId) (s : State) (w : Wait) : (blockOn st s w).entries = s.entries := by
  unfold blockOn; simp
@[simp] theorem blockOn_stamps (st : StreamId) (s : State) (w : Wait) : (blockOn st s w).stamps = s.stamps := by
  unfold blockOn; simp
@[simp] theorem blockOn_cache (st : StreamId) (s : State) (w : Wait) : (blockOn st s w).cache = s.cache := by
  unfold blockOn; simp
@[simp] theorem blockOn_writeback (st : StreamId) (s : State) (w : Wait) : (blockOn st s w).writeback = s.writeback := by
  unfold blockOn; simp
@[simp] theorem blockOn_watch (st : StreamId) (s : State) (w : Wait) : (blockOn st s w).watch = s.watch := by
  unfold blockOn; simp
@[simp] theorem blockOn_arrivals (st : StreamId) (s : State) (w : Wait) : (blockOn st s w).arrivals = s.arrivals := by
  unfold blockOn; simp
@[simp] theorem blockOn_migrations (st : StreamId) (s : State) (w : Wait) : (blockOn st s w).migrations = s.migrations := by
  unfold blockOn; simp
@[simp] theorem blockOn_echoes (st : StreamId) (s : State) (w : Wait) : (blockOn st s w).echoes = s.echoes := by
  unfold blockOn; simp
@[simp] theorem blockOn_claims (st : StreamId) (s : State) (w : Wait) : (blockOn st s w).claims = s.claims := by
  unfold blockOn; simp
@[simp] theorem blockOn_gathering (st : StreamId) (s : State) (w : Wait) : (blockOn st s w).gathering = s.gathering := by
  unfold blockOn; simp
@[simp] theorem blockOn_units (st : StreamId) (s : State) (w : Wait) : (blockOn st s w).units = s.units := by
  unfold blockOn; simp
@[simp] theorem blockOn_launches (st : StreamId) (s : State) (w : Wait) : (blockOn st s w).launches = s.launches := by
  unfold blockOn; simp
@[simp] theorem blockOn_preemption (st : StreamId) (s : State) (w : Wait) : (blockOn st s w).preemption = s.preemption := by
  unfold blockOn; simp
@[simp] theorem blockOn_transfers (st : StreamId) (s : State) (w : Wait) : (blockOn st s w).transfers = s.transfers := by
  unfold blockOn; simp
@[simp] theorem blockOn_crashes (st : StreamId) (s : State) (w : Wait) : (blockOn st s w).crashes = s.crashes := by
  unfold blockOn; simp
@[simp] theorem blockOn_lastTick (st : StreamId) (s : State) (w : Wait) : (blockOn st s w).lastTick = s.lastTick := by
  unfold blockOn; simp
@[simp] theorem blockOn_passDue (st : StreamId) (s : State) (w : Wait) : (blockOn st s w).passDue = s.passDue := by
  unfold blockOn; simp
@[simp] theorem blockOn_links (st : StreamId) (s : State) (w : Wait) : (blockOn st s w).links = s.links := by
  unfold blockOn; simp
@[simp] theorem blockOn_deadChips (st : StreamId) (s : State) (w : Wait) : (blockOn st s w).deadChips = s.deadChips := by
  unfold blockOn; simp
@[simp] theorem blockOn_groups (st : StreamId) (s : State) (w : Wait) : (blockOn st s w).groups = s.groups := by
  unfold blockOn; simp
@[simp] theorem blockOn_drops (st : StreamId) (s : State) (w : Wait) : (blockOn st s w).drops = s.drops := by
  unfold blockOn; simp
@[simp] theorem blockOn_tableSteps (st : StreamId) (s : State) (w : Wait) : (blockOn st s w).tableSteps = s.tableSteps := by
  unfold blockOn; simp
@[simp] theorem blockOn_inbox (st : StreamId) (s : State) (w : Wait) : (blockOn st s w).inbox = s.inbox := by
  unfold blockOn; simp
@[simp] theorem blockOn_hostIn (st : StreamId) (s : State) (w : Wait) : (blockOn st s w).hostIn = s.hostIn := by
  unfold blockOn; simp
@[simp] theorem blockOn_hostErrors (st : StreamId) (s : State) (w : Wait) : (blockOn st s w).hostErrors = s.hostErrors := by
  unfold blockOn; simp
@[simp] theorem blockOn_outputs (st : StreamId) (s : State) (w : Wait) : (blockOn st s w).outputs = s.outputs := by
  unfold blockOn; simp
@[simp] theorem blockOn_devid (st : StreamId) (s : State) (w : Wait) : (blockOn st s w).devid = s.devid := by
  unfold blockOn; simp
@[simp] theorem blockOn_phase (st : StreamId) (s : State) (w : Wait) : (blockOn st s w).phase = s.phase := by
  unfold blockOn; simp
@[simp] theorem blockOn_bootErr (st : StreamId) (s : State) (w : Wait) : (blockOn st s w).bootErr = s.bootErr := by
  unfold blockOn; simp
@[simp] theorem blockOn_idGone (st : StreamId) (s : State) (w : Wait) : (blockOn st s w).idGone = s.idGone := by
  unfold blockOn; simp
@[simp] theorem blockOn_alarms (st : StreamId) (s : State) (w : Wait) : (blockOn st s w).alarms = s.alarms := by
  unfold blockOn; simp
@[simp] theorem blockOn_lastAlarm (st : StreamId) (s : State) (w : Wait) : (blockOn st s w).lastAlarm = s.lastAlarm := by
  unfold blockOn; simp
@[simp] theorem blockOn_tamperNext (st : StreamId) (s : State) (w : Wait) : (blockOn st s w).tamperNext = s.tamperNext := by
  unfold blockOn; simp
@[simp] theorem blockOn_cmap (st : StreamId) (s : State) (w : Wait) : (blockOn st s w).cmap = s.cmap := by
  unfold blockOn; simp
@[simp] theorem blockOn_ret0 (st : StreamId) (s : State) (w : Wait) : (blockOn st s w).ret0 = s.ret0 := by
  unfold blockOn; simp
@[simp] theorem blockOn_ret1 (st : StreamId) (s : State) (w : Wait) : (blockOn st s w).ret1 = s.ret1 := by
  unfold blockOn; simp
@[simp] theorem blockOn_corr (st : StreamId) (s : State) (w : Wait) : (blockOn st s w).corr = s.corr := by
  unfold blockOn; simp
@[simp] theorem blockOn_epoch (st : StreamId) (s : State) (w : Wait) : (blockOn st s w).epoch = s.epoch := by
  unfold blockOn; simp
@[simp] theorem blockOn_failures (st : StreamId) (s : State) (w : Wait) : (blockOn st s w).failures = s.failures := by
  unfold blockOn; simp
@[simp] theorem blockOn_retiring (st : StreamId) (s : State) (w : Wait) : (blockOn st s w).retiring = s.retiring := by
  unfold blockOn; simp
@[simp] theorem blockOn_retired (st : StreamId) (s : State) (w : Wait) : (blockOn st s w).retired = s.retired := by
  unfold blockOn; simp
@[simp] theorem blockOn_attesting (st : StreamId) (s : State) (w : Wait) : (blockOn st s w).attesting = s.attesting := by
  unfold blockOn; simp
@[simp] theorem blockOn_parity (st : StreamId) (s : State) (w : Wait) : (blockOn st s w).parity = s.parity := by
  unfold blockOn; simp
@[simp] theorem blockOn_core_num (st : StreamId) (s : State) (w : Wait) : (blockOn st s w).core.num = s.core.num := by
  unfold blockOn; simp
@[simp] theorem blockOn_core_sregs (st : StreamId) (s : State) (w : Wait) : (blockOn st s w).core.sregs = s.core.sregs := by
  unfold blockOn; simp
@[simp] theorem blockOn_core_aregs (st : StreamId) (s : State) (w : Wait) : (blockOn st s w).core.aregs = s.core.aregs := by
  unfold blockOn; simp
@[simp] theorem blockOn_core_xregs (st : StreamId) (s : State) (w : Wait) : (blockOn st s w).core.xregs = s.core.xregs := by
  unfold blockOn; simp
@[simp] theorem blockOn_core_v (st : StreamId) (s : State) (w : Wait) : (blockOn st s w).core.v = s.core.v := by
  unfold blockOn; simp
@[simp] theorem blockOn_core_p (st : StreamId) (s : State) (w : Wait) : (blockOn st s w).core.p = s.core.p := by
  unfold blockOn; simp
@[simp] theorem blockOn_core_flags (st : StreamId) (s : State) (w : Wait) : (blockOn st s w).core.flags = s.core.flags := by
  unfold blockOn; simp
@[simp] theorem blockOn_core_bt (st : StreamId) (s : State) (w : Wait) : (blockOn st s w).core.bt = s.core.bt := by
  unfold blockOn; simp
@[simp] theorem blockOn_core_tiles (st : StreamId) (s : State) (w : Wait) : (blockOn st s w).core.tiles = s.core.tiles := by
  unfold blockOn; simp
@[simp] theorem blockOn_core_accs (st : StreamId) (s : State) (w : Wait) : (blockOn st s w).core.accs = s.core.accs := by
  unfold blockOn; simp
@[simp] theorem blockOn_core_shapes (st : StreamId) (s : State) (w : Wait) : (blockOn st s w).core.shapes = s.core.shapes := by
  unfold blockOn; simp
@[simp] theorem blockOn_core_imemC (st : StreamId) (s : State) (w : Wait) : (blockOn st s w).core.imemC = s.core.imemC := by
  unfold blockOn; simp
@[simp] theorem blockOn_core_imemA (st : StreamId) (s : State) (w : Wait) : (blockOn st s w).core.imemA = s.core.imemA := by
  unfold blockOn; simp
@[simp] theorem blockOn_core_imemX (st : StreamId) (s : State) (w : Wait) : (blockOn st s w).core.imemX = s.core.imemX := by
  unfold blockOn; simp
@[simp] theorem blockOn_core_lq (st : StreamId) (s : State) (w : Wait) : (blockOn st s w).core.lq = s.core.lq := by
  unfold blockOn; simp
@[simp] theorem blockOn_core_sq (st : StreamId) (s : State) (w : Wait) : (blockOn st s w).core.sq = s.core.sq := by
  unfold blockOn; simp
@[simp] theorem blockOn_core_vq (st : StreamId) (s : State) (w : Wait) : (blockOn st s w).core.vq = s.core.vq := by
  unfold blockOn; simp
@[simp] theorem blockOn_core_bqa (st : StreamId) (s : State) (w : Wait) : (blockOn st s w).core.bqa = s.core.bqa := by
  unfold blockOn; simp
@[simp] theorem blockOn_core_bqx (st : StreamId) (s : State) (w : Wait) : (blockOn st s w).core.bqx = s.core.bqx := by
  unfold blockOn; simp
@[simp] theorem blockOn_core_fq (st : StreamId) (s : State) (w : Wait) : (blockOn st s w).core.fq = s.core.fq := by
  unfold blockOn; simp
@[simp] theorem blockOn_core_tokens (st : StreamId) (s : State) (w : Wait) : (blockOn st s w).core.tokens = s.core.tokens := by
  unfold blockOn; simp
@[simp] theorem blockOn_core_banks (st : StreamId) (s : State) (w : Wait) : (blockOn st s w).core.banks = s.core.banks := by
  unfold blockOn; simp
@[simp] theorem blockOn_core_halted (st : StreamId) (s : State) (w : Wait) : (blockOn st s w).core.halted = s.core.halted := by
  unfold blockOn; simp
@[simp] theorem blockOn_core_pending (st : StreamId) (s : State) (w : Wait) : (blockOn st s w).core.pending = s.core.pending := by
  unfold blockOn; simp
@[simp] theorem blockOn_core_cyclesBase (st : StreamId) (s : State) (w : Wait) : (blockOn st s w).core.cyclesBase = s.core.cyclesBase := by
  unfold blockOn; simp
@[simp] theorem blockOn_core_cyclesSince (st : StreamId) (s : State) (w : Wait) : (blockOn st s w).core.cyclesSince = s.core.cyclesSince := by
  unfold blockOn; simp
@[simp] theorem blockOn_core_tbudget (st : StreamId) (s : State) (w : Wait) : (blockOn st s w).core.tbudget = s.core.tbudget := by
  unfold blockOn; simp
@[simp] theorem blockOn_core_dmem (st : StreamId) (s : State) (w : Wait) : (blockOn st s w).core.dmem = s.core.dmem := by
  unfold blockOn; simp
@[simp] theorem blockOn_core_tphase (st : StreamId) (s : State) (w : Wait) : (blockOn st s w).core.tphase = s.core.tphase := by
  unfold blockOn; simp
@[simp] theorem blockOn_core_gphase (st : StreamId) (s : State) (w : Wait) : (blockOn st s w).core.gphase = s.core.gphase := by
  unfold blockOn; simp
@[simp] theorem blockOn_core_gen (st : StreamId) (s : State) (w : Wait) : (blockOn st s w).core.gen = s.core.gen := by
  unfold blockOn; simp
@[simp] theorem blockOn_core_lastrel (st : StreamId) (s : State) (w : Wait) : (blockOn st s w).core.lastrel = s.core.lastrel := by
  unfold blockOn; simp
@[simp] theorem blockOn_core_lastacq (st : StreamId) (s : State) (w : Wait) : (blockOn st s w).core.lastacq = s.core.lastacq := by
  unfold blockOn; simp
@[simp] theorem blockOn_core_unpublished (st : StreamId) (s : State) (w : Wait) : (blockOn st s w).core.unpublished = s.core.unpublished := by
  unfold blockOn; simp
@[simp] theorem blockOn_core_mvthr (st : StreamId) (s : State) (w : Wait) : (blockOn st s w).core.mvthr = s.core.mvthr := by
  unfold blockOn; simp
@[simp] theorem blockOn_core_mlate (st : StreamId) (s : State) (w : Wait) : (blockOn st s w).core.mlate = s.core.mlate := by
  unfold blockOn; simp
@[simp] theorem blockOn_core_isat (st : StreamId) (s : State) (w : Wait) : (blockOn st s w).core.isat = s.core.isat := by
  unfold blockOn; simp
@[simp] theorem blockOn_core_slipmax (st : StreamId) (s : State) (w : Wait) : (blockOn st s w).core.slipmax = s.core.slipmax := by
  unfold blockOn; simp
@[simp] theorem blockOn_core_ldcnt (st : StreamId) (s : State) (w : Wait) : (blockOn st s w).core.ldcnt = s.core.ldcnt := by
  unfold blockOn; simp
@[simp] theorem blockOn_core_wdc (st : StreamId) (s : State) (w : Wait) : (blockOn st s w).core.wdc = s.core.wdc := by
  unfold blockOn; simp
@[simp] theorem blockOn_core_wda (st : StreamId) (s : State) (w : Wait) : (blockOn st s w).core.wda = s.core.wda := by
  unfold blockOn; simp
@[simp] theorem blockOn_core_wdx (st : StreamId) (s : State) (w : Wait) : (blockOn st s w).core.wdx = s.core.wdx := by
  unfold blockOn; simp
@[simp] theorem blockOn_core_sh (st : StreamId) (s : State) (w : Wait) : (blockOn st s w).core.sh = s.core.sh := by
  unfold blockOn; simp
@[simp] theorem blockOn_core_tvec (st : StreamId) (s : State) (w : Wait) : (blockOn st s w).core.tvec = s.core.tvec := by
  unfold blockOn; simp
@[simp] theorem blockOn_core_tscr0 (st : StreamId) (s : State) (w : Wait) : (blockOn st s w).core.tscr0 = s.core.tscr0 := by
  unfold blockOn; simp
@[simp] theorem blockOn_core_tscr1 (st : StreamId) (s : State) (w : Wait) : (blockOn st s w).core.tscr1 = s.core.tscr1 := by
  unfold blockOn; simp
@[simp] theorem blockOn_core_handles (st : StreamId) (s : State) (w : Wait) : (blockOn st s w).core.handles = s.core.handles := by
  unfold blockOn; simp
@[simp] theorem blockOn_core_ltt (st : StreamId) (s : State) (w : Wait) : (blockOn st s w).core.ltt = s.core.ltt := by
  unfold blockOn; simp
@[simp] theorem blockOn_core_reports (st : StreamId) (s : State) (w : Wait) : (blockOn st s w).core.reports = s.core.reports := by
  unfold blockOn; simp
@[simp] theorem blockOn_core_latches (st : StreamId) (s : State) (w : Wait) : (blockOn st s w).core.latches = s.core.latches := by
  unfold blockOn; simp
@[simp] theorem blockOn_core_matrix (st : StreamId) (s : State) (w : Wait) : (blockOn st s w).core.matrix = s.core.matrix := by
  unfold blockOn; simp
@[simp] theorem blockOn_core_engineFree (st : StreamId) (s : State) (w : Wait) : (blockOn st s w).core.engineFree = s.core.engineFree := by
  unfold blockOn; simp
@[simp] theorem blockOn_core_tape (st : StreamId) (s : State) (w : Wait) : (blockOn st s w).core.tape = s.core.tape := by
  unfold blockOn; simp
@[simp] theorem blockOn_core_lastRead (st : StreamId) (s : State) (w : Wait) : (blockOn st s w).core.lastRead = s.core.lastRead := by
  unfold blockOn; simp
@[simp] theorem blockOn_core_member (st : StreamId) (s : State) (w : Wait) : (blockOn st s w).core.member = s.core.member := by
  unfold blockOn; simp
@[simp] theorem blockOn_core_softPending (st : StreamId) (s : State) (w : Wait) : (blockOn st s w).core.softPending = s.core.softPending := by
  unfold blockOn; simp
@[simp] theorem blockOn_core_hardStop (st : StreamId) (s : State) (w : Wait) : (blockOn st s w).core.hardStop = s.core.hardStop := by
  unfold blockOn; simp
@[simp] theorem blockOn_core_engineHeld (st : StreamId) (s : State) (w : Wait) : (blockOn st s w).core.engineHeld = s.core.engineHeld := by
  unfold blockOn; simp

/-! ### moveTo -/

@[simp] theorem moveTo_others (st : StreamId) (y : BitVec 4) (s : State) (n : Word) (l : List LoopEntry) : (moveTo st y s n l).others = s.others := by
  unfold moveTo; dsimp only; split <;> simp
@[simp] theorem moveTo_agenda (st : StreamId) (y : BitVec 4) (s : State) (n : Word) (l : List LoopEntry) : (moveTo st y s n l).agenda = s.agenda := by
  unfold moveTo; dsimp only; split <;> simp
@[simp] theorem moveTo_rotor (st : StreamId) (y : BitVec 4) (s : State) (n : Word) (l : List LoopEntry) : (moveTo st y s n l).rotor = s.rotor := by
  unfold moveTo; dsimp only; split <;> simp
@[simp] theorem moveTo_now (st : StreamId) (y : BitVec 4) (s : State) (n : Word) (l : List LoopEntry) : (moveTo st y s n l).now = s.now := by
  unfold moveTo; dsimp only; split <;> simp
@[simp] theorem moveTo_fresh (st : StreamId) (y : BitVec 4) (s : State) (n : Word) (l : List LoopEntry) : (moveTo st y s n l).fresh = s.fresh := by
  unfold moveTo; dsimp only; split <;> simp
@[simp] theorem moveTo_nextId (st : StreamId) (y : BitVec 4) (s : State) (n : Word) (l : List LoopEntry) : (moveTo st y s n l).nextId = s.nextId := by
  unfold moveTo; dsimp only; split <;> simp
@[simp] theorem moveTo_mem (st : StreamId) (y : BitVec 4) (s : State) (n : Word) (l : List LoopEntry) : (moveTo st y s n l).mem = s.mem := by
  unfold moveTo; dsimp only; split <;> simp
@[simp] theorem moveTo_poison (st : StreamId) (y : BitVec 4) (s : State) (n : Word) (l : List LoopEntry) : (moveTo st y s n l).poison = s.poison := by
  unfold moveTo; dsimp only; split <;> simp
@[simp] theorem moveTo_marks (st : StreamId) (y : BitVec 4) (s : State) (n : Word) (l : List LoopEntry) : (moveTo st y s n l).marks = s.marks := by
  unfold moveTo; dsimp only; split <;> simp
@[simp] theorem moveTo_syncclk (st : StreamId) (y : BitVec 4) (s : State) (n : Word) (l : List LoopEntry) : (moveTo st y s n l).syncclk = s.syncclk := by
  unfold moveTo; dsimp only; split <;> simp
@[simp] theorem moveTo_flights (st : StreamId) (y : BitVec 4) (s : State) (n : Word) (l : List LoopEntry) : (moveTo st y s n l).flights = s.flights := by
  unfold moveTo; dsimp only; split <;> simp
@[simp] theorem moveTo_regions (st : StreamId) (y : BitVec 4) (s : State) (n : Word) (l : List LoopEntry) : (moveTo st y s n l).regions = s.regions := by
  unfold moveTo; dsimp only; split <;> simp
@[simp] theorem moveTo_entries (st : StreamId) (y : BitVec 4) (s : State) (n : Word) (l : List LoopEntry) : (moveTo st y s n l).entries = s.entries := by
  unfold moveTo; dsimp only; split <;> simp
@[simp] theorem moveTo_stamps (st : StreamId) (y : BitVec 4) (s : State) (n : Word) (l : List LoopEntry) : (moveTo st y s n l).stamps = s.stamps := by
  unfold moveTo; dsimp only; split <;> simp
@[simp] theorem moveTo_cache (st : StreamId) (y : BitVec 4) (s : State) (n : Word) (l : List LoopEntry) : (moveTo st y s n l).cache = s.cache := by
  unfold moveTo; dsimp only; split <;> simp
@[simp] theorem moveTo_writeback (st : StreamId) (y : BitVec 4) (s : State) (n : Word) (l : List LoopEntry) : (moveTo st y s n l).writeback = s.writeback := by
  unfold moveTo; dsimp only; split <;> simp
@[simp] theorem moveTo_watch (st : StreamId) (y : BitVec 4) (s : State) (n : Word) (l : List LoopEntry) : (moveTo st y s n l).watch = s.watch := by
  unfold moveTo; dsimp only; split <;> simp
@[simp] theorem moveTo_arrivals (st : StreamId) (y : BitVec 4) (s : State) (n : Word) (l : List LoopEntry) : (moveTo st y s n l).arrivals = s.arrivals := by
  unfold moveTo; dsimp only; split <;> simp
@[simp] theorem moveTo_migrations (st : StreamId) (y : BitVec 4) (s : State) (n : Word) (l : List LoopEntry) : (moveTo st y s n l).migrations = s.migrations := by
  unfold moveTo; dsimp only; split <;> simp
@[simp] theorem moveTo_echoes (st : StreamId) (y : BitVec 4) (s : State) (n : Word) (l : List LoopEntry) : (moveTo st y s n l).echoes = s.echoes := by
  unfold moveTo; dsimp only; split <;> simp
@[simp] theorem moveTo_claims (st : StreamId) (y : BitVec 4) (s : State) (n : Word) (l : List LoopEntry) : (moveTo st y s n l).claims = s.claims := by
  unfold moveTo; dsimp only; split <;> simp
@[simp] theorem moveTo_gathering (st : StreamId) (y : BitVec 4) (s : State) (n : Word) (l : List LoopEntry) : (moveTo st y s n l).gathering = s.gathering := by
  unfold moveTo; dsimp only; split <;> simp
@[simp] theorem moveTo_units (st : StreamId) (y : BitVec 4) (s : State) (n : Word) (l : List LoopEntry) : (moveTo st y s n l).units = s.units := by
  unfold moveTo; dsimp only; split <;> simp
@[simp] theorem moveTo_launches (st : StreamId) (y : BitVec 4) (s : State) (n : Word) (l : List LoopEntry) : (moveTo st y s n l).launches = s.launches := by
  unfold moveTo; dsimp only; split <;> simp
@[simp] theorem moveTo_preemption (st : StreamId) (y : BitVec 4) (s : State) (n : Word) (l : List LoopEntry) : (moveTo st y s n l).preemption = s.preemption := by
  unfold moveTo; dsimp only; split <;> simp
@[simp] theorem moveTo_transfers (st : StreamId) (y : BitVec 4) (s : State) (n : Word) (l : List LoopEntry) : (moveTo st y s n l).transfers = s.transfers := by
  unfold moveTo; dsimp only; split <;> simp
@[simp] theorem moveTo_crashes (st : StreamId) (y : BitVec 4) (s : State) (n : Word) (l : List LoopEntry) : (moveTo st y s n l).crashes = s.crashes := by
  unfold moveTo; dsimp only; split <;> simp
@[simp] theorem moveTo_lastTick (st : StreamId) (y : BitVec 4) (s : State) (n : Word) (l : List LoopEntry) : (moveTo st y s n l).lastTick = s.lastTick := by
  unfold moveTo; dsimp only; split <;> simp
@[simp] theorem moveTo_passDue (st : StreamId) (y : BitVec 4) (s : State) (n : Word) (l : List LoopEntry) : (moveTo st y s n l).passDue = s.passDue := by
  unfold moveTo; dsimp only; split <;> simp
@[simp] theorem moveTo_links (st : StreamId) (y : BitVec 4) (s : State) (n : Word) (l : List LoopEntry) : (moveTo st y s n l).links = s.links := by
  unfold moveTo; dsimp only; split <;> simp
@[simp] theorem moveTo_deadChips (st : StreamId) (y : BitVec 4) (s : State) (n : Word) (l : List LoopEntry) : (moveTo st y s n l).deadChips = s.deadChips := by
  unfold moveTo; dsimp only; split <;> simp
@[simp] theorem moveTo_groups (st : StreamId) (y : BitVec 4) (s : State) (n : Word) (l : List LoopEntry) : (moveTo st y s n l).groups = s.groups := by
  unfold moveTo; dsimp only; split <;> simp
@[simp] theorem moveTo_drops (st : StreamId) (y : BitVec 4) (s : State) (n : Word) (l : List LoopEntry) : (moveTo st y s n l).drops = s.drops := by
  unfold moveTo; dsimp only; split <;> simp
@[simp] theorem moveTo_tableSteps (st : StreamId) (y : BitVec 4) (s : State) (n : Word) (l : List LoopEntry) : (moveTo st y s n l).tableSteps = s.tableSteps := by
  unfold moveTo; dsimp only; split <;> simp
@[simp] theorem moveTo_inbox (st : StreamId) (y : BitVec 4) (s : State) (n : Word) (l : List LoopEntry) : (moveTo st y s n l).inbox = s.inbox := by
  unfold moveTo; dsimp only; split <;> simp
@[simp] theorem moveTo_hostIn (st : StreamId) (y : BitVec 4) (s : State) (n : Word) (l : List LoopEntry) : (moveTo st y s n l).hostIn = s.hostIn := by
  unfold moveTo; dsimp only; split <;> simp
@[simp] theorem moveTo_hostErrors (st : StreamId) (y : BitVec 4) (s : State) (n : Word) (l : List LoopEntry) : (moveTo st y s n l).hostErrors = s.hostErrors := by
  unfold moveTo; dsimp only; split <;> simp
@[simp] theorem moveTo_outputs (st : StreamId) (y : BitVec 4) (s : State) (n : Word) (l : List LoopEntry) : (moveTo st y s n l).outputs = s.outputs := by
  unfold moveTo; dsimp only; split <;> simp
@[simp] theorem moveTo_devid (st : StreamId) (y : BitVec 4) (s : State) (n : Word) (l : List LoopEntry) : (moveTo st y s n l).devid = s.devid := by
  unfold moveTo; dsimp only; split <;> simp
@[simp] theorem moveTo_phase (st : StreamId) (y : BitVec 4) (s : State) (n : Word) (l : List LoopEntry) : (moveTo st y s n l).phase = s.phase := by
  unfold moveTo; dsimp only; split <;> simp
@[simp] theorem moveTo_bootErr (st : StreamId) (y : BitVec 4) (s : State) (n : Word) (l : List LoopEntry) : (moveTo st y s n l).bootErr = s.bootErr := by
  unfold moveTo; dsimp only; split <;> simp
@[simp] theorem moveTo_idGone (st : StreamId) (y : BitVec 4) (s : State) (n : Word) (l : List LoopEntry) : (moveTo st y s n l).idGone = s.idGone := by
  unfold moveTo; dsimp only; split <;> simp
@[simp] theorem moveTo_alarms (st : StreamId) (y : BitVec 4) (s : State) (n : Word) (l : List LoopEntry) : (moveTo st y s n l).alarms = s.alarms := by
  unfold moveTo; dsimp only; split <;> simp
@[simp] theorem moveTo_lastAlarm (st : StreamId) (y : BitVec 4) (s : State) (n : Word) (l : List LoopEntry) : (moveTo st y s n l).lastAlarm = s.lastAlarm := by
  unfold moveTo; dsimp only; split <;> simp
@[simp] theorem moveTo_tamperNext (st : StreamId) (y : BitVec 4) (s : State) (n : Word) (l : List LoopEntry) : (moveTo st y s n l).tamperNext = s.tamperNext := by
  unfold moveTo; dsimp only; split <;> simp
@[simp] theorem moveTo_cmap (st : StreamId) (y : BitVec 4) (s : State) (n : Word) (l : List LoopEntry) : (moveTo st y s n l).cmap = s.cmap := by
  unfold moveTo; dsimp only; split <;> simp
@[simp] theorem moveTo_ret0 (st : StreamId) (y : BitVec 4) (s : State) (n : Word) (l : List LoopEntry) : (moveTo st y s n l).ret0 = s.ret0 := by
  unfold moveTo; dsimp only; split <;> simp
@[simp] theorem moveTo_ret1 (st : StreamId) (y : BitVec 4) (s : State) (n : Word) (l : List LoopEntry) : (moveTo st y s n l).ret1 = s.ret1 := by
  unfold moveTo; dsimp only; split <;> simp
@[simp] theorem moveTo_corr (st : StreamId) (y : BitVec 4) (s : State) (n : Word) (l : List LoopEntry) : (moveTo st y s n l).corr = s.corr := by
  unfold moveTo; dsimp only; split <;> simp
@[simp] theorem moveTo_epoch (st : StreamId) (y : BitVec 4) (s : State) (n : Word) (l : List LoopEntry) : (moveTo st y s n l).epoch = s.epoch := by
  unfold moveTo; dsimp only; split <;> simp
@[simp] theorem moveTo_failures (st : StreamId) (y : BitVec 4) (s : State) (n : Word) (l : List LoopEntry) : (moveTo st y s n l).failures = s.failures := by
  unfold moveTo; dsimp only; split <;> simp
@[simp] theorem moveTo_retiring (st : StreamId) (y : BitVec 4) (s : State) (n : Word) (l : List LoopEntry) : (moveTo st y s n l).retiring = s.retiring := by
  unfold moveTo; dsimp only; split <;> simp
@[simp] theorem moveTo_retired (st : StreamId) (y : BitVec 4) (s : State) (n : Word) (l : List LoopEntry) : (moveTo st y s n l).retired = s.retired := by
  unfold moveTo; dsimp only; split <;> simp
@[simp] theorem moveTo_attesting (st : StreamId) (y : BitVec 4) (s : State) (n : Word) (l : List LoopEntry) : (moveTo st y s n l).attesting = s.attesting := by
  unfold moveTo; dsimp only; split <;> simp
@[simp] theorem moveTo_parity (st : StreamId) (y : BitVec 4) (s : State) (n : Word) (l : List LoopEntry) : (moveTo st y s n l).parity = s.parity := by
  unfold moveTo; dsimp only; split <;> simp
@[simp] theorem moveTo_core_num (st : StreamId) (y : BitVec 4) (s : State) (n : Word) (l : List LoopEntry) : (moveTo st y s n l).core.num = s.core.num := by
  unfold moveTo; dsimp only; split <;> simp
@[simp] theorem moveTo_core_sregs (st : StreamId) (y : BitVec 4) (s : State) (n : Word) (l : List LoopEntry) : (moveTo st y s n l).core.sregs = s.core.sregs := by
  unfold moveTo; dsimp only; split <;> simp
@[simp] theorem moveTo_core_aregs (st : StreamId) (y : BitVec 4) (s : State) (n : Word) (l : List LoopEntry) : (moveTo st y s n l).core.aregs = s.core.aregs := by
  unfold moveTo; dsimp only; split <;> simp
@[simp] theorem moveTo_core_xregs (st : StreamId) (y : BitVec 4) (s : State) (n : Word) (l : List LoopEntry) : (moveTo st y s n l).core.xregs = s.core.xregs := by
  unfold moveTo; dsimp only; split <;> simp
@[simp] theorem moveTo_core_v (st : StreamId) (y : BitVec 4) (s : State) (n : Word) (l : List LoopEntry) : (moveTo st y s n l).core.v = s.core.v := by
  unfold moveTo; dsimp only; split <;> simp
@[simp] theorem moveTo_core_p (st : StreamId) (y : BitVec 4) (s : State) (n : Word) (l : List LoopEntry) : (moveTo st y s n l).core.p = s.core.p := by
  unfold moveTo; dsimp only; split <;> simp
@[simp] theorem moveTo_core_flags (st : StreamId) (y : BitVec 4) (s : State) (n : Word) (l : List LoopEntry) : (moveTo st y s n l).core.flags = s.core.flags := by
  unfold moveTo; dsimp only; split <;> simp
@[simp] theorem moveTo_core_bt (st : StreamId) (y : BitVec 4) (s : State) (n : Word) (l : List LoopEntry) : (moveTo st y s n l).core.bt = s.core.bt := by
  unfold moveTo; dsimp only; split <;> simp
@[simp] theorem moveTo_core_tiles (st : StreamId) (y : BitVec 4) (s : State) (n : Word) (l : List LoopEntry) : (moveTo st y s n l).core.tiles = s.core.tiles := by
  unfold moveTo; dsimp only; split <;> simp
@[simp] theorem moveTo_core_accs (st : StreamId) (y : BitVec 4) (s : State) (n : Word) (l : List LoopEntry) : (moveTo st y s n l).core.accs = s.core.accs := by
  unfold moveTo; dsimp only; split <;> simp
@[simp] theorem moveTo_core_shapes (st : StreamId) (y : BitVec 4) (s : State) (n : Word) (l : List LoopEntry) : (moveTo st y s n l).core.shapes = s.core.shapes := by
  unfold moveTo; dsimp only; split <;> simp
@[simp] theorem moveTo_core_imemC (st : StreamId) (y : BitVec 4) (s : State) (n : Word) (l : List LoopEntry) : (moveTo st y s n l).core.imemC = s.core.imemC := by
  unfold moveTo; dsimp only; split <;> simp
@[simp] theorem moveTo_core_imemA (st : StreamId) (y : BitVec 4) (s : State) (n : Word) (l : List LoopEntry) : (moveTo st y s n l).core.imemA = s.core.imemA := by
  unfold moveTo; dsimp only; split <;> simp
@[simp] theorem moveTo_core_imemX (st : StreamId) (y : BitVec 4) (s : State) (n : Word) (l : List LoopEntry) : (moveTo st y s n l).core.imemX = s.core.imemX := by
  unfold moveTo; dsimp only; split <;> simp
@[simp] theorem moveTo_core_lq (st : StreamId) (y : BitVec 4) (s : State) (n : Word) (l : List LoopEntry) : (moveTo st y s n l).core.lq = s.core.lq := by
  unfold moveTo; dsimp only; split <;> simp
@[simp] theorem moveTo_core_sq (st : StreamId) (y : BitVec 4) (s : State) (n : Word) (l : List LoopEntry) : (moveTo st y s n l).core.sq = s.core.sq := by
  unfold moveTo; dsimp only; split <;> simp
@[simp] theorem moveTo_core_vq (st : StreamId) (y : BitVec 4) (s : State) (n : Word) (l : List LoopEntry) : (moveTo st y s n l).core.vq = s.core.vq := by
  unfold moveTo; dsimp only; split <;> simp
@[simp] theorem moveTo_core_bqa (st : StreamId) (y : BitVec 4) (s : State) (n : Word) (l : List LoopEntry) : (moveTo st y s n l).core.bqa = s.core.bqa := by
  unfold moveTo; dsimp only; split <;> simp
@[simp] theorem moveTo_core_bqx (st : StreamId) (y : BitVec 4) (s : State) (n : Word) (l : List LoopEntry) : (moveTo st y s n l).core.bqx = s.core.bqx := by
  unfold moveTo; dsimp only; split <;> simp
@[simp] theorem moveTo_core_fq (st : StreamId) (y : BitVec 4) (s : State) (n : Word) (l : List LoopEntry) : (moveTo st y s n l).core.fq = s.core.fq := by
  unfold moveTo; dsimp only; split <;> simp
@[simp] theorem moveTo_core_banks (st : StreamId) (y : BitVec 4) (s : State) (n : Word) (l : List LoopEntry) : (moveTo st y s n l).core.banks = s.core.banks := by
  unfold moveTo; dsimp only; split <;> simp
@[simp] theorem moveTo_core_halted (st : StreamId) (y : BitVec 4) (s : State) (n : Word) (l : List LoopEntry) : (moveTo st y s n l).core.halted = s.core.halted := by
  unfold moveTo; dsimp only; split <;> simp
@[simp] theorem moveTo_core_pending (st : StreamId) (y : BitVec 4) (s : State) (n : Word) (l : List LoopEntry) : (moveTo st y s n l).core.pending = s.core.pending := by
  unfold moveTo; dsimp only; split <;> simp
@[simp] theorem moveTo_core_cyclesBase (st : StreamId) (y : BitVec 4) (s : State) (n : Word) (l : List LoopEntry) : (moveTo st y s n l).core.cyclesBase = s.core.cyclesBase := by
  unfold moveTo; dsimp only; split <;> simp
@[simp] theorem moveTo_core_cyclesSince (st : StreamId) (y : BitVec 4) (s : State) (n : Word) (l : List LoopEntry) : (moveTo st y s n l).core.cyclesSince = s.core.cyclesSince := by
  unfold moveTo; dsimp only; split <;> simp
@[simp] theorem moveTo_core_tbudget (st : StreamId) (y : BitVec 4) (s : State) (n : Word) (l : List LoopEntry) : (moveTo st y s n l).core.tbudget = s.core.tbudget := by
  unfold moveTo; dsimp only; split <;> simp
@[simp] theorem moveTo_core_dmem (st : StreamId) (y : BitVec 4) (s : State) (n : Word) (l : List LoopEntry) : (moveTo st y s n l).core.dmem = s.core.dmem := by
  unfold moveTo; dsimp only; split <;> simp
@[simp] theorem moveTo_core_tphase (st : StreamId) (y : BitVec 4) (s : State) (n : Word) (l : List LoopEntry) : (moveTo st y s n l).core.tphase = s.core.tphase := by
  unfold moveTo; dsimp only; split <;> simp
@[simp] theorem moveTo_core_gphase (st : StreamId) (y : BitVec 4) (s : State) (n : Word) (l : List LoopEntry) : (moveTo st y s n l).core.gphase = s.core.gphase := by
  unfold moveTo; dsimp only; split <;> simp
@[simp] theorem moveTo_core_gen (st : StreamId) (y : BitVec 4) (s : State) (n : Word) (l : List LoopEntry) : (moveTo st y s n l).core.gen = s.core.gen := by
  unfold moveTo; dsimp only; split <;> simp
@[simp] theorem moveTo_core_lastrel (st : StreamId) (y : BitVec 4) (s : State) (n : Word) (l : List LoopEntry) : (moveTo st y s n l).core.lastrel = s.core.lastrel := by
  unfold moveTo; dsimp only; split <;> simp
@[simp] theorem moveTo_core_lastacq (st : StreamId) (y : BitVec 4) (s : State) (n : Word) (l : List LoopEntry) : (moveTo st y s n l).core.lastacq = s.core.lastacq := by
  unfold moveTo; dsimp only; split <;> simp
@[simp] theorem moveTo_core_unpublished (st : StreamId) (y : BitVec 4) (s : State) (n : Word) (l : List LoopEntry) : (moveTo st y s n l).core.unpublished = s.core.unpublished := by
  unfold moveTo; dsimp only; split <;> simp
@[simp] theorem moveTo_core_mvthr (st : StreamId) (y : BitVec 4) (s : State) (n : Word) (l : List LoopEntry) : (moveTo st y s n l).core.mvthr = s.core.mvthr := by
  unfold moveTo; dsimp only; split <;> simp
@[simp] theorem moveTo_core_mlate (st : StreamId) (y : BitVec 4) (s : State) (n : Word) (l : List LoopEntry) : (moveTo st y s n l).core.mlate = s.core.mlate := by
  unfold moveTo; dsimp only; split <;> simp
@[simp] theorem moveTo_core_isat (st : StreamId) (y : BitVec 4) (s : State) (n : Word) (l : List LoopEntry) : (moveTo st y s n l).core.isat = s.core.isat := by
  unfold moveTo; dsimp only; split <;> simp
@[simp] theorem moveTo_core_slipmax (st : StreamId) (y : BitVec 4) (s : State) (n : Word) (l : List LoopEntry) : (moveTo st y s n l).core.slipmax = s.core.slipmax := by
  unfold moveTo; dsimp only; split <;> simp
@[simp] theorem moveTo_core_ldcnt (st : StreamId) (y : BitVec 4) (s : State) (n : Word) (l : List LoopEntry) : (moveTo st y s n l).core.ldcnt = s.core.ldcnt := by
  unfold moveTo; dsimp only; split <;> simp
@[simp] theorem moveTo_core_wdc (st : StreamId) (y : BitVec 4) (s : State) (n : Word) (l : List LoopEntry) : (moveTo st y s n l).core.wdc = s.core.wdc := by
  unfold moveTo; dsimp only; split <;> simp
@[simp] theorem moveTo_core_wda (st : StreamId) (y : BitVec 4) (s : State) (n : Word) (l : List LoopEntry) : (moveTo st y s n l).core.wda = s.core.wda := by
  unfold moveTo; dsimp only; split <;> simp
@[simp] theorem moveTo_core_wdx (st : StreamId) (y : BitVec 4) (s : State) (n : Word) (l : List LoopEntry) : (moveTo st y s n l).core.wdx = s.core.wdx := by
  unfold moveTo; dsimp only; split <;> simp
@[simp] theorem moveTo_core_sh (st : StreamId) (y : BitVec 4) (s : State) (n : Word) (l : List LoopEntry) : (moveTo st y s n l).core.sh = s.core.sh := by
  unfold moveTo; dsimp only; split <;> simp
@[simp] theorem moveTo_core_tvec (st : StreamId) (y : BitVec 4) (s : State) (n : Word) (l : List LoopEntry) : (moveTo st y s n l).core.tvec = s.core.tvec := by
  unfold moveTo; dsimp only; split <;> simp
@[simp] theorem moveTo_core_tscr0 (st : StreamId) (y : BitVec 4) (s : State) (n : Word) (l : List LoopEntry) : (moveTo st y s n l).core.tscr0 = s.core.tscr0 := by
  unfold moveTo; dsimp only; split <;> simp
@[simp] theorem moveTo_core_tscr1 (st : StreamId) (y : BitVec 4) (s : State) (n : Word) (l : List LoopEntry) : (moveTo st y s n l).core.tscr1 = s.core.tscr1 := by
  unfold moveTo; dsimp only; split <;> simp
@[simp] theorem moveTo_core_handles (st : StreamId) (y : BitVec 4) (s : State) (n : Word) (l : List LoopEntry) : (moveTo st y s n l).core.handles = s.core.handles := by
  unfold moveTo; dsimp only; split <;> simp
@[simp] theorem moveTo_core_ltt (st : StreamId) (y : BitVec 4) (s : State) (n : Word) (l : List LoopEntry) : (moveTo st y s n l).core.ltt = s.core.ltt := by
  unfold moveTo; dsimp only; split <;> simp
@[simp] theorem moveTo_core_reports (st : StreamId) (y : BitVec 4) (s : State) (n : Word) (l : List LoopEntry) : (moveTo st y s n l).core.reports = s.core.reports := by
  unfold moveTo; dsimp only; split <;> simp
@[simp] theorem moveTo_core_latches (st : StreamId) (y : BitVec 4) (s : State) (n : Word) (l : List LoopEntry) : (moveTo st y s n l).core.latches = s.core.latches := by
  unfold moveTo; dsimp only; split <;> simp
@[simp] theorem moveTo_core_matrix (st : StreamId) (y : BitVec 4) (s : State) (n : Word) (l : List LoopEntry) : (moveTo st y s n l).core.matrix = s.core.matrix := by
  unfold moveTo; dsimp only; split <;> simp
@[simp] theorem moveTo_core_engineFree (st : StreamId) (y : BitVec 4) (s : State) (n : Word) (l : List LoopEntry) : (moveTo st y s n l).core.engineFree = s.core.engineFree := by
  unfold moveTo; dsimp only; split <;> simp
@[simp] theorem moveTo_core_tape (st : StreamId) (y : BitVec 4) (s : State) (n : Word) (l : List LoopEntry) : (moveTo st y s n l).core.tape = s.core.tape := by
  unfold moveTo; dsimp only; split <;> simp
@[simp] theorem moveTo_core_lastRead (st : StreamId) (y : BitVec 4) (s : State) (n : Word) (l : List LoopEntry) : (moveTo st y s n l).core.lastRead = s.core.lastRead := by
  unfold moveTo; dsimp only; split <;> simp
@[simp] theorem moveTo_core_member (st : StreamId) (y : BitVec 4) (s : State) (n : Word) (l : List LoopEntry) : (moveTo st y s n l).core.member = s.core.member := by
  unfold moveTo; dsimp only; split <;> simp
@[simp] theorem moveTo_core_softPending (st : StreamId) (y : BitVec 4) (s : State) (n : Word) (l : List LoopEntry) : (moveTo st y s n l).core.softPending = s.core.softPending := by
  unfold moveTo; dsimp only; split <;> simp
@[simp] theorem moveTo_core_hardStop (st : StreamId) (y : BitVec 4) (s : State) (n : Word) (l : List LoopEntry) : (moveTo st y s n l).core.hardStop = s.core.hardStop := by
  unfold moveTo; dsimp only; split <;> simp
@[simp] theorem moveTo_core_engineHeld (st : StreamId) (y : BitVec 4) (s : State) (n : Word) (l : List LoopEntry) : (moveTo st y s n l).core.engineHeld = s.core.engineHeld := by
  unfold moveTo; dsimp only; split <;> simp

/-! ### retireAt -/

@[simp] theorem retireAt_others (st : StreamId) (y : BitVec 4) (s : State) : (retireAt st y s).others = s.others := by
  unfold retireAt; simp
@[simp] theorem retireAt_agenda (st : StreamId) (y : BitVec 4) (s : State) : (retireAt st y s).agenda = s.agenda := by
  unfold retireAt; simp
@[simp] theorem retireAt_rotor (st : StreamId) (y : BitVec 4) (s : State) : (retireAt st y s).rotor = s.rotor := by
  unfold retireAt; simp
@[simp] theorem retireAt_now (st : StreamId) (y : BitVec 4) (s : State) : (retireAt st y s).now = s.now := by
  unfold retireAt; simp
@[simp] theorem retireAt_fresh (st : StreamId) (y : BitVec 4) (s : State) : (retireAt st y s).fresh = s.fresh := by
  unfold retireAt; simp
@[simp] theorem retireAt_nextId (st : StreamId) (y : BitVec 4) (s : State) : (retireAt st y s).nextId = s.nextId := by
  unfold retireAt; simp
@[simp] theorem retireAt_mem (st : StreamId) (y : BitVec 4) (s : State) : (retireAt st y s).mem = s.mem := by
  unfold retireAt; simp
@[simp] theorem retireAt_poison (st : StreamId) (y : BitVec 4) (s : State) : (retireAt st y s).poison = s.poison := by
  unfold retireAt; simp
@[simp] theorem retireAt_marks (st : StreamId) (y : BitVec 4) (s : State) : (retireAt st y s).marks = s.marks := by
  unfold retireAt; simp
@[simp] theorem retireAt_syncclk (st : StreamId) (y : BitVec 4) (s : State) : (retireAt st y s).syncclk = s.syncclk := by
  unfold retireAt; simp
@[simp] theorem retireAt_flights (st : StreamId) (y : BitVec 4) (s : State) : (retireAt st y s).flights = s.flights := by
  unfold retireAt; simp
@[simp] theorem retireAt_regions (st : StreamId) (y : BitVec 4) (s : State) : (retireAt st y s).regions = s.regions := by
  unfold retireAt; simp
@[simp] theorem retireAt_entries (st : StreamId) (y : BitVec 4) (s : State) : (retireAt st y s).entries = s.entries := by
  unfold retireAt; simp
@[simp] theorem retireAt_stamps (st : StreamId) (y : BitVec 4) (s : State) : (retireAt st y s).stamps = s.stamps := by
  unfold retireAt; simp
@[simp] theorem retireAt_cache (st : StreamId) (y : BitVec 4) (s : State) : (retireAt st y s).cache = s.cache := by
  unfold retireAt; simp
@[simp] theorem retireAt_writeback (st : StreamId) (y : BitVec 4) (s : State) : (retireAt st y s).writeback = s.writeback := by
  unfold retireAt; simp
@[simp] theorem retireAt_watch (st : StreamId) (y : BitVec 4) (s : State) : (retireAt st y s).watch = s.watch := by
  unfold retireAt; simp
@[simp] theorem retireAt_arrivals (st : StreamId) (y : BitVec 4) (s : State) : (retireAt st y s).arrivals = s.arrivals := by
  unfold retireAt; simp
@[simp] theorem retireAt_migrations (st : StreamId) (y : BitVec 4) (s : State) : (retireAt st y s).migrations = s.migrations := by
  unfold retireAt; simp
@[simp] theorem retireAt_echoes (st : StreamId) (y : BitVec 4) (s : State) : (retireAt st y s).echoes = s.echoes := by
  unfold retireAt; simp
@[simp] theorem retireAt_claims (st : StreamId) (y : BitVec 4) (s : State) : (retireAt st y s).claims = s.claims := by
  unfold retireAt; simp
@[simp] theorem retireAt_gathering (st : StreamId) (y : BitVec 4) (s : State) : (retireAt st y s).gathering = s.gathering := by
  unfold retireAt; simp
@[simp] theorem retireAt_units (st : StreamId) (y : BitVec 4) (s : State) : (retireAt st y s).units = s.units := by
  unfold retireAt; simp
@[simp] theorem retireAt_launches (st : StreamId) (y : BitVec 4) (s : State) : (retireAt st y s).launches = s.launches := by
  unfold retireAt; simp
@[simp] theorem retireAt_preemption (st : StreamId) (y : BitVec 4) (s : State) : (retireAt st y s).preemption = s.preemption := by
  unfold retireAt; simp
@[simp] theorem retireAt_transfers (st : StreamId) (y : BitVec 4) (s : State) : (retireAt st y s).transfers = s.transfers := by
  unfold retireAt; simp
@[simp] theorem retireAt_crashes (st : StreamId) (y : BitVec 4) (s : State) : (retireAt st y s).crashes = s.crashes := by
  unfold retireAt; simp
@[simp] theorem retireAt_lastTick (st : StreamId) (y : BitVec 4) (s : State) : (retireAt st y s).lastTick = s.lastTick := by
  unfold retireAt; simp
@[simp] theorem retireAt_passDue (st : StreamId) (y : BitVec 4) (s : State) : (retireAt st y s).passDue = s.passDue := by
  unfold retireAt; simp
@[simp] theorem retireAt_links (st : StreamId) (y : BitVec 4) (s : State) : (retireAt st y s).links = s.links := by
  unfold retireAt; simp
@[simp] theorem retireAt_deadChips (st : StreamId) (y : BitVec 4) (s : State) : (retireAt st y s).deadChips = s.deadChips := by
  unfold retireAt; simp
@[simp] theorem retireAt_groups (st : StreamId) (y : BitVec 4) (s : State) : (retireAt st y s).groups = s.groups := by
  unfold retireAt; simp
@[simp] theorem retireAt_drops (st : StreamId) (y : BitVec 4) (s : State) : (retireAt st y s).drops = s.drops := by
  unfold retireAt; simp
@[simp] theorem retireAt_tableSteps (st : StreamId) (y : BitVec 4) (s : State) : (retireAt st y s).tableSteps = s.tableSteps := by
  unfold retireAt; simp
@[simp] theorem retireAt_inbox (st : StreamId) (y : BitVec 4) (s : State) : (retireAt st y s).inbox = s.inbox := by
  unfold retireAt; simp
@[simp] theorem retireAt_hostIn (st : StreamId) (y : BitVec 4) (s : State) : (retireAt st y s).hostIn = s.hostIn := by
  unfold retireAt; simp
@[simp] theorem retireAt_hostErrors (st : StreamId) (y : BitVec 4) (s : State) : (retireAt st y s).hostErrors = s.hostErrors := by
  unfold retireAt; simp
@[simp] theorem retireAt_outputs (st : StreamId) (y : BitVec 4) (s : State) : (retireAt st y s).outputs = s.outputs := by
  unfold retireAt; simp
@[simp] theorem retireAt_devid (st : StreamId) (y : BitVec 4) (s : State) : (retireAt st y s).devid = s.devid := by
  unfold retireAt; simp
@[simp] theorem retireAt_phase (st : StreamId) (y : BitVec 4) (s : State) : (retireAt st y s).phase = s.phase := by
  unfold retireAt; simp
@[simp] theorem retireAt_bootErr (st : StreamId) (y : BitVec 4) (s : State) : (retireAt st y s).bootErr = s.bootErr := by
  unfold retireAt; simp
@[simp] theorem retireAt_idGone (st : StreamId) (y : BitVec 4) (s : State) : (retireAt st y s).idGone = s.idGone := by
  unfold retireAt; simp
@[simp] theorem retireAt_alarms (st : StreamId) (y : BitVec 4) (s : State) : (retireAt st y s).alarms = s.alarms := by
  unfold retireAt; simp
@[simp] theorem retireAt_lastAlarm (st : StreamId) (y : BitVec 4) (s : State) : (retireAt st y s).lastAlarm = s.lastAlarm := by
  unfold retireAt; simp
@[simp] theorem retireAt_tamperNext (st : StreamId) (y : BitVec 4) (s : State) : (retireAt st y s).tamperNext = s.tamperNext := by
  unfold retireAt; simp
@[simp] theorem retireAt_cmap (st : StreamId) (y : BitVec 4) (s : State) : (retireAt st y s).cmap = s.cmap := by
  unfold retireAt; simp
@[simp] theorem retireAt_ret0 (st : StreamId) (y : BitVec 4) (s : State) : (retireAt st y s).ret0 = s.ret0 := by
  unfold retireAt; simp
@[simp] theorem retireAt_ret1 (st : StreamId) (y : BitVec 4) (s : State) : (retireAt st y s).ret1 = s.ret1 := by
  unfold retireAt; simp
@[simp] theorem retireAt_corr (st : StreamId) (y : BitVec 4) (s : State) : (retireAt st y s).corr = s.corr := by
  unfold retireAt; simp
@[simp] theorem retireAt_epoch (st : StreamId) (y : BitVec 4) (s : State) : (retireAt st y s).epoch = s.epoch := by
  unfold retireAt; simp
@[simp] theorem retireAt_failures (st : StreamId) (y : BitVec 4) (s : State) : (retireAt st y s).failures = s.failures := by
  unfold retireAt; simp
@[simp] theorem retireAt_retiring (st : StreamId) (y : BitVec 4) (s : State) : (retireAt st y s).retiring = s.retiring := by
  unfold retireAt; simp
@[simp] theorem retireAt_retired (st : StreamId) (y : BitVec 4) (s : State) : (retireAt st y s).retired = s.retired := by
  unfold retireAt; simp
@[simp] theorem retireAt_attesting (st : StreamId) (y : BitVec 4) (s : State) : (retireAt st y s).attesting = s.attesting := by
  unfold retireAt; simp
@[simp] theorem retireAt_parity (st : StreamId) (y : BitVec 4) (s : State) : (retireAt st y s).parity = s.parity := by
  unfold retireAt; simp
@[simp] theorem retireAt_core_num (st : StreamId) (y : BitVec 4) (s : State) : (retireAt st y s).core.num = s.core.num := by
  unfold retireAt; simp
@[simp] theorem retireAt_core_sregs (st : StreamId) (y : BitVec 4) (s : State) : (retireAt st y s).core.sregs = s.core.sregs := by
  unfold retireAt; simp
@[simp] theorem retireAt_core_aregs (st : StreamId) (y : BitVec 4) (s : State) : (retireAt st y s).core.aregs = s.core.aregs := by
  unfold retireAt; simp
@[simp] theorem retireAt_core_xregs (st : StreamId) (y : BitVec 4) (s : State) : (retireAt st y s).core.xregs = s.core.xregs := by
  unfold retireAt; simp
@[simp] theorem retireAt_core_v (st : StreamId) (y : BitVec 4) (s : State) : (retireAt st y s).core.v = s.core.v := by
  unfold retireAt; simp
@[simp] theorem retireAt_core_p (st : StreamId) (y : BitVec 4) (s : State) : (retireAt st y s).core.p = s.core.p := by
  unfold retireAt; simp
@[simp] theorem retireAt_core_flags (st : StreamId) (y : BitVec 4) (s : State) : (retireAt st y s).core.flags = s.core.flags := by
  unfold retireAt; simp
@[simp] theorem retireAt_core_bt (st : StreamId) (y : BitVec 4) (s : State) : (retireAt st y s).core.bt = s.core.bt := by
  unfold retireAt; simp
@[simp] theorem retireAt_core_tiles (st : StreamId) (y : BitVec 4) (s : State) : (retireAt st y s).core.tiles = s.core.tiles := by
  unfold retireAt; simp
@[simp] theorem retireAt_core_accs (st : StreamId) (y : BitVec 4) (s : State) : (retireAt st y s).core.accs = s.core.accs := by
  unfold retireAt; simp
@[simp] theorem retireAt_core_shapes (st : StreamId) (y : BitVec 4) (s : State) : (retireAt st y s).core.shapes = s.core.shapes := by
  unfold retireAt; simp
@[simp] theorem retireAt_core_imemC (st : StreamId) (y : BitVec 4) (s : State) : (retireAt st y s).core.imemC = s.core.imemC := by
  unfold retireAt; simp
@[simp] theorem retireAt_core_imemA (st : StreamId) (y : BitVec 4) (s : State) : (retireAt st y s).core.imemA = s.core.imemA := by
  unfold retireAt; simp
@[simp] theorem retireAt_core_imemX (st : StreamId) (y : BitVec 4) (s : State) : (retireAt st y s).core.imemX = s.core.imemX := by
  unfold retireAt; simp
@[simp] theorem retireAt_core_lq (st : StreamId) (y : BitVec 4) (s : State) : (retireAt st y s).core.lq = s.core.lq := by
  unfold retireAt; simp
@[simp] theorem retireAt_core_sq (st : StreamId) (y : BitVec 4) (s : State) : (retireAt st y s).core.sq = s.core.sq := by
  unfold retireAt; simp
@[simp] theorem retireAt_core_vq (st : StreamId) (y : BitVec 4) (s : State) : (retireAt st y s).core.vq = s.core.vq := by
  unfold retireAt; simp
@[simp] theorem retireAt_core_bqa (st : StreamId) (y : BitVec 4) (s : State) : (retireAt st y s).core.bqa = s.core.bqa := by
  unfold retireAt; simp
@[simp] theorem retireAt_core_bqx (st : StreamId) (y : BitVec 4) (s : State) : (retireAt st y s).core.bqx = s.core.bqx := by
  unfold retireAt; simp
@[simp] theorem retireAt_core_fq (st : StreamId) (y : BitVec 4) (s : State) : (retireAt st y s).core.fq = s.core.fq := by
  unfold retireAt; simp
@[simp] theorem retireAt_core_banks (st : StreamId) (y : BitVec 4) (s : State) : (retireAt st y s).core.banks = s.core.banks := by
  unfold retireAt; simp
@[simp] theorem retireAt_core_halted (st : StreamId) (y : BitVec 4) (s : State) : (retireAt st y s).core.halted = s.core.halted := by
  unfold retireAt; simp
@[simp] theorem retireAt_core_pending (st : StreamId) (y : BitVec 4) (s : State) : (retireAt st y s).core.pending = s.core.pending := by
  unfold retireAt; simp
@[simp] theorem retireAt_core_cyclesBase (st : StreamId) (y : BitVec 4) (s : State) : (retireAt st y s).core.cyclesBase = s.core.cyclesBase := by
  unfold retireAt; simp
@[simp] theorem retireAt_core_cyclesSince (st : StreamId) (y : BitVec 4) (s : State) : (retireAt st y s).core.cyclesSince = s.core.cyclesSince := by
  unfold retireAt; simp
@[simp] theorem retireAt_core_tbudget (st : StreamId) (y : BitVec 4) (s : State) : (retireAt st y s).core.tbudget = s.core.tbudget := by
  unfold retireAt; simp
@[simp] theorem retireAt_core_dmem (st : StreamId) (y : BitVec 4) (s : State) : (retireAt st y s).core.dmem = s.core.dmem := by
  unfold retireAt; simp
@[simp] theorem retireAt_core_tphase (st : StreamId) (y : BitVec 4) (s : State) : (retireAt st y s).core.tphase = s.core.tphase := by
  unfold retireAt; simp
@[simp] theorem retireAt_core_gphase (st : StreamId) (y : BitVec 4) (s : State) : (retireAt st y s).core.gphase = s.core.gphase := by
  unfold retireAt; simp
@[simp] theorem retireAt_core_gen (st : StreamId) (y : BitVec 4) (s : State) : (retireAt st y s).core.gen = s.core.gen := by
  unfold retireAt; simp
@[simp] theorem retireAt_core_lastrel (st : StreamId) (y : BitVec 4) (s : State) : (retireAt st y s).core.lastrel = s.core.lastrel := by
  unfold retireAt; simp
@[simp] theorem retireAt_core_lastacq (st : StreamId) (y : BitVec 4) (s : State) : (retireAt st y s).core.lastacq = s.core.lastacq := by
  unfold retireAt; simp
@[simp] theorem retireAt_core_unpublished (st : StreamId) (y : BitVec 4) (s : State) : (retireAt st y s).core.unpublished = s.core.unpublished := by
  unfold retireAt; simp
@[simp] theorem retireAt_core_mvthr (st : StreamId) (y : BitVec 4) (s : State) : (retireAt st y s).core.mvthr = s.core.mvthr := by
  unfold retireAt; simp
@[simp] theorem retireAt_core_mlate (st : StreamId) (y : BitVec 4) (s : State) : (retireAt st y s).core.mlate = s.core.mlate := by
  unfold retireAt; simp
@[simp] theorem retireAt_core_isat (st : StreamId) (y : BitVec 4) (s : State) : (retireAt st y s).core.isat = s.core.isat := by
  unfold retireAt; simp
@[simp] theorem retireAt_core_slipmax (st : StreamId) (y : BitVec 4) (s : State) : (retireAt st y s).core.slipmax = s.core.slipmax := by
  unfold retireAt; simp
@[simp] theorem retireAt_core_ldcnt (st : StreamId) (y : BitVec 4) (s : State) : (retireAt st y s).core.ldcnt = s.core.ldcnt := by
  unfold retireAt; simp
@[simp] theorem retireAt_core_wdc (st : StreamId) (y : BitVec 4) (s : State) : (retireAt st y s).core.wdc = s.core.wdc := by
  unfold retireAt; simp
@[simp] theorem retireAt_core_wda (st : StreamId) (y : BitVec 4) (s : State) : (retireAt st y s).core.wda = s.core.wda := by
  unfold retireAt; simp
@[simp] theorem retireAt_core_wdx (st : StreamId) (y : BitVec 4) (s : State) : (retireAt st y s).core.wdx = s.core.wdx := by
  unfold retireAt; simp
@[simp] theorem retireAt_core_sh (st : StreamId) (y : BitVec 4) (s : State) : (retireAt st y s).core.sh = s.core.sh := by
  unfold retireAt; simp
@[simp] theorem retireAt_core_tvec (st : StreamId) (y : BitVec 4) (s : State) : (retireAt st y s).core.tvec = s.core.tvec := by
  unfold retireAt; simp
@[simp] theorem retireAt_core_tscr0 (st : StreamId) (y : BitVec 4) (s : State) : (retireAt st y s).core.tscr0 = s.core.tscr0 := by
  unfold retireAt; simp
@[simp] theorem retireAt_core_tscr1 (st : StreamId) (y : BitVec 4) (s : State) : (retireAt st y s).core.tscr1 = s.core.tscr1 := by
  unfold retireAt; simp
@[simp] theorem retireAt_core_handles (st : StreamId) (y : BitVec 4) (s : State) : (retireAt st y s).core.handles = s.core.handles := by
  unfold retireAt; simp
@[simp] theorem retireAt_core_ltt (st : StreamId) (y : BitVec 4) (s : State) : (retireAt st y s).core.ltt = s.core.ltt := by
  unfold retireAt; simp
@[simp] theorem retireAt_core_reports (st : StreamId) (y : BitVec 4) (s : State) : (retireAt st y s).core.reports = s.core.reports := by
  unfold retireAt; simp
@[simp] theorem retireAt_core_latches (st : StreamId) (y : BitVec 4) (s : State) : (retireAt st y s).core.latches = s.core.latches := by
  unfold retireAt; simp
@[simp] theorem retireAt_core_matrix (st : StreamId) (y : BitVec 4) (s : State) : (retireAt st y s).core.matrix = s.core.matrix := by
  unfold retireAt; simp
@[simp] theorem retireAt_core_engineFree (st : StreamId) (y : BitVec 4) (s : State) : (retireAt st y s).core.engineFree = s.core.engineFree := by
  unfold retireAt; simp
@[simp] theorem retireAt_core_tape (st : StreamId) (y : BitVec 4) (s : State) : (retireAt st y s).core.tape = s.core.tape := by
  unfold retireAt; simp
@[simp] theorem retireAt_core_lastRead (st : StreamId) (y : BitVec 4) (s : State) : (retireAt st y s).core.lastRead = s.core.lastRead := by
  unfold retireAt; simp
@[simp] theorem retireAt_core_member (st : StreamId) (y : BitVec 4) (s : State) : (retireAt st y s).core.member = s.core.member := by
  unfold retireAt; simp
@[simp] theorem retireAt_core_softPending (st : StreamId) (y : BitVec 4) (s : State) : (retireAt st y s).core.softPending = s.core.softPending := by
  unfold retireAt; simp
@[simp] theorem retireAt_core_hardStop (st : StreamId) (y : BitVec 4) (s : State) : (retireAt st y s).core.hardStop = s.core.hardStop := by
  unfold retireAt; simp
@[simp] theorem retireAt_core_engineHeld (st : StreamId) (y : BitVec 4) (s : State) : (retireAt st y s).core.engineHeld = s.core.engineHeld := by
  unfold retireAt; simp

/-! ### raiseTrap -/

@[simp] theorem raiseTrap_others (st : StreamId) (s : State) (i : TrapInfo) : (raiseTrap st s i).others = s.others := by
  unfold raiseTrap; split <;> simp
@[simp] theorem raiseTrap_agenda (st : StreamId) (s : State) (i : TrapInfo) : (raiseTrap st s i).agenda = s.agenda := by
  unfold raiseTrap; split <;> simp
@[simp] theorem raiseTrap_rotor (st : StreamId) (s : State) (i : TrapInfo) : (raiseTrap st s i).rotor = s.rotor := by
  unfold raiseTrap; split <;> simp
@[simp] theorem raiseTrap_now (st : StreamId) (s : State) (i : TrapInfo) : (raiseTrap st s i).now = s.now := by
  unfold raiseTrap; split <;> simp
@[simp] theorem raiseTrap_fresh (st : StreamId) (s : State) (i : TrapInfo) : (raiseTrap st s i).fresh = s.fresh := by
  unfold raiseTrap; split <;> simp
@[simp] theorem raiseTrap_nextId (st : StreamId) (s : State) (i : TrapInfo) : (raiseTrap st s i).nextId = s.nextId := by
  unfold raiseTrap; split <;> simp
@[simp] theorem raiseTrap_mem (st : StreamId) (s : State) (i : TrapInfo) : (raiseTrap st s i).mem = s.mem := by
  unfold raiseTrap; split <;> simp
@[simp] theorem raiseTrap_poison (st : StreamId) (s : State) (i : TrapInfo) : (raiseTrap st s i).poison = s.poison := by
  unfold raiseTrap; split <;> simp
@[simp] theorem raiseTrap_marks (st : StreamId) (s : State) (i : TrapInfo) : (raiseTrap st s i).marks = s.marks := by
  unfold raiseTrap; split <;> simp
@[simp] theorem raiseTrap_syncclk (st : StreamId) (s : State) (i : TrapInfo) : (raiseTrap st s i).syncclk = s.syncclk := by
  unfold raiseTrap; split <;> simp
@[simp] theorem raiseTrap_flights (st : StreamId) (s : State) (i : TrapInfo) : (raiseTrap st s i).flights = s.flights := by
  unfold raiseTrap; split <;> simp
@[simp] theorem raiseTrap_regions (st : StreamId) (s : State) (i : TrapInfo) : (raiseTrap st s i).regions = s.regions := by
  unfold raiseTrap; split <;> simp
@[simp] theorem raiseTrap_entries (st : StreamId) (s : State) (i : TrapInfo) : (raiseTrap st s i).entries = s.entries := by
  unfold raiseTrap; split <;> simp
@[simp] theorem raiseTrap_stamps (st : StreamId) (s : State) (i : TrapInfo) : (raiseTrap st s i).stamps = s.stamps := by
  unfold raiseTrap; split <;> simp
@[simp] theorem raiseTrap_cache (st : StreamId) (s : State) (i : TrapInfo) : (raiseTrap st s i).cache = s.cache := by
  unfold raiseTrap; split <;> simp
@[simp] theorem raiseTrap_writeback (st : StreamId) (s : State) (i : TrapInfo) : (raiseTrap st s i).writeback = s.writeback := by
  unfold raiseTrap; split <;> simp
@[simp] theorem raiseTrap_watch (st : StreamId) (s : State) (i : TrapInfo) : (raiseTrap st s i).watch = s.watch := by
  unfold raiseTrap; split <;> simp
@[simp] theorem raiseTrap_arrivals (st : StreamId) (s : State) (i : TrapInfo) : (raiseTrap st s i).arrivals = s.arrivals := by
  unfold raiseTrap; split <;> simp
@[simp] theorem raiseTrap_migrations (st : StreamId) (s : State) (i : TrapInfo) : (raiseTrap st s i).migrations = s.migrations := by
  unfold raiseTrap; split <;> simp
@[simp] theorem raiseTrap_echoes (st : StreamId) (s : State) (i : TrapInfo) : (raiseTrap st s i).echoes = s.echoes := by
  unfold raiseTrap; split <;> simp
@[simp] theorem raiseTrap_claims (st : StreamId) (s : State) (i : TrapInfo) : (raiseTrap st s i).claims = s.claims := by
  unfold raiseTrap; split <;> simp
@[simp] theorem raiseTrap_gathering (st : StreamId) (s : State) (i : TrapInfo) : (raiseTrap st s i).gathering = s.gathering := by
  unfold raiseTrap; split <;> simp
@[simp] theorem raiseTrap_units (st : StreamId) (s : State) (i : TrapInfo) : (raiseTrap st s i).units = s.units := by
  unfold raiseTrap; split <;> simp
@[simp] theorem raiseTrap_launches (st : StreamId) (s : State) (i : TrapInfo) : (raiseTrap st s i).launches = s.launches := by
  unfold raiseTrap; split <;> simp
@[simp] theorem raiseTrap_preemption (st : StreamId) (s : State) (i : TrapInfo) : (raiseTrap st s i).preemption = s.preemption := by
  unfold raiseTrap; split <;> simp
@[simp] theorem raiseTrap_transfers (st : StreamId) (s : State) (i : TrapInfo) : (raiseTrap st s i).transfers = s.transfers := by
  unfold raiseTrap; split <;> simp
@[simp] theorem raiseTrap_crashes (st : StreamId) (s : State) (i : TrapInfo) : (raiseTrap st s i).crashes = s.crashes := by
  unfold raiseTrap; split <;> simp
@[simp] theorem raiseTrap_lastTick (st : StreamId) (s : State) (i : TrapInfo) : (raiseTrap st s i).lastTick = s.lastTick := by
  unfold raiseTrap; split <;> simp
@[simp] theorem raiseTrap_passDue (st : StreamId) (s : State) (i : TrapInfo) : (raiseTrap st s i).passDue = s.passDue := by
  unfold raiseTrap; split <;> simp
@[simp] theorem raiseTrap_links (st : StreamId) (s : State) (i : TrapInfo) : (raiseTrap st s i).links = s.links := by
  unfold raiseTrap; split <;> simp
@[simp] theorem raiseTrap_deadChips (st : StreamId) (s : State) (i : TrapInfo) : (raiseTrap st s i).deadChips = s.deadChips := by
  unfold raiseTrap; split <;> simp
@[simp] theorem raiseTrap_groups (st : StreamId) (s : State) (i : TrapInfo) : (raiseTrap st s i).groups = s.groups := by
  unfold raiseTrap; split <;> simp
@[simp] theorem raiseTrap_drops (st : StreamId) (s : State) (i : TrapInfo) : (raiseTrap st s i).drops = s.drops := by
  unfold raiseTrap; split <;> simp
@[simp] theorem raiseTrap_tableSteps (st : StreamId) (s : State) (i : TrapInfo) : (raiseTrap st s i).tableSteps = s.tableSteps := by
  unfold raiseTrap; split <;> simp
@[simp] theorem raiseTrap_inbox (st : StreamId) (s : State) (i : TrapInfo) : (raiseTrap st s i).inbox = s.inbox := by
  unfold raiseTrap; split <;> simp
@[simp] theorem raiseTrap_hostIn (st : StreamId) (s : State) (i : TrapInfo) : (raiseTrap st s i).hostIn = s.hostIn := by
  unfold raiseTrap; split <;> simp
@[simp] theorem raiseTrap_hostErrors (st : StreamId) (s : State) (i : TrapInfo) : (raiseTrap st s i).hostErrors = s.hostErrors := by
  unfold raiseTrap; split <;> simp
@[simp] theorem raiseTrap_outputs (st : StreamId) (s : State) (i : TrapInfo) : (raiseTrap st s i).outputs = s.outputs := by
  unfold raiseTrap; split <;> simp
@[simp] theorem raiseTrap_devid (st : StreamId) (s : State) (i : TrapInfo) : (raiseTrap st s i).devid = s.devid := by
  unfold raiseTrap; split <;> simp
@[simp] theorem raiseTrap_phase (st : StreamId) (s : State) (i : TrapInfo) : (raiseTrap st s i).phase = s.phase := by
  unfold raiseTrap; split <;> simp
@[simp] theorem raiseTrap_bootErr (st : StreamId) (s : State) (i : TrapInfo) : (raiseTrap st s i).bootErr = s.bootErr := by
  unfold raiseTrap; split <;> simp
@[simp] theorem raiseTrap_idGone (st : StreamId) (s : State) (i : TrapInfo) : (raiseTrap st s i).idGone = s.idGone := by
  unfold raiseTrap; split <;> simp
@[simp] theorem raiseTrap_alarms (st : StreamId) (s : State) (i : TrapInfo) : (raiseTrap st s i).alarms = s.alarms := by
  unfold raiseTrap; split <;> simp
@[simp] theorem raiseTrap_lastAlarm (st : StreamId) (s : State) (i : TrapInfo) : (raiseTrap st s i).lastAlarm = s.lastAlarm := by
  unfold raiseTrap; split <;> simp
@[simp] theorem raiseTrap_tamperNext (st : StreamId) (s : State) (i : TrapInfo) : (raiseTrap st s i).tamperNext = s.tamperNext := by
  unfold raiseTrap; split <;> simp
@[simp] theorem raiseTrap_cmap (st : StreamId) (s : State) (i : TrapInfo) : (raiseTrap st s i).cmap = s.cmap := by
  unfold raiseTrap; split <;> simp
@[simp] theorem raiseTrap_ret0 (st : StreamId) (s : State) (i : TrapInfo) : (raiseTrap st s i).ret0 = s.ret0 := by
  unfold raiseTrap; split <;> simp
@[simp] theorem raiseTrap_ret1 (st : StreamId) (s : State) (i : TrapInfo) : (raiseTrap st s i).ret1 = s.ret1 := by
  unfold raiseTrap; split <;> simp
@[simp] theorem raiseTrap_corr (st : StreamId) (s : State) (i : TrapInfo) : (raiseTrap st s i).corr = s.corr := by
  unfold raiseTrap; split <;> simp
@[simp] theorem raiseTrap_epoch (st : StreamId) (s : State) (i : TrapInfo) : (raiseTrap st s i).epoch = s.epoch := by
  unfold raiseTrap; split <;> simp
@[simp] theorem raiseTrap_failures (st : StreamId) (s : State) (i : TrapInfo) : (raiseTrap st s i).failures = s.failures := by
  unfold raiseTrap; split <;> simp
@[simp] theorem raiseTrap_retiring (st : StreamId) (s : State) (i : TrapInfo) : (raiseTrap st s i).retiring = s.retiring := by
  unfold raiseTrap; split <;> simp
@[simp] theorem raiseTrap_retired (st : StreamId) (s : State) (i : TrapInfo) : (raiseTrap st s i).retired = s.retired := by
  unfold raiseTrap; split <;> simp
@[simp] theorem raiseTrap_attesting (st : StreamId) (s : State) (i : TrapInfo) : (raiseTrap st s i).attesting = s.attesting := by
  unfold raiseTrap; split <;> simp
@[simp] theorem raiseTrap_parity (st : StreamId) (s : State) (i : TrapInfo) : (raiseTrap st s i).parity = s.parity := by
  unfold raiseTrap; split <;> simp
@[simp] theorem raiseTrap_core_num (st : StreamId) (s : State) (i : TrapInfo) : (raiseTrap st s i).core.num = s.core.num := by
  unfold raiseTrap; split <;> simp
@[simp] theorem raiseTrap_core_sregs (st : StreamId) (s : State) (i : TrapInfo) : (raiseTrap st s i).core.sregs = s.core.sregs := by
  unfold raiseTrap; split <;> simp
@[simp] theorem raiseTrap_core_aregs (st : StreamId) (s : State) (i : TrapInfo) : (raiseTrap st s i).core.aregs = s.core.aregs := by
  unfold raiseTrap; split <;> simp
@[simp] theorem raiseTrap_core_xregs (st : StreamId) (s : State) (i : TrapInfo) : (raiseTrap st s i).core.xregs = s.core.xregs := by
  unfold raiseTrap; split <;> simp
@[simp] theorem raiseTrap_core_v (st : StreamId) (s : State) (i : TrapInfo) : (raiseTrap st s i).core.v = s.core.v := by
  unfold raiseTrap; split <;> simp
@[simp] theorem raiseTrap_core_p (st : StreamId) (s : State) (i : TrapInfo) : (raiseTrap st s i).core.p = s.core.p := by
  unfold raiseTrap; split <;> simp
@[simp] theorem raiseTrap_core_flags (st : StreamId) (s : State) (i : TrapInfo) : (raiseTrap st s i).core.flags = s.core.flags := by
  unfold raiseTrap; split <;> simp
@[simp] theorem raiseTrap_core_bt (st : StreamId) (s : State) (i : TrapInfo) : (raiseTrap st s i).core.bt = s.core.bt := by
  unfold raiseTrap; split <;> simp
@[simp] theorem raiseTrap_core_tiles (st : StreamId) (s : State) (i : TrapInfo) : (raiseTrap st s i).core.tiles = s.core.tiles := by
  unfold raiseTrap; split <;> simp
@[simp] theorem raiseTrap_core_accs (st : StreamId) (s : State) (i : TrapInfo) : (raiseTrap st s i).core.accs = s.core.accs := by
  unfold raiseTrap; split <;> simp
@[simp] theorem raiseTrap_core_shapes (st : StreamId) (s : State) (i : TrapInfo) : (raiseTrap st s i).core.shapes = s.core.shapes := by
  unfold raiseTrap; split <;> simp
@[simp] theorem raiseTrap_core_imemC (st : StreamId) (s : State) (i : TrapInfo) : (raiseTrap st s i).core.imemC = s.core.imemC := by
  unfold raiseTrap; split <;> simp
@[simp] theorem raiseTrap_core_imemA (st : StreamId) (s : State) (i : TrapInfo) : (raiseTrap st s i).core.imemA = s.core.imemA := by
  unfold raiseTrap; split <;> simp
@[simp] theorem raiseTrap_core_imemX (st : StreamId) (s : State) (i : TrapInfo) : (raiseTrap st s i).core.imemX = s.core.imemX := by
  unfold raiseTrap; split <;> simp
@[simp] theorem raiseTrap_core_lq (st : StreamId) (s : State) (i : TrapInfo) : (raiseTrap st s i).core.lq = s.core.lq := by
  unfold raiseTrap; split <;> simp
@[simp] theorem raiseTrap_core_sq (st : StreamId) (s : State) (i : TrapInfo) : (raiseTrap st s i).core.sq = s.core.sq := by
  unfold raiseTrap; split <;> simp
@[simp] theorem raiseTrap_core_vq (st : StreamId) (s : State) (i : TrapInfo) : (raiseTrap st s i).core.vq = s.core.vq := by
  unfold raiseTrap; split <;> simp
@[simp] theorem raiseTrap_core_bqa (st : StreamId) (s : State) (i : TrapInfo) : (raiseTrap st s i).core.bqa = s.core.bqa := by
  unfold raiseTrap; split <;> simp
@[simp] theorem raiseTrap_core_bqx (st : StreamId) (s : State) (i : TrapInfo) : (raiseTrap st s i).core.bqx = s.core.bqx := by
  unfold raiseTrap; split <;> simp
@[simp] theorem raiseTrap_core_fq (st : StreamId) (s : State) (i : TrapInfo) : (raiseTrap st s i).core.fq = s.core.fq := by
  unfold raiseTrap; split <;> simp
@[simp] theorem raiseTrap_core_tokens (st : StreamId) (s : State) (i : TrapInfo) : (raiseTrap st s i).core.tokens = s.core.tokens := by
  unfold raiseTrap; split <;> simp
@[simp] theorem raiseTrap_core_banks (st : StreamId) (s : State) (i : TrapInfo) : (raiseTrap st s i).core.banks = s.core.banks := by
  unfold raiseTrap; split <;> simp
@[simp] theorem raiseTrap_core_halted (st : StreamId) (s : State) (i : TrapInfo) : (raiseTrap st s i).core.halted = s.core.halted := by
  unfold raiseTrap; split <;> simp
@[simp] theorem raiseTrap_core_cyclesBase (st : StreamId) (s : State) (i : TrapInfo) : (raiseTrap st s i).core.cyclesBase = s.core.cyclesBase := by
  unfold raiseTrap; split <;> simp
@[simp] theorem raiseTrap_core_cyclesSince (st : StreamId) (s : State) (i : TrapInfo) : (raiseTrap st s i).core.cyclesSince = s.core.cyclesSince := by
  unfold raiseTrap; split <;> simp
@[simp] theorem raiseTrap_core_tbudget (st : StreamId) (s : State) (i : TrapInfo) : (raiseTrap st s i).core.tbudget = s.core.tbudget := by
  unfold raiseTrap; split <;> simp
@[simp] theorem raiseTrap_core_dmem (st : StreamId) (s : State) (i : TrapInfo) : (raiseTrap st s i).core.dmem = s.core.dmem := by
  unfold raiseTrap; split <;> simp
@[simp] theorem raiseTrap_core_tphase (st : StreamId) (s : State) (i : TrapInfo) : (raiseTrap st s i).core.tphase = s.core.tphase := by
  unfold raiseTrap; split <;> simp
@[simp] theorem raiseTrap_core_gphase (st : StreamId) (s : State) (i : TrapInfo) : (raiseTrap st s i).core.gphase = s.core.gphase := by
  unfold raiseTrap; split <;> simp
@[simp] theorem raiseTrap_core_gen (st : StreamId) (s : State) (i : TrapInfo) : (raiseTrap st s i).core.gen = s.core.gen := by
  unfold raiseTrap; split <;> simp
@[simp] theorem raiseTrap_core_lastrel (st : StreamId) (s : State) (i : TrapInfo) : (raiseTrap st s i).core.lastrel = s.core.lastrel := by
  unfold raiseTrap; split <;> simp
@[simp] theorem raiseTrap_core_lastacq (st : StreamId) (s : State) (i : TrapInfo) : (raiseTrap st s i).core.lastacq = s.core.lastacq := by
  unfold raiseTrap; split <;> simp
@[simp] theorem raiseTrap_core_unpublished (st : StreamId) (s : State) (i : TrapInfo) : (raiseTrap st s i).core.unpublished = s.core.unpublished := by
  unfold raiseTrap; split <;> simp
@[simp] theorem raiseTrap_core_mvthr (st : StreamId) (s : State) (i : TrapInfo) : (raiseTrap st s i).core.mvthr = s.core.mvthr := by
  unfold raiseTrap; split <;> simp
@[simp] theorem raiseTrap_core_mlate (st : StreamId) (s : State) (i : TrapInfo) : (raiseTrap st s i).core.mlate = s.core.mlate := by
  unfold raiseTrap; split <;> simp
@[simp] theorem raiseTrap_core_isat (st : StreamId) (s : State) (i : TrapInfo) : (raiseTrap st s i).core.isat = s.core.isat := by
  unfold raiseTrap; split <;> simp
@[simp] theorem raiseTrap_core_slipmax (st : StreamId) (s : State) (i : TrapInfo) : (raiseTrap st s i).core.slipmax = s.core.slipmax := by
  unfold raiseTrap; split <;> simp
@[simp] theorem raiseTrap_core_ldcnt (st : StreamId) (s : State) (i : TrapInfo) : (raiseTrap st s i).core.ldcnt = s.core.ldcnt := by
  unfold raiseTrap; split <;> simp
@[simp] theorem raiseTrap_core_wdc (st : StreamId) (s : State) (i : TrapInfo) : (raiseTrap st s i).core.wdc = s.core.wdc := by
  unfold raiseTrap; split <;> simp
@[simp] theorem raiseTrap_core_wda (st : StreamId) (s : State) (i : TrapInfo) : (raiseTrap st s i).core.wda = s.core.wda := by
  unfold raiseTrap; split <;> simp
@[simp] theorem raiseTrap_core_wdx (st : StreamId) (s : State) (i : TrapInfo) : (raiseTrap st s i).core.wdx = s.core.wdx := by
  unfold raiseTrap; split <;> simp
@[simp] theorem raiseTrap_core_sh (st : StreamId) (s : State) (i : TrapInfo) : (raiseTrap st s i).core.sh = s.core.sh := by
  unfold raiseTrap; split <;> simp
@[simp] theorem raiseTrap_core_tvec (st : StreamId) (s : State) (i : TrapInfo) : (raiseTrap st s i).core.tvec = s.core.tvec := by
  unfold raiseTrap; split <;> simp
@[simp] theorem raiseTrap_core_tscr0 (st : StreamId) (s : State) (i : TrapInfo) : (raiseTrap st s i).core.tscr0 = s.core.tscr0 := by
  unfold raiseTrap; split <;> simp
@[simp] theorem raiseTrap_core_tscr1 (st : StreamId) (s : State) (i : TrapInfo) : (raiseTrap st s i).core.tscr1 = s.core.tscr1 := by
  unfold raiseTrap; split <;> simp
@[simp] theorem raiseTrap_core_handles (st : StreamId) (s : State) (i : TrapInfo) : (raiseTrap st s i).core.handles = s.core.handles := by
  unfold raiseTrap; split <;> simp
@[simp] theorem raiseTrap_core_ltt (st : StreamId) (s : State) (i : TrapInfo) : (raiseTrap st s i).core.ltt = s.core.ltt := by
  unfold raiseTrap; split <;> simp
@[simp] theorem raiseTrap_core_reports (st : StreamId) (s : State) (i : TrapInfo) : (raiseTrap st s i).core.reports = s.core.reports := by
  unfold raiseTrap; split <;> simp
@[simp] theorem raiseTrap_core_latches (st : StreamId) (s : State) (i : TrapInfo) : (raiseTrap st s i).core.latches = s.core.latches := by
  unfold raiseTrap; split <;> simp
@[simp] theorem raiseTrap_core_matrix (st : StreamId) (s : State) (i : TrapInfo) : (raiseTrap st s i).core.matrix = s.core.matrix := by
  unfold raiseTrap; split <;> simp
@[simp] theorem raiseTrap_core_engineFree (st : StreamId) (s : State) (i : TrapInfo) : (raiseTrap st s i).core.engineFree = s.core.engineFree := by
  unfold raiseTrap; split <;> simp
@[simp] theorem raiseTrap_core_tape (st : StreamId) (s : State) (i : TrapInfo) : (raiseTrap st s i).core.tape = s.core.tape := by
  unfold raiseTrap; split <;> simp
@[simp] theorem raiseTrap_core_lastRead (st : StreamId) (s : State) (i : TrapInfo) : (raiseTrap st s i).core.lastRead = s.core.lastRead := by
  unfold raiseTrap; split <;> simp
@[simp] theorem raiseTrap_core_member (st : StreamId) (s : State) (i : TrapInfo) : (raiseTrap st s i).core.member = s.core.member := by
  unfold raiseTrap; split <;> simp
@[simp] theorem raiseTrap_core_softPending (st : StreamId) (s : State) (i : TrapInfo) : (raiseTrap st s i).core.softPending = s.core.softPending := by
  unfold raiseTrap; split <;> simp
@[simp] theorem raiseTrap_core_hardStop (st : StreamId) (s : State) (i : TrapInfo) : (raiseTrap st s i).core.hardStop = s.core.hardStop := by
  unfold raiseTrap; split <;> simp
@[simp] theorem raiseTrap_core_engineHeld (st : StreamId) (s : State) (i : TrapInfo) : (raiseTrap st s i).core.engineHeld = s.core.engineHeld := by
  unfold raiseTrap; split <;> simp

end Sys2Proof.Machine
end

