-- ==== Sys2Proof/Laws/Issue.lean ====
section
/-! SUPPORT. What the shared operations of every instruction do: the sync field, retirement, waiting, traps, the ends of `settle`. -/
namespace Sys2Proof.Machine

/-! ### issue (R27) -/

theorem issue_ready {st : StreamId} {y : BitVec 4} {s : State} {body : State → Act} (h : syncReady st y s = true) :
    issue st y s body = .next (settle st y (synced st y s) (body (synced st y s))) := by
  simp [issue, h]

theorem issue_waits {st : StreamId} {y : BitVec 4} {s : State} {body : State → Act} (h : syncReady st y s = false) :
    issue st y s body = .next (blockOn st s (.tokens (y.getLsbD 3) (y.getLsbD 2))) := by
  simp [issue, h]

/-- Whatever `issue` answers, it is one of two next states. -/
theorem issue_cases {st : StreamId} {y : BitVec 4} {s t : State} {body : State → Act} (h : issue st y s body = .next t) :
    t = settle st y (synced st y s) (body (synced st y s)) ∨ t = blockOn st s (.tokens (y.getLsbD 3) (y.getLsbD 2)) := by
  unfold issue at h
  split at h <;> cases h
  · exact .inl rfl
  · exact .inr rfl

/-! ### What the sync field leaves -/

@[simp] theorem synced_rs (st : StreamId) (y : BitVec 4) (s : State) (r : Reg) : (synced st y s).rs r = s.rs r := by simp [State.rs]
@[simp] theorem synced_ra (st : StreamId) (y : BitVec 4) (s : State) (r : Reg) : (synced st y s).ra r = s.ra r := by simp [State.ra]
@[simp] theorem synced_rx (st : StreamId) (y : BitVec 4) (s : State) (r : Reg) : (synced st y s).rx r = s.rx r := by simp [State.rx]
@[simp] theorem synced_rp (st : StreamId) (y : BitVec 4) (s : State) (r : PReg) : (synced st y s).rp r = s.rp r := by simp [State.rp]
@[simp] theorem synced_rv (st : StreamId) (y : BitVec 4) (s : State) (r : VReg) : (synced st y s).rv r = s.rv r := by simp [State.rv]

theorem takeSync_stream (st st' : StreamId) (y : BitVec 4) (s : State) : (s.setCore (s.core.takeSync st y)).stream st' = s.stream st' := by
  cases st' <;> simp

/-- The stream has taken its tokens or not: nothing else of it changes. -/
theorem synced_stream (st : StreamId) (y : BitVec 4) (s : State) :
    ∃ w, (synced st y s).stream st = { s.stream st with waited := w } := by
  unfold synced
  split
  · exact ⟨(s.stream st).waited, rfl⟩
  · exact ⟨_, by simp only [State.setStream_stream, takeSync_stream]; rfl⟩

@[simp] theorem synced_pc (st : StreamId) (y : BitVec 4) (s : State) : ((synced st y s).stream st).pc = (s.stream st).pc := by
  obtain ⟨w, h⟩ := synced_stream st y s; rw [h]

@[simp] theorem synced_loops (st : StreamId) (y : BitVec 4) (s : State) : ((synced st y s).stream st).loops = (s.stream st).loops := by
  obtain ⟨w, h⟩ := synced_stream st y s; rw [h]

@[simp] theorem synced_awaited (st : StreamId) (y : BitVec 4) (s : State) :
    ((synced st y s).stream st).awaited = (s.stream st).awaited := by
  obtain ⟨w, h⟩ := synced_stream st y s; rw [h]

@[simp] theorem synced_woken (st : StreamId) (y : BitVec 4) (s : State) :
    ((synced st y s).stream st).woken = (s.stream st).woken := by
  obtain ⟨w, h⟩ := synced_stream st y s; rw [h]

@[simp] theorem synced_status (st : StreamId) (y : BitVec 4) (s : State) :
    ((synced st y s).stream st).status = (s.stream st).status := by
  obtain ⟨w, h⟩ := synced_stream st y s; rw [h]

@[simp] theorem synced_pages (st : StreamId) (y : BitVec 4) (s : State) :
    ((synced st y s).stream st).pages = (s.stream st).pages := by
  obtain ⟨w, h⟩ := synced_stream st y s; rw [h]

@[simp] theorem synced_psig (st : StreamId) (y : BitVec 4) (s : State) :
    ((synced st y s).stream st).psig = (s.stream st).psig := by
  obtain ⟨w, h⟩ := synced_stream st y s; rw [h]

@[simp] theorem synced_bx (st : StreamId) (y : BitVec 4) (s : State) :
    ((synced st y s).stream st).bx = (s.stream st).bx := by
  obtain ⟨w, h⟩ := synced_stream st y s; rw [h]

/-! ### Nothing but control -/

theorem OnlyControl.refl (s : State) : OnlyControl s s := rfl

theorem OnlyControl.trans {s t u : State} (h : OnlyControl s t) (g : OnlyControl t u) : OnlyControl s u := by
  unfold OnlyControl at *
  rw [g, h]
  rfl

theorem OnlyControl.mem {s t : State} (h : OnlyControl s t) : t.mem = s.mem := by rw [h]

theorem OnlyControl.sameMemory {s t : State} (h : OnlyControl s t) : SameMemory s t := fun k => by rw [h.mem]

theorem setStream_onlyControl (st : StreamId) (s : State) (v : StreamState) : OnlyControl s (s.setStream st v) := by
  cases st <;> rfl

theorem synced_onlyControl (st : StreamId) (y : BitVec 4) (s : State) : OnlyControl s (synced st y s) := by
  unfold synced
  split
  · rfl
  · refine OnlyControl.trans (t := s.setCore (s.core.takeSync st y)) ?_ (setStream_onlyControl ..)
    unfold Core.takeSync
    dsimp only
    split <;> split <;> rfl

theorem blockOn_onlyControl (st : StreamId) (s : State) (w : Wait) : OnlyControl s (blockOn st s w) := setStream_onlyControl ..

theorem raiseTrap_onlyControl (st : StreamId) (s : State) (i : TrapInfo) : OnlyControl s (raiseTrap st s i) := by
  unfold raiseTrap
  split
  · exact OnlyControl.trans (setStream_onlyControl ..) rfl
  · exact setStream_onlyControl ..

theorem giveSync_onlyControl (st : StreamId) (y : BitVec 2) (s : State) : OnlyControl s (s.setCore (s.core.giveSync st y)) := by
  unfold Core.giveSync
  dsimp only
  split <;> split <;> rfl

theorem moveTo_onlyControl (st : StreamId) (y : BitVec 4) (s : State) (n : Word) (l : List LoopEntry) :
    OnlyControl s (moveTo st y s n l) := by
  unfold moveTo
  dsimp only
  split
  · exact OnlyControl.trans (setStream_onlyControl ..) (giveSync_onlyControl ..)
  · exact setStream_onlyControl ..

theorem retireAt_onlyControl (st : StreamId) (y : BitVec 4) (s : State) : OnlyControl s (retireAt st y s) :=
  OnlyControl.trans (setStream_onlyControl ..) (moveTo_onlyControl ..)

/-! ### settle -/

/-- Every state that the answer of a body carries satisfies `P`. -/
def Act.All (P : State → Prop) : Act → Prop
  | .retire t => P t
  | .jump t _ => P t
  | .goTo t _ _ => P t
  | .block t _ => P t
  | .raise _ => True
  | .report t _ => P t
  | .retireRaise t _ => P t
  | .finish t => P t
  | .leave t => P t

/-- The answer neither ends its stream nor sets the streams itself. -/
def Act.ordinary : Act → Bool
  | .finish _ => false
  | .leave _ => false
  | _ => true

/-- What holds of the states that a body answers with, and is indifferent to control, holds of what its instruction leaves. -/
theorem settle_keeps {st : StreamId} {y : BitVec 4} {s : State} {a : Act} {P : State → Prop}
    (indifferent : ∀ t u, P t → OnlyControl t u → P u) (start : P s) (all : a.All P) (plain : a.ordinary = true) :
    P (settle st y s a) := by
  cases a <;> simp only [Act.All, Act.ordinary] at all plain <;> simp only [settle]
  · exact indifferent _ _ all (retireAt_onlyControl ..)
  · split
    · exact indifferent _ _ all (moveTo_onlyControl ..)
    · exact indifferent _ _ start (raiseTrap_onlyControl ..)
  · exact indifferent _ _ all (moveTo_onlyControl ..)
  · exact indifferent _ _ all (blockOn_onlyControl ..)
  · exact indifferent _ _ start (raiseTrap_onlyControl ..)
  · split
    · exact indifferent _ _ all (raiseTrap_onlyControl ..)
    · exact indifferent _ _ start (raiseTrap_onlyControl ..)
  · split
    · exact indifferent _ _ all ((retireAt_onlyControl ..).trans (raiseTrap_onlyControl ..))
    · exact indifferent _ _ start (raiseTrap_onlyControl ..)
  all_goals exact absurd plain (by simp)

/-- The same for the whole instruction: it waits for its tokens, or its body acts. -/
theorem issue_keeps {st : StreamId} {y : BitVec 4} {s t : State} {body : State → Act} {P : State → Prop}
    (h : issue st y s body = .next t) (indifferent : ∀ t u, P t → OnlyControl t u → P u) (start : P s)
    (all : (body (synced st y s)).All P) (plain : (body (synced st y s)).ordinary = true) : P t := by
  rcases issue_cases h with rfl | rfl
  · exact settle_keeps indifferent (indifferent _ _ start (synced_onlyControl ..)) all plain
  · exact indifferent _ _ start (blockOn_onlyControl ..)

end Sys2Proof.Machine
end

