-- ==== Sys2Proof/Laws/Access.lean ====
section
/-! SUPPORT. What the shared operations of the A-stream do once their registers are free and their checks pass. -/
namespace Sys2Proof.Machine

/-! ### Registers (R128, R129) -/

theorem writers_zero (s : State) : s.writers 0 = [] := rfl

theorem reportRegs_free {s : State} {k : Act} : ∀ {l : List Nat}, (∀ r ∈ l, r ≠ 0 → s.core.report? r = none) → reportRegs s l k = k
  | [], _ => rfl
  | r :: l, h => by
    have ih := reportRegs_free (k := k) (fun q hq => h q (List.mem_cons_of_mem _ hq))
    by_cases e : r = 0
    · simp [reportRegs, e, ih]
    · simp [reportRegs, e, ih, reportFirst, h r List.mem_cons_self e]

/-- With its registers free an instruction acts at once. -/
theorem withRegs_free {s : State} {k : Act} {l w : List Nat} (h : RegsFree s (l ++ w)) : withRegs s l w k = k := by
  have e : (l ++ w).find? (fun r => !(s.writers r).isEmpty) = none := by
    rw [List.find?_eq_none]
    intro r hr
    by_cases e : r = 0
    · simp [e, writers_zero]
    · simp [(h r hr e).1]
  rw [withRegs, e]
  refine reportRegs_free (fun r hr e => (h r ?_ e).2)
  simp only [reportsOfWrites, List.mem_append, List.mem_filter] at hr ⊢
  exact hr.imp_right And.left

/-- While a register has an outstanding writer the instruction waits for it. -/
theorem withRegs_waits {s : State} {k : Act} {l w : List Nat} {r : Nat} (h : (l ++ w).find? (fun r => !(s.writers r).isEmpty) = some r) :
    withRegs s l w k = .block s (.scoreboard r) := by
  rw [withRegs, h]

@[simp] theorem synced_writers (st : StreamId) (y : BitVec 4) (s : State) (r : Nat) : (synced st y s).writers r = s.writers r := by
  simp [State.writers]

@[simp] theorem synced_report? (st : StreamId) (y : BitVec 4) (s : State) (r : Nat) :
    (synced st y s).core.report? r = s.core.report? r := by
  simp [Core.report?]

theorem RegsFree.synced {s : State} {l : List Nat} (h : RegsFree s l) (st : StreamId) (y : BitVec 4) :
    RegsFree (Machine.synced st y s) l := by
  intro r hr e
  simpa using h r hr e

theorem RegsFree.sub {s : State} {l m : List Nat} (h : RegsFree s l) (hm : ∀ r ∈ m, r ∈ l) : RegsFree s m :=
  fun r hr e => h r (hm r hr) e

/-! ### Operands (R126) -/

/-- An operand that is named, with its registers free, is what the instruction goes on with. -/
theorem operand_named {s : State} {h : Handle} {cf : Nat} {more writes : List Nat} {p : Operand} (n : Names s h cf (more ++ writes) p)
    (k : Operand → Act) : operand s h cf more writes k = k p := by
  obtain ⟨h1, h2, h3⟩ := n
  rw [operand, h1]
  simp only
  rw [withRegs_free (by simpa using h3), h2]
  rfl

/-- An operand that is not named raises what its checks raise. -/
theorem operand_error {s : State} {h : Handle} {cf : Nat} {more writes : List Nat} {t : TrapInfo} (n : named s h cf = .error t)
    (k : Operand → Act) : operand s h cf more writes k = .raise t := by
  rw [operand, n]

/-- Outside watched spaces an access that passes its checks goes on at once. -/
theorem stampGate_passes {s : State} {ord : BitVec 2} {held : Bool} {l : List Span} {k : State → Act} (h : watchedSpans s l = false) :
    stampGate s ord held l k = k s := by
  simp [stampGate, h]

end Sys2Proof.Machine
end

