-- ==== Sys2Proof/Laws/Dispatch.lean ====
section
/-! SUPPORT. What exec does with each instruction: the meaning it calls. -/
namespace Sys2Proof.Machine

@[simp] theorem exec_cAdd (y : BitVec 4) (d : Reg) (a : Reg) (b : Reg) (s : State) : exec (.cAdd y d a b) s = execCAdd y d a b s := rfl
@[simp] theorem exec_cSub (y : BitVec 4) (d : Reg) (a : Reg) (b : Reg) (s : State) : exec (.cSub y d a b) s = execCSub y d a b s := rfl
@[simp] theorem exec_cAnd (y : BitVec 4) (d : Reg) (a : Reg) (b : Reg) (s : State) : exec (.cAnd y d a b) s = execCAnd y d a b s := rfl
@[simp] theorem exec_cOr (y : BitVec 4) (d : Reg) (a : Reg) (b : Reg) (s : State) : exec (.cOr y d a b) s = execCOr y d a b s := rfl
@[simp] theorem exec_cXor (y : BitVec 4) (d : Reg) (a : Reg) (b : Reg) (s : State) : exec (.cXor y d a b) s = execCXor y d a b s := rfl
@[simp] theorem exec_cShl (y : BitVec 4) (d : Reg) (a : Reg) (b : Reg) (s : State) : exec (.cShl y d a b) s = execCShl y d a b s := rfl
@[simp] theorem exec_cShr (y : BitVec 4) (d : Reg) (a : Reg) (b : Reg) (s : State) : exec (.cShr y d a b) s = execCShr y d a b s := rfl
@[simp] theorem exec_cSra (y : BitVec 4) (d : Reg) (a : Reg) (b : Reg) (s : State) : exec (.cSra y d a b) s = execCSra y d a b s := rfl
@[simp] theorem exec_cMul (y : BitVec 4) (d : Reg) (a : Reg) (b : Reg) (s : State) : exec (.cMul y d a b) s = execCMul y d a b s := rfl
@[simp] theorem exec_cMulh (y : BitVec 4) (d : Reg) (a : Reg) (b : Reg) (s : State) : exec (.cMulh y d a b) s = execCMulh y d a b s := rfl
@[simp] theorem exec_cMulhu (y : BitVec 4) (d : Reg) (a : Reg) (b : Reg) (s : State) : exec (.cMulhu y d a b) s = execCMulhu y d a b s := rfl
@[simp] theorem exec_cDiv (y : BitVec 4) (d : Reg) (a : Reg) (b : Reg) (s : State) : exec (.cDiv y d a b) s = execCDiv y d a b s := rfl
@[simp] theorem exec_cRem (y : BitVec 4) (d : Reg) (a : Reg) (b : Reg) (s : State) : exec (.cRem y d a b) s = execCRem y d a b s := rfl
@[simp] theorem exec_cMin (y : BitVec 4) (d : Reg) (a : Reg) (b : Reg) (s : State) : exec (.cMin y d a b) s = execCMin y d a b s := rfl
@[simp] theorem exec_cMax (y : BitVec 4) (d : Reg) (a : Reg) (b : Reg) (s : State) : exec (.cMax y d a b) s = execCMax y d a b s := rfl
@[simp] theorem exec_cAddi (y : BitVec 4) (d : Reg) (a : Reg) (imm : BitVec 11) (s : State) : exec (.cAddi y d a imm) s = execCAddi y d a imm s := rfl
@[simp] theorem exec_cAndi (y : BitVec 4) (d : Reg) (a : Reg) (imm : BitVec 11) (s : State) : exec (.cAndi y d a imm) s = execCAndi y d a imm s := rfl
@[simp] theorem exec_cOri (y : BitVec 4) (d : Reg) (a : Reg) (imm : BitVec 11) (s : State) : exec (.cOri y d a imm) s = execCOri y d a imm s := rfl
@[simp] theorem exec_cXori (y : BitVec 4) (d : Reg) (a : Reg) (imm : BitVec 11) (s : State) : exec (.cXori y d a imm) s = execCXori y d a imm s := rfl
@[simp] theorem exec_cShli (y : BitVec 4) (d : Reg) (a : Reg) (n : BitVec 6) (s : State) : exec (.cShli y d a n) s = execCShli y d a n s := rfl
@[simp] theorem exec_cShri (y : BitVec 4) (d : Reg) (a : Reg) (n : BitVec 6) (s : State) : exec (.cShri y d a n) s = execCShri y d a n s := rfl
@[simp] theorem exec_cSrai (y : BitVec 4) (d : Reg) (a : Reg) (n : BitVec 6) (s : State) : exec (.cSrai y d a n) s = execCSrai y d a n s := rfl
@[simp] theorem exec_cLi (y : BitVec 4) (d : Reg) (imm : BitVec 16) (s : State) : exec (.cLi y d imm) s = execCLi y d imm s := rfl
@[simp] theorem exec_cLui (y : BitVec 4) (d : Reg) (imm : BitVec 16) (s : State) : exec (.cLui y d imm) s = execCLui y d imm s := rfl
@[simp] theorem exec_cSeq (y : BitVec 4) (d : Reg) (a : Reg) (b : Reg) (s : State) : exec (.cSeq y d a b) s = execCSeq y d a b s := rfl
@[simp] theorem exec_cSne (y : BitVec 4) (d : Reg) (a : Reg) (b : Reg) (s : State) : exec (.cSne y d a b) s = execCSne y d a b s := rfl
@[simp] theorem exec_cSlt (y : BitVec 4) (d : Reg) (a : Reg) (b : Reg) (s : State) : exec (.cSlt y d a b) s = execCSlt y d a b s := rfl
@[simp] theorem exec_cSltu (y : BitVec 4) (d : Reg) (a : Reg) (b : Reg) (s : State) : exec (.cSltu y d a b) s = execCSltu y d a b s := rfl
@[simp] theorem exec_cSle (y : BitVec 4) (d : Reg) (a : Reg) (b : Reg) (s : State) : exec (.cSle y d a b) s = execCSle y d a b s := rfl
@[simp] theorem exec_cSleu (y : BitVec 4) (d : Reg) (a : Reg) (b : Reg) (s : State) : exec (.cSleu y d a b) s = execCSleu y d a b s := rfl
@[simp] theorem exec_cClz (y : BitVec 4) (d : Reg) (a : Reg) (s : State) : exec (.cClz y d a) s = execCClz y d a s := rfl
@[simp] theorem exec_cPopc (y : BitVec 4) (d : Reg) (a : Reg) (s : State) : exec (.cPopc y d a) s = execCPopc y d a s := rfl
@[simp] theorem exec_cB (y : BitVec 4) (o : BitVec 16) (s : State) : exec (.cB y o) s = execCB y o s := rfl
@[simp] theorem exec_cBeq (y : BitVec 4) (a : Reg) (b : Reg) (o : BitVec 11) (s : State) : exec (.cBeq y a b o) s = execCBeq y a b o s := rfl
@[simp] theorem exec_cBne (y : BitVec 4) (a : Reg) (b : Reg) (o : BitVec 11) (s : State) : exec (.cBne y a b o) s = execCBne y a b o s := rfl
@[simp] theorem exec_cBlt (y : BitVec 4) (a : Reg) (b : Reg) (o : BitVec 11) (s : State) : exec (.cBlt y a b o) s = execCBlt y a b o s := rfl
@[simp] theorem exec_cBge (y : BitVec 4) (a : Reg) (b : Reg) (o : BitVec 11) (s : State) : exec (.cBge y a b o) s = execCBge y a b o s := rfl
@[simp] theorem exec_cBltu (y : BitVec 4) (a : Reg) (b : Reg) (o : BitVec 11) (s : State) : exec (.cBltu y a b o) s = execCBltu y a b o s := rfl
@[simp] theorem exec_cBgeu (y : BitVec 4) (a : Reg) (b : Reg) (o : BitVec 11) (s : State) : exec (.cBgeu y a b o) s = execCBgeu y a b o s := rfl
@[simp] theorem exec_cCall (y : BitVec 4) (d : Reg) (o : BitVec 16) (s : State) : exec (.cCall y d o) s = execCCall y d o s := rfl
@[simp] theorem exec_cRet (y : BitVec 4) (a : Reg) (s : State) : exec (.cRet y a) s = execCRet y a s := rfl
@[simp] theorem exec_cLoop (y : BitVec 4) (a : Reg) (e : BitVec 16) (s : State) : exec (.cLoop y a e) s = execCLoop y a e s := rfl
@[simp] theorem exec_cCsrr (y : BitVec 4) (d : Reg) (csr : BitVec 11) (s : State) : exec (.cCsrr y d csr) s = execCCsrr y d csr s := rfl
@[simp] theorem exec_cCsrw (y : BitVec 4) (a : Reg) (csr : BitVec 11) (s : State) : exec (.cCsrw y a csr) s = execCCsrw y a csr s := rfl
@[simp] theorem exec_cCsrs (y : BitVec 4) (a : Reg) (csr : BitVec 11) (s : State) : exec (.cCsrs y a csr) s = execCCsrs y a csr s := rfl
@[simp] theorem exec_cCsrc (y : BitVec 4) (a : Reg) (csr : BitVec 11) (s : State) : exec (.cCsrc y a csr) s = execCCsrc y a csr s := rfl
@[simp] theorem exec_cLdw (y : BitVec 4) (d : Reg) (a : Reg) (o : BitVec 11) (s : State) : exec (.cLdw y d a o) s = execCLdw y d a o s := rfl
@[simp] theorem exec_cStw (y : BitVec 4) (d : Reg) (a : Reg) (o : BitVec 11) (s : State) : exec (.cStw y d a o) s = execCStw y d a o s := rfl
@[simp] theorem exec_cFpush (y : BitVec 4) (a : Reg) (s : State) : exec (.cFpush y a) s = execCFpush y a s := rfl
@[simp] theorem exec_cFpushi (y : BitVec 4) (imm : BitVec 21) (s : State) : exec (.cFpushi y imm) s = execCFpushi y imm s := rfl
@[simp] theorem exec_cTshape (y : BitVec 4) (t : BitVec 4) (a : Reg) (s : State) : exec (.cTshape y t a) s = execCTshape y t a s := rfl
@[simp] theorem exec_cSeal (y : BitVec 4) (h : Handle) (a : Reg) (s : State) : exec (.cSeal y h a) s = execCSeal y h a s := rfl
@[simp] theorem exec_cUnseal (y : BitVec 4) (h : Handle) (s : State) : exec (.cUnseal y h) s = execCUnseal y h s := rfl
@[simp] theorem exec_cDbar (y : BitVec 4) (l : BitVec 2) (s : State) : exec (.cDbar y l) s = execCDbar y l s := rfl
@[simp] theorem exec_cGenf (y : BitVec 4) (s : State) : exec (.cGenf y) s = execCGenf y s := rfl
@[simp] theorem exec_cBound (y : BitVec 4) (a : Reg) (s : State) : exec (.cBound y a) s = execCBound y a s := rfl
@[simp] theorem exec_cMigrate (y : BitVec 4) (h : Handle) (a : Reg) (b : Reg) (t : Bool) (s : State) : exec (.cMigrate y h a b t) s = execCMigrate y h a b t s := rfl
@[simp] theorem exec_cFence (y : BitVec 4) (o : BitVec 2) (sc : BitVec 2) (s : State) : exec (.cFence y o sc) s = execCFence y o sc s := rfl
@[simp] theorem exec_cFlush (y : BitVec 4) (h : Handle) (a : Reg) (b : Reg) (s : State) : exec (.cFlush y h a b) s = execCFlush y h a b s := rfl
@[simp] theorem exec_cTsig (y : BitVec 4) (side : Bool) (n : BitVec 8) (s : State) : exec (.cTsig y side n) s = execCTsig y side n s := rfl
@[simp] theorem exec_cTwait (y : BitVec 4) (side : Bool) (n : BitVec 8) (s : State) : exec (.cTwait y side n) s = execCTwait y side n s := rfl
@[simp] theorem exec_cTapec (y : BitVec 4) (h : Handle) (a : Reg) (s : State) : exec (.cTapec y h a) s = execCTapec y h a s := rfl
@[simp] theorem exec_cTrap (y : BitVec 4) (code : BitVec 16) (s : State) : exec (.cTrap y code) s = execCTrap y code s := rfl
@[simp] theorem exec_cRtt (y : BitVec 4) (s : State) : exec (.cRtt y) s = execCRtt y s := rfl
@[simp] theorem exec_cHalt (y : BitVec 4) (s : State) : exec (.cHalt y) s = execCHalt y s := rfl
@[simp] theorem exec_cWfe (y : BitVec 4) (s : State) : exec (.cWfe y) s = execCWfe y s := rfl
@[simp] theorem exec_cLttw (y : BitVec 4) (a : Reg) (b : Reg) (s : State) : exec (.cLttw y a b) s = execCLttw y a b s := rfl
@[simp] theorem exec_cLttinv (y : BitVec 4) (a : Reg) (s : State) : exec (.cLttinv y a) s = execCLttinv y a s := rfl
@[simp] theorem exec_cDreg (y : BitVec 4) (a : Reg) (b : Reg) (s : State) : exec (.cDreg y a b) s = execCDreg y a b s := rfl
@[simp] theorem exec_cDfree (y : BitVec 4) (a : Reg) (s : State) : exec (.cDfree y a) s = execCDfree y a s := rfl
@[simp] theorem exec_cSavec (y : BitVec 4) (a : Reg) (b : Reg) (s : State) : exec (.cSavec y a b) s = execCSavec y a b s := rfl
@[simp] theorem exec_cRestc (y : BitVec 4) (a : Reg) (b : Reg) (s : State) : exec (.cRestc y a b) s = execCRestc y a b s := rfl
@[simp] theorem exec_aAdd (y : BitVec 4) (d : Reg) (a : Reg) (b : Reg) (s : State) : exec (.aAdd y d a b) s = execAAdd y d a b s := rfl
@[simp] theorem exec_aSub (y : BitVec 4) (d : Reg) (a : Reg) (b : Reg) (s : State) : exec (.aSub y d a b) s = execASub y d a b s := rfl
@[simp] theorem exec_aAnd (y : BitVec 4) (d : Reg) (a : Reg) (b : Reg) (s : State) : exec (.aAnd y d a b) s = execAAnd y d a b s := rfl
@[simp] theorem exec_aOr (y : BitVec 4) (d : Reg) (a : Reg) (b : Reg) (s : State) : exec (.aOr y d a b) s = execAOr y d a b s := rfl
@[simp] theorem exec_aXor (y : BitVec 4) (d : Reg) (a : Reg) (b : Reg) (s : State) : exec (.aXor y d a b) s = execAXor y d a b s := rfl
@[simp] theorem exec_aShl (y : BitVec 4) (d : Reg) (a : Reg) (b : Reg) (s : State) : exec (.aShl y d a b) s = execAShl y d a b s := rfl
@[simp] theorem exec_aShr (y : BitVec 4) (d : Reg) (a : Reg) (b : Reg) (s : State) : exec (.aShr y d a b) s = execAShr y d a b s := rfl
@[simp] theorem exec_aSra (y : BitVec 4) (d : Reg) (a : Reg) (b : Reg) (s : State) : exec (.aSra y d a b) s = execASra y d a b s := rfl
@[simp] theorem exec_aMul (y : BitVec 4) (d : Reg) (a : Reg) (b : Reg) (s : State) : exec (.aMul y d a b) s = execAMul y d a b s := rfl
@[simp] theorem exec_aMin (y : BitVec 4) (d : Reg) (a : Reg) (b : Reg) (s : State) : exec (.aMin y d a b) s = execAMin y d a b s := rfl
@[simp] theorem exec_aMax (y : BitVec 4) (d : Reg) (a : Reg) (b : Reg) (s : State) : exec (.aMax y d a b) s = execAMax y d a b s := rfl
@[simp] theorem exec_aSeq (y : BitVec 4) (d : Reg) (a : Reg) (b : Reg) (s : State) : exec (.aSeq y d a b) s = execASeq y d a b s := rfl
@[simp] theorem exec_aSne (y : BitVec 4) (d : Reg) (a : Reg) (b : Reg) (s : State) : exec (.aSne y d a b) s = execASne y d a b s := rfl
@[simp] theorem exec_aSlt (y : BitVec 4) (d : Reg) (a : Reg) (b : Reg) (s : State) : exec (.aSlt y d a b) s = execASlt y d a b s := rfl
@[simp] theorem exec_aSltu (y : BitVec 4) (d : Reg) (a : Reg) (b : Reg) (s : State) : exec (.aSltu y d a b) s = execASltu y d a b s := rfl
@[simp] theorem exec_aAddi (y : BitVec 4) (d : Reg) (a : Reg) (imm : BitVec 32) (s : State) : exec (.aAddi y d a imm) s = execAAddi y d a imm s := rfl
@[simp] theorem exec_aAndi (y : BitVec 4) (d : Reg) (a : Reg) (imm : BitVec 32) (s : State) : exec (.aAndi y d a imm) s = execAAndi y d a imm s := rfl
@[simp] theorem exec_aShli (y : BitVec 4) (d : Reg) (a : Reg) (n : BitVec 6) (s : State) : exec (.aShli y d a n) s = execAShli y d a n s := rfl
@[simp] theorem exec_aShri (y : BitVec 4) (d : Reg) (a : Reg) (n : BitVec 6) (s : State) : exec (.aShri y d a n) s = execAShri y d a n s := rfl
@[simp] theorem exec_aLi (y : BitVec 4) (d : Reg) (imm : BitVec 32) (s : State) : exec (.aLi y d imm) s = execALi y d imm s := rfl
@[simp] theorem exec_aLui (y : BitVec 4) (d : Reg) (imm : BitVec 32) (s : State) : exec (.aLui y d imm) s = execALui y d imm s := rfl
@[simp] theorem exec_aB (y : BitVec 4) (o : BitVec 16) (s : State) : exec (.aB y o) s = execAB y o s := rfl
@[simp] theorem exec_aBeq (y : BitVec 4) (a : Reg) (b : Reg) (o : BitVec 16) (s : State) : exec (.aBeq y a b o) s = execABeq y a b o s := rfl
@[simp] theorem exec_aBne (y : BitVec 4) (a : Reg) (b : Reg) (o : BitVec 16) (s : State) : exec (.aBne y a b o) s = execABne y a b o s := rfl
@[simp] theorem exec_aBlt (y : BitVec 4) (a : Reg) (b : Reg) (o : BitVec 16) (s : State) : exec (.aBlt y a b o) s = execABlt y a b o s := rfl
@[simp] theorem exec_aBge (y : BitVec 4) (a : Reg) (b : Reg) (o : BitVec 16) (s : State) : exec (.aBge y a b o) s = execABge y a b o s := rfl
@[simp] theorem exec_aBltu (y : BitVec 4) (a : Reg) (b : Reg) (o : BitVec 16) (s : State) : exec (.aBltu y a b o) s = execABltu y a b o s := rfl
@[simp] theorem exec_aBgeu (y : BitVec 4) (a : Reg) (b : Reg) (o : BitVec 16) (s : State) : exec (.aBgeu y a b o) s = execABgeu y a b o s := rfl
@[simp] theorem exec_aLoop (y : BitVec 4) (a : Reg) (e : BitVec 16) (s : State) : exec (.aLoop y a e) s = execALoop y a e s := rfl
@[simp] theorem exec_aBrq (y : BitVec 4) (qual : BitVec 4) (o : BitVec 16) (s : State) : exec (.aBrq y qual o) s = execABrq y qual o s := rfl
@[simp] theorem exec_aOpush (y : BitVec 4) (a : Reg) (s : State) : exec (.aOpush y a) s = execAOpush y a s := rfl
@[simp] theorem exec_aVqpop (y : BitVec 4) (d : Reg) (s : State) : exec (.aVqpop y d) s = execAVqpop y d s := rfl
@[simp] theorem exec_aBound (y : BitVec 4) (a : Reg) (s : State) : exec (.aBound y a) s = execABound y a s := rfl
@[simp] theorem exec_aEnd (y : BitVec 4) (s : State) : exec (.aEnd y) s = execAEnd y s := rfl
@[simp] theorem exec_aNop (y : BitVec 4) (s : State) : exec (.aNop y) s = execANop y s := rfl
@[simp] theorem exec_aLd8 (y : BitVec 4) (q : LqNum) (h : Handle) (cf : Reg) (b : Reg) (ty : ElemCode) (o : BitVec 2) (sc : BitVec 2) (s : State) : exec (.aLd8 y q h cf b ty o sc) s = execALd8 y q h cf b ty o sc s := rfl
@[simp] theorem exec_aLd16 (y : BitVec 4) (q : LqNum) (h : Handle) (cf : Reg) (b : Reg) (ty : ElemCode) (o : BitVec 2) (sc : BitVec 2) (s : State) : exec (.aLd16 y q h cf b ty o sc) s = execALd16 y q h cf b ty o sc s := rfl
@[simp] theorem exec_aLd32 (y : BitVec 4) (q : LqNum) (h : Handle) (cf : Reg) (b : Reg) (ty : ElemCode) (o : BitVec 2) (sc : BitVec 2) (s : State) : exec (.aLd32 y q h cf b ty o sc) s = execALd32 y q h cf b ty o sc s := rfl
@[simp] theorem exec_aLd64 (y : BitVec 4) (q : LqNum) (h : Handle) (cf : Reg) (b : Reg) (ty : ElemCode) (o : BitVec 2) (sc : BitVec 2) (s : State) : exec (.aLd64 y q h cf b ty o sc) s = execALd64 y q h cf b ty o sc s := rfl
@[simp] theorem exec_aSt8 (y : BitVec 4) (h : Handle) (cf : Reg) (b : Reg) (ty : ElemCode) (o : BitVec 2) (sc : BitVec 2) (s : State) : exec (.aSt8 y h cf b ty o sc) s = execASt8 y h cf b ty o sc s := rfl
@[simp] theorem exec_aSt16 (y : BitVec 4) (h : Handle) (cf : Reg) (b : Reg) (ty : ElemCode) (o : BitVec 2) (sc : BitVec 2) (s : State) : exec (.aSt16 y h cf b ty o sc) s = execASt16 y h cf b ty o sc s := rfl
@[simp] theorem exec_aSt32 (y : BitVec 4) (h : Handle) (cf : Reg) (b : Reg) (ty : ElemCode) (o : BitVec 2) (sc : BitVec 2) (s : State) : exec (.aSt32 y h cf b ty o sc) s = execASt32 y h cf b ty o sc s := rfl
@[simp] theorem exec_aSt64 (y : BitVec 4) (h : Handle) (cf : Reg) (b : Reg) (ty : ElemCode) (o : BitVec 2) (sc : BitVec 2) (s : State) : exec (.aSt64 y h cf b ty o sc) s = execASt64 y h cf b ty o sc s := rfl
@[simp] theorem exec_aLdt (y : BitVec 4) (q : LqNum) (h : Handle) (cf : Reg) (s : State) : exec (.aLdt y q h cf) s = execALdt y q h cf s := rfl
@[simp] theorem exec_aStt (y : BitVec 4) (h : Handle) (cf : Reg) (s : State) : exec (.aStt y h cf) s = execAStt y h cf s := rfl
@[simp] theorem exec_aLdi (y : BitVec 4) (q : LqNum) (a : Reg) (s : State) : exec (.aLdi y q a) s = execALdi y q a s := rfl
@[simp] theorem exec_aLdv (y : BitVec 4) (q : LqNum) (d : Reg) (h : Handle) (cf : Reg) (b : Reg) (o : BitVec 2) (sc : BitVec 2) (s : State) : exec (.aLdv y q d h cf b o sc) s = execALdv y q d h cf b o sc s := rfl
@[simp] theorem exec_aLdvBqa (y : BitVec 4) (q : LqNum) (d : Reg) (h : Handle) (cf : Reg) (b : Reg) (o : BitVec 2) (sc : BitVec 2) (s : State) : exec (.aLdvBqa y q d h cf b o sc) s = execALdvBqa y q d h cf b o sc s := rfl
@[simp] theorem exec_aLda8 (y : BitVec 4) (d : Reg) (h : Handle) (cf : Reg) (ty : ElemCode) (o : BitVec 2) (sc : BitVec 2) (s : State) : exec (.aLda8 y d h cf ty o sc) s = execALda8 y d h cf ty o sc s := rfl
@[simp] theorem exec_aLda16 (y : BitVec 4) (d : Reg) (h : Handle) (cf : Reg) (ty : ElemCode) (o : BitVec 2) (sc : BitVec 2) (s : State) : exec (.aLda16 y d h cf ty o sc) s = execALda16 y d h cf ty o sc s := rfl
@[simp] theorem exec_aLda32 (y : BitVec 4) (d : Reg) (h : Handle) (cf : Reg) (ty : ElemCode) (o : BitVec 2) (sc : BitVec 2) (s : State) : exec (.aLda32 y d h cf ty o sc) s = execALda32 y d h cf ty o sc s := rfl
@[simp] theorem exec_aLda64 (y : BitVec 4) (d : Reg) (h : Handle) (cf : Reg) (ty : ElemCode) (o : BitVec 2) (sc : BitVec 2) (s : State) : exec (.aLda64 y d h cf ty o sc) s = execALda64 y d h cf ty o sc s := rfl
@[simp] theorem exec_aSta8 (y : BitVec 4) (h : Handle) (cf : Reg) (b : Reg) (ty : ElemCode) (o : BitVec 2) (sc : BitVec 2) (s : State) : exec (.aSta8 y h cf b ty o sc) s = execASta8 y h cf b ty o sc s := rfl
@[simp] theorem exec_aSta16 (y : BitVec 4) (h : Handle) (cf : Reg) (b : Reg) (ty : ElemCode) (o : BitVec 2) (sc : BitVec 2) (s : State) : exec (.aSta16 y h cf b ty o sc) s = execASta16 y h cf b ty o sc s := rfl
@[simp] theorem exec_aSta32 (y : BitVec 4) (h : Handle) (cf : Reg) (b : Reg) (ty : ElemCode) (o : BitVec 2) (sc : BitVec 2) (s : State) : exec (.aSta32 y h cf b ty o sc) s = execASta32 y h cf b ty o sc s := rfl
@[simp] theorem exec_aSta64 (y : BitVec 4) (h : Handle) (cf : Reg) (b : Reg) (ty : ElemCode) (o : BitVec 2) (sc : BitVec 2) (s : State) : exec (.aSta64 y h cf b ty o sc) s = execASta64 y h cf b ty o sc s := rfl
@[simp] theorem exec_aCpy (y : BitVec 4) (tok : ShortReg) (hd : Handle) (dcf : ShortReg) (hs : Handle) (scf : ShortReg) (len : ShortReg) (wd : BitVec 16) (s : State) : exec (.aCpy y tok hd dcf hs scf len wd) s = execACpy y tok hd dcf hs scf len wd s := rfl
@[simp] theorem exec_aCpy2d (y : BitVec 4) (tok : ShortReg) (hd : Handle) (dcf : ShortReg) (hs : Handle) (scf : ShortReg) (len : ShortReg) (wd : BitVec 16) (s : State) : exec (.aCpy2d y tok hd dcf hs scf len wd) s = execACpy2d y tok hd dcf hs scf len wd s := rfl
@[simp] theorem exec_aCpyx (y : BitVec 4) (tok : ShortReg) (hd : Handle) (dcf : ShortReg) (hs : Handle) (scf : ShortReg) (len : ShortReg) (wd : BitVec 16) (s : State) : exec (.aCpyx y tok hd dcf hs scf len wd) s = execACpyx y tok hd dcf hs scf len wd s := rfl
@[simp] theorem exec_aDqry (y : BitVec 4) (qual : BitVec 4) (d : Reg) (h : Handle) (cf : Reg) (s : State) : exec (.aDqry y qual d h cf) s = execADqry y qual d h cf s := rfl
@[simp] theorem exec_aDqryv (y : BitVec 4) (qual : BitVec 4) (q : LqNum) (h : Handle) (cf : Reg) (b : Reg) (s : State) : exec (.aDqryv y qual q h cf b) s = execADqryv y qual q h cf b s := rfl
@[simp] theorem exec_aDqpf (y : BitVec 4) (h : Handle) (cf : Reg) (b : Reg) (s : State) : exec (.aDqpf y h cf b) s = execADqpf y h cf b s := rfl
@[simp] theorem exec_aDscan (y : BitVec 4) (h : Handle) (cf : Reg) (b : Reg) (s : State) : exec (.aDscan y h cf b) s = execADscan y h cf b s := rfl
@[simp] theorem exec_aFence (y : BitVec 4) (o : BitVec 2) (sc : BitVec 2) (s : State) : exec (.aFence y o sc) s = execAFence y o sc s := rfl
@[simp] theorem exec_aWaita (y : BitVec 4) (h : Handle) (cf : Reg) (s : State) : exec (.aWaita y h cf) s = execAWaita y h cf s := rfl
@[simp] theorem exec_aAaddI32 (y : BitVec 4) (h : Handle) (cf : Reg) (b : Reg) (o : BitVec 2) (sc : BitVec 2) (s : State) : exec (.aAaddI32 y h cf b o sc) s = execAAaddI32 y h cf b o sc s := rfl
@[simp] theorem exec_aAaddI64 (y : BitVec 4) (h : Handle) (cf : Reg) (b : Reg) (o : BitVec 2) (sc : BitVec 2) (s : State) : exec (.aAaddI64 y h cf b o sc) s = execAAaddI64 y h cf b o sc s := rfl
@[simp] theorem exec_aAaddF32 (y : BitVec 4) (h : Handle) (cf : Reg) (b : Reg) (o : BitVec 2) (sc : BitVec 2) (s : State) : exec (.aAaddF32 y h cf b o sc) s = execAAaddF32 y h cf b o sc s := rfl
@[simp] theorem exec_aAmin (y : BitVec 4) (h : Handle) (cf : Reg) (b : Reg) (ty : ElemCode) (o : BitVec 2) (sc : BitVec 2) (s : State) : exec (.aAmin y h cf b ty o sc) s = execAAmin y h cf b ty o sc s := rfl
@[simp] theorem exec_aAmax (y : BitVec 4) (h : Handle) (cf : Reg) (b : Reg) (ty : ElemCode) (o : BitVec 2) (sc : BitVec 2) (s : State) : exec (.aAmax y h cf b ty o sc) s = execAAmax y h cf b ty o sc s := rfl
@[simp] theorem exec_aAand (y : BitVec 4) (h : Handle) (cf : Reg) (b : Reg) (ty : ElemCode) (o : BitVec 2) (sc : BitVec 2) (s : State) : exec (.aAand y h cf b ty o sc) s = execAAand y h cf b ty o sc s := rfl
@[simp] theorem exec_aAor (y : BitVec 4) (h : Handle) (cf : Reg) (b : Reg) (ty : ElemCode) (o : BitVec 2) (sc : BitVec 2) (s : State) : exec (.aAor y h cf b ty o sc) s = execAAor y h cf b ty o sc s := rfl
@[simp] theorem exec_aAxor (y : BitVec 4) (h : Handle) (cf : Reg) (b : Reg) (ty : ElemCode) (o : BitVec 2) (sc : BitVec 2) (s : State) : exec (.aAxor y h cf b ty o sc) s = execAAxor y h cf b ty o sc s := rfl
@[simp] theorem exec_aAfaddI32 (y : BitVec 4) (d : Reg) (h : Handle) (cf : Reg) (b : Reg) (o : BitVec 2) (sc : BitVec 2) (s : State) : exec (.aAfaddI32 y d h cf b o sc) s = execAAfaddI32 y d h cf b o sc s := rfl
@[simp] theorem exec_aAfaddI64 (y : BitVec 4) (d : Reg) (h : Handle) (cf : Reg) (b : Reg) (o : BitVec 2) (sc : BitVec 2) (s : State) : exec (.aAfaddI64 y d h cf b o sc) s = execAAfaddI64 y d h cf b o sc s := rfl
@[simp] theorem exec_aAfaddF32 (y : BitVec 4) (d : Reg) (h : Handle) (cf : Reg) (b : Reg) (o : BitVec 2) (sc : BitVec 2) (s : State) : exec (.aAfaddF32 y d h cf b o sc) s = execAAfaddF32 y d h cf b o sc s := rfl
@[simp] theorem exec_aAxchg (y : BitVec 4) (d : Reg) (h : Handle) (cf : Reg) (b : Reg) (ty : ElemCode) (o : BitVec 2) (sc : BitVec 2) (s : State) : exec (.aAxchg y d h cf b ty o sc) s = execAAxchg y d h cf b ty o sc s := rfl
@[simp] theorem exec_aAcas (y : BitVec 4) (d : Reg) (h : Handle) (cf : Reg) (b : Reg) (x : Reg) (ty : ElemCode) (o : BitVec 2) (sc : BitVec 2) (s : State) : exec (.aAcas y d h cf b x ty o sc) s = execAAcas y d h cf b x ty o sc s := rfl
@[simp] theorem exec_aAscat (y : BitVec 4) (h : Handle) (cf : Reg) (b : Reg) (ty : ElemCode) (s : State) : exec (.aAscat y h cf b ty) s = execAAscat y h cf b ty s := rfl
@[simp] theorem exec_aNmaddI32 (y : BitVec 4) (h : Handle) (cf : Reg) (b : Reg) (s : State) : exec (.aNmaddI32 y h cf b) s = execANmaddI32 y h cf b s := rfl
@[simp] theorem exec_aNmaddF32 (y : BitVec 4) (h : Handle) (cf : Reg) (b : Reg) (s : State) : exec (.aNmaddF32 y h cf b) s = execANmaddF32 y h cf b s := rfl
@[simp] theorem exec_aNmmin (y : BitVec 4) (h : Handle) (cf : Reg) (b : Reg) (ty : ElemCode) (s : State) : exec (.aNmmin y h cf b ty) s = execANmmin y h cf b ty s := rfl
@[simp] theorem exec_aNmmax (y : BitVec 4) (h : Handle) (cf : Reg) (b : Reg) (ty : ElemCode) (s : State) : exec (.aNmmax y h cf b ty) s = execANmmax y h cf b ty s := rfl
@[simp] theorem exec_aNmfence (y : BitVec 4) (s : State) : exec (.aNmfence y) s = execANmfence y s := rfl
@[simp] theorem exec_aEmbag (y : BitVec 4) (q : LqNum) (ha : Handle) (acf : ShortReg) (hb : Handle) (bcf : ShortReg) (n : ShortReg) (s : State) : exec (.aEmbag y q ha acf hb bcf n) s = execAEmbag y q ha acf hb bcf n s := rfl
@[simp] theorem exec_aKvatt (y : BitVec 4) (q : LqNum) (ha : Handle) (acf : ShortReg) (hb : Handle) (bcf : ShortReg) (n : ShortReg) (s : State) : exec (.aKvatt y q ha acf hb bcf n) s = execAKvatt y q ha acf hb bcf n s := rfl
@[simp] theorem exec_aPut (y : BitVec 4) (tok : ShortReg) (hd : Handle) (dcf : ShortReg) (hs : Handle) (scf : ShortReg) (len : ShortReg) (wd : BitVec 16) (s : State) : exec (.aPut y tok hd dcf hs scf len wd) s = execAPut y tok hd dcf hs scf len wd s := rfl
@[simp] theorem exec_aPut2d (y : BitVec 4) (tok : ShortReg) (hd : Handle) (dcf : ShortReg) (hs : Handle) (scf : ShortReg) (len : ShortReg) (wd : BitVec 16) (s : State) : exec (.aPut2d y tok hd dcf hs scf len wd) s = execAPut2d y tok hd dcf hs scf len wd s := rfl
@[simp] theorem exec_aGet (y : BitVec 4) (tok : ShortReg) (hd : Handle) (dcf : ShortReg) (hs : Handle) (scf : ShortReg) (len : ShortReg) (wd : BitVec 16) (s : State) : exec (.aGet y tok hd dcf hs scf len wd) s = execAGet y tok hd dcf hs scf len wd s := rfl
@[simp] theorem exec_aGet2d (y : BitVec 4) (tok : ShortReg) (hd : Handle) (dcf : ShortReg) (hs : Handle) (scf : ShortReg) (len : ShortReg) (wd : BitVec 16) (s : State) : exec (.aGet2d y tok hd dcf hs scf len wd) s = execAGet2d y tok hd dcf hs scf len wd s := rfl
@[simp] theorem exec_aRadd (y : BitVec 4) (h : Handle) (cf : Reg) (b : Reg) (ty : ElemCode) (s : State) : exec (.aRadd y h cf b ty) s = execARadd y h cf b ty s := rfl
@[simp] theorem exec_aRfadd (y : BitVec 4) (d : Reg) (h : Handle) (cf : Reg) (b : Reg) (ty : ElemCode) (s : State) : exec (.aRfadd y d h cf b ty) s = execARfadd y d h cf b ty s := rfl
@[simp] theorem exec_aRcas (y : BitVec 4) (d : Reg) (h : Handle) (cf : Reg) (b : Reg) (x : Reg) (ty : ElemCode) (o : BitVec 2) (sc : BitVec 2) (s : State) : exec (.aRcas y d h cf b x ty o sc) s = execARcas y d h cf b x ty o sc s := rfl
@[simp] theorem exec_aFfence (y : BitVec 4) (s : State) : exec (.aFfence y) s = execAFfence y s := rfl
@[simp] theorem exec_aAllred (y : BitVec 4) (qual : BitVec 4) (d : Reg) (h : Handle) (cf : Reg) (b : Reg) (x : Reg) (ty : ElemCode) (s : State) : exec (.aAllred y qual d h cf b x ty) s = execAAllred y qual d h cf b x ty s := rfl
@[simp] theorem exec_aRedscat (y : BitVec 4) (qual : BitVec 4) (d : Reg) (h : Handle) (cf : Reg) (b : Reg) (x : Reg) (ty : ElemCode) (s : State) : exec (.aRedscat y qual d h cf b x ty) s = execARedscat y qual d h cf b x ty s := rfl
@[simp] theorem exec_aAllgath (y : BitVec 4) (qual : BitVec 4) (d : Reg) (h : Handle) (cf : Reg) (b : Reg) (x : Reg) (ty : ElemCode) (s : State) : exec (.aAllgath y qual d h cf b x ty) s = execAAllgath y qual d h cf b x ty s := rfl
@[simp] theorem exec_aBcast (y : BitVec 4) (qual : BitVec 4) (d : Reg) (h : Handle) (cf : Reg) (b : Reg) (x : Reg) (ty : ElemCode) (s : State) : exec (.aBcast y qual d h cf b x ty) s = execABcast y qual d h cf b x ty s := rfl
@[simp] theorem exec_xAdd (y : BitVec 4) (d : Reg) (a : Reg) (b : Reg) (s : State) : exec (.xAdd y d a b) s = execXAdd y d a b s := rfl
@[simp] theorem exec_xSub (y : BitVec 4) (d : Reg) (a : Reg) (b : Reg) (s : State) : exec (.xSub y d a b) s = execXSub y d a b s := rfl
@[simp] theorem exec_xAnd (y : BitVec 4) (d : Reg) (a : Reg) (b : Reg) (s : State) : exec (.xAnd y d a b) s = execXAnd y d a b s := rfl
@[simp] theorem exec_xOr (y : BitVec 4) (d : Reg) (a : Reg) (b : Reg) (s : State) : exec (.xOr y d a b) s = execXOr y d a b s := rfl
@[simp] theorem exec_xXor (y : BitVec 4) (d : Reg) (a : Reg) (b : Reg) (s : State) : exec (.xXor y d a b) s = execXXor y d a b s := rfl
@[simp] theorem exec_xShl (y : BitVec 4) (d : Reg) (a : Reg) (b : Reg) (s : State) : exec (.xShl y d a b) s = execXShl y d a b s := rfl
@[simp] theorem exec_xShr (y : BitVec 4) (d : Reg) (a : Reg) (b : Reg) (s : State) : exec (.xShr y d a b) s = execXShr y d a b s := rfl
@[simp] theorem exec_xSra (y : BitVec 4) (d : Reg) (a : Reg) (b : Reg) (s : State) : exec (.xSra y d a b) s = execXSra y d a b s := rfl
@[simp] theorem exec_xMul (y : BitVec 4) (d : Reg) (a : Reg) (b : Reg) (s : State) : exec (.xMul y d a b) s = execXMul y d a b s := rfl
@[simp] theorem exec_xMin (y : BitVec 4) (d : Reg) (a : Reg) (b : Reg) (s : State) : exec (.xMin y d a b) s = execXMin y d a b s := rfl
@[simp] theorem exec_xMax (y : BitVec 4) (d : Reg) (a : Reg) (b : Reg) (s : State) : exec (.xMax y d a b) s = execXMax y d a b s := rfl
@[simp] theorem exec_xAddi (y : BitVec 4) (d : Reg) (a : Reg) (imm : BitVec 32) (s : State) : exec (.xAddi y d a imm) s = execXAddi y d a imm s := rfl
@[simp] theorem exec_xLi (y : BitVec 4) (d : Reg) (imm : BitVec 32) (s : State) : exec (.xLi y d imm) s = execXLi y d imm s := rfl
@[simp] theorem exec_xLui (y : BitVec 4) (d : Reg) (imm : BitVec 32) (s : State) : exec (.xLui y d imm) s = execXLui y d imm s := rfl
@[simp] theorem exec_xCmpeq (y : BitVec 4) (d : CFlag) (a : Reg) (b : Reg) (s : State) : exec (.xCmpeq y d a b) s = execXCmpeq y d a b s := rfl
@[simp] theorem exec_xCmplt (y : BitVec 4) (d : CFlag) (a : Reg) (b : Reg) (s : State) : exec (.xCmplt y d a b) s = execXCmplt y d a b s := rfl
@[simp] theorem exec_xCmple (y : BitVec 4) (d : CFlag) (a : Reg) (b : Reg) (s : State) : exec (.xCmple y d a b) s = execXCmple y d a b s := rfl
@[simp] theorem exec_xBtgt (y : BitVec 4) (d : BtReg) (o : BitVec 32) (s : State) : exec (.xBtgt y d o) s = execXBtgt y d o s := rfl
@[simp] theorem exec_xBtgtReg (y : BitVec 4) (d : BtReg) (a : Reg) (s : State) : exec (.xBtgtReg y d a) s = execXBtgtReg y d a s := rfl
@[simp] theorem exec_xBx (y : BitVec 4) (qual : BitVec 4) (ca : CFlag) (tb : BtReg) (s : State) : exec (.xBx y qual ca tb) s = execXBx y qual ca tb s := rfl
@[simp] theorem exec_xLoop (y : BitVec 4) (a : Reg) (e : BitVec 32) (s : State) : exec (.xLoop y a e) s = execXLoop y a e s := rfl
@[simp] theorem exec_xVany (y : BitVec 4) (qual : BitVec 4) (d : CFlag) (a : PReg) (s : State) : exec (.xVany y qual d a) s = execXVany y qual d a s := rfl
@[simp] theorem exec_xVall (y : BitVec 4) (qual : BitVec 4) (d : CFlag) (a : PReg) (s : State) : exec (.xVall y qual d a) s = execXVall y qual d a s := rfl
@[simp] theorem exec_xPcnt (y : BitVec 4) (d : Reg) (a : PReg) (s : State) : exec (.xPcnt y d a) s = execXPcnt y d a s := rfl
@[simp] theorem exec_xNop (y : BitVec 4) (s : State) : exec (.xNop y) s = execXNop y s := rfl
@[simp] theorem exec_xBound (y : BitVec 4) (a : Reg) (s : State) : exec (.xBound y a) s = execXBound y a s := rfl
@[simp] theorem exec_xEnd (y : BitVec 4) (s : State) : exec (.xEnd y) s = execXEnd y s := rfl
@[simp] theorem exec_xCsrr (y : BitVec 4) (d : Reg) (csr : BitVec 11) (s : State) : exec (.xCsrr y d csr) s = execXCsrr y d csr s := rfl
@[simp] theorem exec_xCsrw (y : BitVec 4) (a : Reg) (csr : BitVec 11) (s : State) : exec (.xCsrw y a csr) s = execXCsrw y a csr s := rfl
@[simp] theorem exec_xVpop (y : BitVec 4) (d : VReg) (q : LqNum) (s : State) : exec (.xVpop y d q) s = execXVpop y d q s := rfl
@[simp] theorem exec_xVpops (y : BitVec 4) (d : VReg) (q : LqNum) (s : State) : exec (.xVpops y d q) s = execXVpops y d q s := rfl
@[simp] theorem exec_xVpush (y : BitVec 4) (a : VReg) (s : State) : exec (.xVpush y a) s = execXVpush y a s := rfl
@[simp] theorem exec_xXpush (y : BitVec 4) (a : Reg) (s : State) : exec (.xXpush y a) s = execXXpush y a s := rfl
@[simp] theorem exec_xOpop (y : BitVec 4) (d : CFlag) (s : State) : exec (.xOpop y d) s = execXOpop y d s := rfl
@[simp] theorem exec_xOpush (y : BitVec 4) (a : CFlag) (s : State) : exec (.xOpush y a) s = execXOpush y a s := rfl
@[simp] theorem exec_xVadd (y : BitVec 4) (d : VReg) (a : VReg) (b : VReg) (g : PReg) (ty : ElemCode) (s : State) : exec (.xVadd y d a b g ty) s = execXVadd y d a b g ty s := rfl
@[simp] theorem exec_xVsub (y : BitVec 4) (d : VReg) (a : VReg) (b : VReg) (g : PReg) (ty : ElemCode) (s : State) : exec (.xVsub y d a b g ty) s = execXVsub y d a b g ty s := rfl
@[simp] theorem exec_xVmul (y : BitVec 4) (d : VReg) (a : VReg) (b : VReg) (g : PReg) (ty : ElemCode) (s : State) : exec (.xVmul y d a b g ty) s = execXVmul y d a b g ty s := rfl
@[simp] theorem exec_xVmulh (y : BitVec 4) (d : VReg) (a : VReg) (b : VReg) (g : PReg) (ty : ElemCode) (s : State) : exec (.xVmulh y d a b g ty) s = execXVmulh y d a b g ty s := rfl
@[simp] theorem exec_xVand (y : BitVec 4) (d : VReg) (a : VReg) (b : VReg) (g : PReg) (ty : ElemCode) (s : State) : exec (.xVand y d a b g ty) s = execXVand y d a b g ty s := rfl
@[simp] theorem exec_xVor (y : BitVec 4) (d : VReg) (a : VReg) (b : VReg) (g : PReg) (ty : ElemCode) (s : State) : exec (.xVor y d a b g ty) s = execXVor y d a b g ty s := rfl
@[simp] theorem exec_xVxor (y : BitVec 4) (d : VReg) (a : VReg) (b : VReg) (g : PReg) (ty : ElemCode) (s : State) : exec (.xVxor y d a b g ty) s = execXVxor y d a b g ty s := rfl
@[simp] theorem exec_xVshl (y : BitVec 4) (d : VReg) (a : VReg) (b : VReg) (g : PReg) (ty : ElemCode) (s : State) : exec (.xVshl y d a b g ty) s = execXVshl y d a b g ty s := rfl
@[simp] theorem exec_xVshr (y : BitVec 4) (d : VReg) (a : VReg) (b : VReg) (g : PReg) (ty : ElemCode) (s : State) : exec (.xVshr y d a b g ty) s = execXVshr y d a b g ty s := rfl
@[simp] theorem exec_xVsra (y : BitVec 4) (d : VReg) (a : VReg) (b : VReg) (g : PReg) (ty : ElemCode) (s : State) : exec (.xVsra y d a b g ty) s = execXVsra y d a b g ty s := rfl
@[simp] theorem exec_xVmin (y : BitVec 4) (d : VReg) (a : VReg) (b : VReg) (g : PReg) (ty : ElemCode) (s : State) : exec (.xVmin y d a b g ty) s = execXVmin y d a b g ty s := rfl
@[simp] theorem exec_xVmax (y : BitVec 4) (d : VReg) (a : VReg) (b : VReg) (g : PReg) (ty : ElemCode) (s : State) : exec (.xVmax y d a b g ty) s = execXVmax y d a b g ty s := rfl
@[simp] theorem exec_xVabs (y : BitVec 4) (d : VReg) (a : VReg) (g : PReg) (ty : ElemCode) (s : State) : exec (.xVabs y d a g ty) s = execXVabs y d a g ty s := rfl
@[simp] theorem exec_xVfadd (y : BitVec 4) (d : VReg) (a : VReg) (b : VReg) (g : PReg) (ty : ElemCode) (rnd : BitVec 2) (s : State) : exec (.xVfadd y d a b g ty rnd) s = execXVfadd y d a b g ty rnd s := rfl
@[simp] theorem exec_xVfsub (y : BitVec 4) (d : VReg) (a : VReg) (b : VReg) (g : PReg) (ty : ElemCode) (rnd : BitVec 2) (s : State) : exec (.xVfsub y d a b g ty rnd) s = execXVfsub y d a b g ty rnd s := rfl
@[simp] theorem exec_xVfmul (y : BitVec 4) (d : VReg) (a : VReg) (b : VReg) (g : PReg) (ty : ElemCode) (rnd : BitVec 2) (s : State) : exec (.xVfmul y d a b g ty rnd) s = execXVfmul y d a b g ty rnd s := rfl
@[simp] theorem exec_xVfma (y : BitVec 4) (d : VReg) (a : VReg) (b : VReg) (vc : VReg) (g : PReg) (ty : ElemCode) (rnd : BitVec 2) (s : State) : exec (.xVfma y d a b vc g ty rnd) s = execXVfma y d a b vc g ty rnd s := rfl
@[simp] theorem exec_xVfms (y : BitVec 4) (d : VReg) (a : VReg) (b : VReg) (vc : VReg) (g : PReg) (ty : ElemCode) (rnd : BitVec 2) (s : State) : exec (.xVfms y d a b vc g ty rnd) s = execXVfms y d a b vc g ty rnd s := rfl
@[simp] theorem exec_xVfnma (y : BitVec 4) (d : VReg) (a : VReg) (b : VReg) (vc : VReg) (g : PReg) (ty : ElemCode) (rnd : BitVec 2) (s : State) : exec (.xVfnma y d a b vc g ty rnd) s = execXVfnma y d a b vc g ty rnd s := rfl
@[simp] theorem exec_xVfnms (y : BitVec 4) (d : VReg) (a : VReg) (b : VReg) (vc : VReg) (g : PReg) (ty : ElemCode) (rnd : BitVec 2) (s : State) : exec (.xVfnms y d a b vc g ty rnd) s = execXVfnms y d a b vc g ty rnd s := rfl
@[simp] theorem exec_xVfmin (y : BitVec 4) (d : VReg) (a : VReg) (b : VReg) (g : PReg) (ty : ElemCode) (rnd : BitVec 2) (s : State) : exec (.xVfmin y d a b g ty rnd) s = execXVfmin y d a b g ty rnd s := rfl
@[simp] theorem exec_xVfmax (y : BitVec 4) (d : VReg) (a : VReg) (b : VReg) (g : PReg) (ty : ElemCode) (rnd : BitVec 2) (s : State) : exec (.xVfmax y d a b g ty rnd) s = execXVfmax y d a b g ty rnd s := rfl
@[simp] theorem exec_xVfabs (y : BitVec 4) (d : VReg) (a : VReg) (g : PReg) (ty : ElemCode) (rnd : BitVec 2) (s : State) : exec (.xVfabs y d a g ty rnd) s = execXVfabs y d a g ty rnd s := rfl
@[simp] theorem exec_xVfneg (y : BitVec 4) (d : VReg) (a : VReg) (g : PReg) (ty : ElemCode) (rnd : BitVec 2) (s : State) : exec (.xVfneg y d a g ty rnd) s = execXVfneg y d a g ty rnd s := rfl
@[simp] theorem exec_xVfdiv (y : BitVec 4) (d : VReg) (a : VReg) (b : VReg) (g : PReg) (ty : ElemCode) (rnd : BitVec 2) (s : State) : exec (.xVfdiv y d a b g ty rnd) s = execXVfdiv y d a b g ty rnd s := rfl
@[simp] theorem exec_xVfsqrt (y : BitVec 4) (d : VReg) (a : VReg) (g : PReg) (ty : ElemCode) (rnd : BitVec 2) (s : State) : exec (.xVfsqrt y d a g ty rnd) s = execXVfsqrt y d a g ty rnd s := rfl
@[simp] theorem exec_xVfrcp (y : BitVec 4) (d : VReg) (a : VReg) (g : PReg) (ty : ElemCode) (rnd : BitVec 2) (s : State) : exec (.xVfrcp y d a g ty rnd) s = execXVfrcp y d a g ty rnd s := rfl
@[simp] theorem exec_xVfexp2 (y : BitVec 4) (d : VReg) (a : VReg) (g : PReg) (ty : ElemCode) (rnd : BitVec 2) (s : State) : exec (.xVfexp2 y d a g ty rnd) s = execXVfexp2 y d a g ty rnd s := rfl
@[simp] theorem exec_xVflog2 (y : BitVec 4) (d : VReg) (a : VReg) (g : PReg) (ty : ElemCode) (rnd : BitVec 2) (s : State) : exec (.xVflog2 y d a g ty rnd) s = execXVflog2 y d a g ty rnd s := rfl
@[simp] theorem exec_xVftanh (y : BitVec 4) (d : VReg) (a : VReg) (g : PReg) (ty : ElemCode) (rnd : BitVec 2) (s : State) : exec (.xVftanh y d a g ty rnd) s = execXVftanh y d a g ty rnd s := rfl
@[simp] theorem exec_xVfsigm (y : BitVec 4) (d : VReg) (a : VReg) (g : PReg) (ty : ElemCode) (rnd : BitVec 2) (s : State) : exec (.xVfsigm y d a g ty rnd) s = execXVfsigm y d a g ty rnd s := rfl
@[simp] theorem exec_xVcmp (y : BitVec 4) (qual : BitVec 4) (d : PReg) (a : VReg) (b : VReg) (g : PReg) (ty : ElemCode) (s : State) : exec (.xVcmp y qual d a b g ty) s = execXVcmp y qual d a b g ty s := rfl
@[simp] theorem exec_xVfcmp (y : BitVec 4) (qual : BitVec 4) (d : PReg) (a : VReg) (b : VReg) (g : PReg) (ty : ElemCode) (s : State) : exec (.xVfcmp y qual d a b g ty) s = execXVfcmp y qual d a b g ty s := rfl
@[simp] theorem exec_xPand (y : BitVec 4) (d : PReg) (a : PReg) (b : PReg) (s : State) : exec (.xPand y d a b) s = execXPand y d a b s := rfl
@[simp] theorem exec_xPor (y : BitVec 4) (d : PReg) (a : PReg) (b : PReg) (s : State) : exec (.xPor y d a b) s = execXPor y d a b s := rfl
@[simp] theorem exec_xPxor (y : BitVec 4) (d : PReg) (a : PReg) (b : PReg) (s : State) : exec (.xPxor y d a b) s = execXPxor y d a b s := rfl
@[simp] theorem exec_xPnot (y : BitVec 4) (d : PReg) (a : PReg) (s : State) : exec (.xPnot y d a) s = execXPnot y d a s := rfl
@[simp] theorem exec_xVsel (y : BitVec 4) (d : VReg) (a : VReg) (b : VReg) (g : PReg) (s : State) : exec (.xVsel y d a b g) s = execXVsel y d a b g s := rfl
@[simp] theorem exec_xVcvtf (y : BitVec 4) (d : VReg) (a : VReg) (src : ElemCode) (g : PReg) (ty : ElemCode) (pol : BitVec 2) (rnd : BitVec 2) (s : State) : exec (.xVcvtf y d a src g ty pol rnd) s = execXVcvtf y d a src g ty pol rnd s := rfl
@[simp] theorem exec_xVcvti (y : BitVec 4) (d : VReg) (a : VReg) (src : ElemCode) (g : PReg) (ty : ElemCode) (pol : BitVec 2) (rnd : BitVec 2) (s : State) : exec (.xVcvti y d a src g ty pol rnd) s = execXVcvti y d a src g ty pol rnd s := rfl
@[simp] theorem exec_xVqnt (y : BitVec 4) (d : VReg) (a : VReg) (b : VReg) (g : PReg) (ty : ElemCode) (pol : BitVec 2) (rnd : BitVec 2) (s : State) : exec (.xVqnt y d a b g ty pol rnd) s = execXVqnt y d a b g ty pol rnd s := rfl
@[simp] theorem exec_xVdqnt (y : BitVec 4) (d : VReg) (a : VReg) (b : VReg) (g : PReg) (ty : ElemCode) (s : State) : exec (.xVdqnt y d a b g ty) s = execXVdqnt y d a b g ty s := rfl
@[simp] theorem exec_xVbcast (y : BitVec 4) (d : VReg) (a : Reg) (g : PReg) (ty : ElemCode) (s : State) : exec (.xVbcast y d a g ty) s = execXVbcast y d a g ty s := rfl
@[simp] theorem exec_xVshuf (y : BitVec 4) (d : VReg) (a : VReg) (b : VReg) (g : PReg) (s : State) : exec (.xVshuf y d a b g) s = execXVshuf y d a b g s := rfl
@[simp] theorem exec_xVrot (y : BitVec 4) (d : VReg) (a : VReg) (g : PReg) (n : BitVec 6) (s : State) : exec (.xVrot y d a g n) s = execXVrot y d a g n s := rfl
@[simp] theorem exec_xVextr (y : BitVec 4) (d : Reg) (a : VReg) (ty : ElemCode) (n : BitVec 6) (s : State) : exec (.xVextr y d a ty n) s = execXVextr y d a ty n s := rfl
@[simp] theorem exec_xVins (y : BitVec 4) (d : VReg) (a : Reg) (ty : ElemCode) (n : BitVec 6) (s : State) : exec (.xVins y d a ty n) s = execXVins y d a ty n s := rfl
@[simp] theorem exec_xVcomp (y : BitVec 4) (d : VReg) (a : VReg) (g : PReg) (s : State) : exec (.xVcomp y d a g) s = execXVcomp y d a g s := rfl
@[simp] theorem exec_xVexp (y : BitVec 4) (d : VReg) (a : VReg) (g : PReg) (s : State) : exec (.xVexp y d a g) s = execXVexp y d a g s := rfl
@[simp] theorem exec_xVrsum (y : BitVec 4) (d : Reg) (a : VReg) (g : PReg) (ty : ElemCode) (s : State) : exec (.xVrsum y d a g ty) s = execXVrsum y d a g ty s := rfl
@[simp] theorem exec_xVrfsum (y : BitVec 4) (d : Reg) (a : VReg) (g : PReg) (ty : ElemCode) (rnd : BitVec 2) (s : State) : exec (.xVrfsum y d a g ty rnd) s = execXVrfsum y d a g ty rnd s := rfl
@[simp] theorem exec_xVrmax (y : BitVec 4) (d : Reg) (a : VReg) (g : PReg) (ty : ElemCode) (s : State) : exec (.xVrmax y d a g ty) s = execXVrmax y d a g ty s := rfl
@[simp] theorem exec_xVrmin (y : BitVec 4) (d : Reg) (a : VReg) (g : PReg) (ty : ElemCode) (s : State) : exec (.xVrmin y d a g ty) s = execXVrmin y d a g ty s := rfl
@[simp] theorem exec_xVsortk (y : BitVec 4) (d : VReg) (a : VReg) (b : VReg) (g : PReg) (ty : ElemCode) (s : State) : exec (.xVsortk y d a b g ty) s = execXVsortk y d a b g ty s := rfl
@[simp] theorem exec_xVsegsum (y : BitVec 4) (d : VReg) (a : VReg) (b : VReg) (g : PReg) (ty : ElemCode) (s : State) : exec (.xVsegsum y d a b g ty) s = execXVsegsum y d a b g ty s := rfl
@[simp] theorem exec_xVtopk (y : BitVec 4) (d : VReg) (a : VReg) (g : PReg) (ty : ElemCode) (k : BitVec 6) (s : State) : exec (.xVtopk y d a g ty k) s = execXVtopk y d a g ty k s := rfl
@[simp] theorem exec_xTapeon (y : BitVec 4) (s : State) : exec (.xTapeon y) s = execXTapeon y s := rfl
@[simp] theorem exec_xTapeoff (y : BitVec 4) (s : State) : exec (.xTapeoff y) s = execXTapeoff y s := rfl
@[simp] theorem exec_xVtape (y : BitVec 4) (a : VReg) (g : PReg) (s : State) : exec (.xVtape y a g) s = execXVtape y a g s := rfl
@[simp] theorem exec_xXtape (y : BitVec 4) (a : Reg) (s : State) : exec (.xXtape y a) s = execXXtape y a s := rfl
@[simp] theorem exec_xPtape (y : BitVec 4) (a : PReg) (s : State) : exec (.xPtape y a) s = execXPtape y a s := rfl
@[simp] theorem exec_xVuntape (y : BitVec 4) (d : VReg) (s : State) : exec (.xVuntape y d) s = execXVuntape y d s := rfl
@[simp] theorem exec_xXuntape (y : BitVec 4) (d : Reg) (s : State) : exec (.xXuntape y d) s = execXXuntape y d s := rfl
@[simp] theorem exec_xPuntape (y : BitVec 4) (d : PReg) (s : State) : exec (.xPuntape y d) s = execXPuntape y d s := rfl
@[simp] theorem exec_xTrev (y : BitVec 4) (s : State) : exec (.xTrev y) s = execXTrev y s := rfl
@[simp] theorem exec_xTmark (y : BitVec 4) (a : Reg) (s : State) : exec (.xTmark y a) s = execXTmark y a s := rfl
@[simp] theorem exec_xTld (y : BitVec 4) (d : TReg) (q : LqNum) (a : Reg) (s : State) : exec (.xTld y d q a) s = execXTld y d q a s := rfl
@[simp] theorem exec_xTst (y : BitVec 4) (ta : TReg) (b : Reg) (s : State) : exec (.xTst y ta b) s = execXTst y ta b s := rfl
@[simp] theorem exec_xTzero (y : BitVec 4) (d : TReg) (s : State) : exec (.xTzero y d) s = execXTzero y d s := rfl
@[simp] theorem exec_xTmovv (y : BitVec 4) (d : VReg) (ta : TReg) (b : Reg) (s : State) : exec (.xTmovv y d ta b) s = execXTmovv y d ta b s := rfl
@[simp] theorem exec_xZld (y : BitVec 4) (d : ZReg) (q : LqNum) (a : Reg) (s : State) : exec (.xZld y d q a) s = execXZld y d q a s := rfl
@[simp] theorem exec_xZst (y : BitVec 4) (za : ZReg) (b : Reg) (s : State) : exec (.xZst y za b) s = execXZst y za b s := rfl
@[simp] theorem exec_xZzero (y : BitVec 4) (d : ZReg) (s : State) : exec (.xZzero y d) s = execXZzero y d s := rfl
@[simp] theorem exec_xZmovv (y : BitVec 4) (d : VReg) (za : ZReg) (b : Reg) (s : State) : exec (.xZmovv y d za b) s = execXZmovv y d za b s := rfl
@[simp] theorem exec_xMma (y : BitVec 4) (d : ZReg) (ta : TReg) (tb : TReg) (wd : Option (BitVec 16)) (s : State) : exec (.xMma y d ta tb wd) s = execXMma y d ta tb wd s := rfl
@[simp] theorem exec_xMmai (y : BitVec 4) (d : ZReg) (ta : TReg) (tb : TReg) (wd : Option (BitVec 16)) (s : State) : exec (.xMmai y d ta tb wd) s = execXMmai y d ta tb wd s := rfl
@[simp] theorem exec_xMmah (y : BitVec 4) (d : ZReg) (ta : TReg) (tb : TReg) (wd : Option (BitVec 16)) (s : State) : exec (.xMmah y d ta tb wd) s = execXMmah y d ta tb wd s := rfl
@[simp] theorem exec_xMmab1 (y : BitVec 4) (d : ZReg) (ta : TReg) (tb : TReg) (wd : Option (BitVec 16)) (s : State) : exec (.xMmab1 y d ta tb wd) s = execXMmab1 y d ta tb wd s := rfl
@[simp] theorem exec_xMmab2 (y : BitVec 4) (d : ZReg) (ta : TReg) (tb : TReg) (vc : VReg) (wd : Option (BitVec 16)) (s : State) : exec (.xMmab2 y d ta tb vc wd) s = execXMmab2 y d ta tb vc wd s := rfl
@[simp] theorem exec_xMmas (y : BitVec 4) (d : ZReg) (ta : TReg) (tb : TReg) (wd : Option (BitVec 16)) (s : State) : exec (.xMmas y d ta tb wd) s = execXMmas y d ta tb wd s := rfl
@[simp] theorem exec_xMmax (y : BitVec 4) (d : ZReg) (ta : TReg) (tb : TReg) (wd : Option (BitVec 16)) (s : State) : exec (.xMmax y d ta tb wd) s = execXMmax y d ta tb wd s := rfl
@[simp] theorem exec_xMman (y : BitVec 4) (d : ZReg) (ta : TReg) (tb : TReg) (wd : Option (BitVec 16)) (s : State) : exec (.xMman y d ta tb wd) s = execXMman y d ta tb wd s := rfl
@[simp] theorem exec_xMmv (y : BitVec 4) (d : ZReg) (ta : TReg) (b : VReg) (wd : Option (BitVec 16)) (s : State) : exec (.xMmv y d ta b wd) s = execXMmv y d ta b wd s := rfl
@[simp] theorem exec_tokenWaitResume (st : StreamId) (s : State) : exec (.tokenWaitResume st) s = execTokenWaitResume st s := rfl
@[simp] theorem exec_queueWaitResume (st : StreamId) (s : State) : exec (.queueWaitResume st) s = execQueueWaitResume st s := rfl
@[simp] theorem exec_slipStallResume (s : State) : exec .slipStallResume s = execSlipStallResume s := rfl
@[simp] theorem exec_scoreboardWaitResume (st : StreamId) (s : State) : exec (.scoreboardWaitResume st) s = execScoreboardWaitResume st s := rfl
@[simp] theorem exec_copySlotFree (s : State) : exec .copySlotFree s = execCopySlotFree s := rfl
@[simp] theorem exec_matrixAcceptResume (s : State) : exec .matrixAcceptResume s = execMatrixAcceptResume s := rfl
@[simp] theorem exec_commitWaitResume (st : StreamId) (s : State) : exec (.commitWaitResume st) s = execCommitWaitResume st s := rfl
@[simp] theorem exec_loadDataArrival (op : Nat) (s : State) : exec (.loadDataArrival op) s = execLoadDataArrival op s := rfl
@[simp] theorem exec_watchdogExpiry (st : StreamId) (s : State) : exec (.watchdogExpiry st) s = execWatchdogExpiry st s := rfl
@[simp] theorem exec_commandBoundExpiry (op : Nat) (s : State) : exec (.commandBoundExpiry op) s = execCommandBoundExpiry op s := rfl
@[simp] theorem exec_sectorCommit (op : Nat) (s : State) : exec (.sectorCommit op) s = execSectorCommit op s := rfl
@[simp] theorem exec_writeTransactionCommit (op : Nat) (s : State) : exec (.writeTransactionCommit op) s = execWriteTransactionCommit op s := rfl
@[simp] theorem exec_copyCompletion (op : Nat) (s : State) : exec (.copyCompletion op) s = execCopyCompletion op s := rfl
@[simp] theorem exec_atomicCommit (op : Nat) (s : State) : exec (.atomicCommit op) s = execAtomicCommit op s := rfl
@[simp] theorem exec_nmUnitUpdate (turn : UnitTurn) (s : State) : exec (.nmUnitUpdate turn) s = execNmUnitUpdate turn s := rfl
@[simp] theorem exec_echoApply (op : Nat) (s : State) : exec (.echoApply op) s = execEchoApply op s := rfl
@[simp] theorem exec_poolPartialReturn (turn : UnitTurn) (s : State) : exec (.poolPartialReturn turn) s = execPoolPartialReturn turn s := rfl
@[simp] theorem exec_attentionPartialReturn (turn : UnitTurn) (s : State) : exec (.attentionPartialReturn turn) s = execAttentionPartialReturn turn s := rfl
@[simp] theorem exec_claimEnd (claim : Nat) (s : State) : exec (.claimEnd claim) s = execClaimEnd claim s := rfl
@[simp] theorem exec_claimTimeout (claim : Nat) (op : Nat) (s : State) : exec (.claimTimeout claim op) s = execClaimTimeout claim op s := rfl
@[simp] theorem exec_dscanBlockRebuild (op : Nat) (s : State) : exec (.dscanBlockRebuild op) s = execDscanBlockRebuild op s := rfl
@[simp] theorem exec_digestFillComplete (op : Nat) (s : State) : exec (.digestFillComplete op) s = execDigestFillComplete op s := rfl
@[simp] theorem exec_digestWritebackEnd (slot : Nat) (s : State) : exec (.digestWritebackEnd slot) s = execDigestWritebackEnd slot s := rfl
@[simp] theorem exec_waitaWake (grove : Nat) (s : State) : exec (.waitaWake grove) s = execWaitaWake grove s := rfl
@[simp] theorem exec_barrierComplete (level : BitVec 2) (s : State) : exec (.barrierComplete level) s = execBarrierComplete level s := rfl
@[simp] theorem exec_matrixOpStart (s : State) : exec .matrixOpStart s = execMatrixOpStart s := rfl
@[simp] theorem exec_matrixOpComplete (s : State) : exec .matrixOpComplete s = execMatrixOpComplete s := rfl
@[simp] theorem exec_drainLimit (s : State) : exec .drainLimit s = execDrainLimit s := rfl
@[simp] theorem exec_trapDelivery (s : State) : exec .trapDelivery s = execTrapDelivery s := rfl
@[simp] theorem exec_doorbell (mailbox : Nat) (s : State) : exec (.doorbell mailbox) s = execDoorbell mailbox s := rfl
@[simp] theorem exec_millisecondTick (s : State) : exec .millisecondTick s = execMillisecondTick s := rfl
@[simp] theorem exec_softPreemptTimeout (launch : Nat) (s : State) : exec (.softPreemptTimeout launch) s = execSoftPreemptTimeout launch s := rfl
@[simp] theorem exec_overlayLoad (launch : Nat) (s : State) : exec (.overlayLoad launch) s = execOverlayLoad launch s := rfl
@[simp] theorem exec_preemptSaveBegin (launch : Nat) (s : State) : exec (.preemptSaveBegin launch) s = execPreemptSaveBegin launch s := rfl
@[simp] theorem exec_saveEnd (launch : Nat) (s : State) : exec (.saveEnd launch) s = execSaveEnd launch s := rfl
@[simp] theorem exec_saveBroken (launch : Nat) (s : State) : exec (.saveBroken launch) s = execSaveBroken launch s := rfl
@[simp] theorem exec_teamRestore (launch : Nat) (s : State) : exec (.teamRestore launch) s = execTeamRestore launch s := rfl
@[simp] theorem exec_budgetExpiry (launch : Nat) (s : State) : exec (.budgetExpiry launch) s = execBudgetExpiry launch s := rfl
@[simp] theorem exec_launchDone (launch : Nat) (s : State) : exec (.launchDone launch) s = execLaunchDone launch s := rfl
@[simp] theorem exec_migrationDrainEnd (mig : Nat) (s : State) : exec (.migrationDrainEnd mig) s = execMigrationDrainEnd mig s := rfl
@[simp] theorem exec_migrationArrival (mig : Nat) (s : State) : exec (.migrationArrival mig) s = execMigrationArrival mig s := rfl
@[simp] theorem exec_rdupInvalidateAck (op : Nat) (s : State) : exec (.rdupInvalidateAck op) s = execRdupInvalidateAck op s := rfl
@[simp] theorem exec_backInvalidateResponse (op : Nat) (s : State) : exec (.backInvalidateResponse op) s = execBackInvalidateResponse op s := rfl
@[simp] theorem exec_remoteAccessArrival (s : State) : exec .remoteAccessArrival s = execRemoteAccessArrival s := rfl
@[simp] theorem exec_fabricAck (s : State) : exec .fabricAck s = execFabricAck s := rfl
@[simp] theorem exec_contributionPacket (s : State) : exec .contributionPacket s = execContributionPacket s := rfl
@[simp] theorem exec_collectiveComplete (op : Nat) (s : State) : exec (.collectiveComplete op) s = execCollectiveComplete op s := rfl
@[simp] theorem exec_collectiveDeadline (op : Nat) (s : State) : exec (.collectiveDeadline op) s = execCollectiveDeadline op s := rfl
@[simp] theorem exec_groupOpen (group : Nat) (s : State) : exec (.groupOpen group) s = execGroupOpen group s := rfl
@[simp] theorem exec_groupClose (group : Nat) (s : State) : exec (.groupClose group) s = execGroupClose group s := rfl
@[simp] theorem exec_groupOpenConfirmed (group : Nat) (s : State) : exec (.groupOpenConfirmed group) s = execGroupOpenConfirmed group s := rfl
@[simp] theorem exec_groupOpenTimeout (group : Nat) (s : State) : exec (.groupOpenTimeout group) s = execGroupOpenTimeout group s := rfl
@[simp] theorem exec_groupCloseComplete (group : Nat) (s : State) : exec (.groupCloseComplete group) s = execGroupCloseComplete group s := rfl
@[simp] theorem exec_sessionReopen (group : Nat) (s : State) : exec (.sessionReopen group) s = execSessionReopen group s := rfl
@[simp] theorem exec_linkBringup (link : Nat) (s : State) : exec (.linkBringup link) s = execLinkBringup link s := rfl
@[simp] theorem exec_linkRekey (link : Nat) (s : State) : exec (.linkRekey link) s = execLinkRekey link s := rfl
@[simp] theorem exec_frameReceive (link : Nat) (s : State) : exec (.frameReceive link) s = execFrameReceive link s := rfl
@[simp] theorem exec_tunnelRetransmit (link : Nat) (s : State) : exec (.tunnelRetransmit link) s = execTunnelRetransmit link s := rfl
@[simp] theorem exec_flitCrcRetry (link : Nat) (s : State) : exec (.flitCrcRetry link) s = execFlitCrcRetry link s := rfl
@[simp] theorem exec_hostMemoryRequest (s : State) : exec .hostMemoryRequest s = execHostMemoryRequest s := rfl
@[simp] theorem exec_hostAtomicop (s : State) : exec .hostAtomicop s = execHostAtomicop s := rfl
@[simp] theorem exec_hostRequestCompletion (op : Nat) (s : State) : exec (.hostRequestCompletion op) s = execHostRequestCompletion op s := rfl
@[simp] theorem exec_attestationRequest (s : State) : exec .attestationRequest s = execAttestationRequest s := rfl
@[simp] theorem exec_hwinRegisterWrite (s : State) : exec .hwinRegisterWrite s = execHwinRegisterWrite s := rfl
@[simp] theorem exec_deviceReset (s : State) : exec .deviceReset s = execDeviceReset s := rfl
@[simp] theorem exec_bootStep (ok : Bool) (s : State) : exec (.bootStep ok) s = execBootStep ok s := rfl
@[simp] theorem exec_securityAlarm (s : State) : exec .securityAlarm s = execSecurityAlarm s := rfl
@[simp] theorem exec_alarmQuietTimeout (s : State) : exec .alarmQuietTimeout s = execAlarmQuietTimeout s := rfl
@[simp] theorem exec_junctionOvertemp (s : State) : exec .junctionOvertemp s = execJunctionOvertemp s := rfl
@[simp] theorem exec_controlParityError (s : State) : exec .controlParityError s = execControlParityError s := rfl
@[simp] theorem exec_patrolScrub (s : State) : exec .patrolScrub s = execPatrolScrub s := rfl
@[simp] theorem exec_stampPatrolVisit (granule : Nat) (s : State) : exec (.stampPatrolVisit granule) s = execStampPatrolVisit granule s := rfl
@[simp] theorem exec_channelFailure (channel : Nat) (s : State) : exec (.channelFailure channel) s = execChannelFailure channel s := rfl
@[simp] theorem exec_channelRetirementEnd (channel : Nat) (s : State) : exec (.channelRetirementEnd channel) s = execChannelRetirementEnd channel s := rfl
@[simp] theorem exec_stampCheckAnswer (op : Nat) (s : State) : exec (.stampCheckAnswer op) s = execStampCheckAnswer op s := rfl
@[simp] theorem exec_registerValueArrival (op : Nat) (s : State) : exec (.registerValueArrival op) s = execRegisterValueArrival op s := rfl
@[simp] theorem exec_saveImageTransferEnd (s : State) : exec .saveImageTransferEnd s = execSaveImageTransferEnd s := rfl

end Sys2Proof.Machine
end

