-- ==== Sys2Proof/Laws/Marks.lean ====
section
/-! SUPPORT. What the marks of registers and queues (R381) change: nothing, where there are none. -/
namespace Sys2Proof.Machine

theorem readsMarked_none {s : State} (h : s.marks = []) (i : Instr) : readsMarked s i = false := by simp [readsMarked, h]

theorem fetchMarked_none {s : State} (h : s.marks = []) (st : StreamId) : fetchMarked st s = false := by simp [fetchMarked, h]

/-- With no marks a turn leaves none, and nothing else changes. -/
theorem settleMarks_none {s t : State} (h : t.marks = []) (i : Option (StreamId × Instr)) : settleMarks s i t = t := by simp [settleMarks, h]

/-- Marks touch nothing but themselves and the operations of the matrix engines. -/
@[simp] theorem settleMarks_mem (s : State) (i : Option (StreamId × Instr)) (t : State) : (settleMarks s i t).mem = t.mem := by
  unfold settleMarks; split <;> rfl

@[simp] theorem settleMarks_flights (s : State) (i : Option (StreamId × Instr)) (t : State) : (settleMarks s i t).flights = t.flights := by
  unfold settleMarks; split <;> rfl

@[simp] theorem settleMarks_nextId (s : State) (i : Option (StreamId × Instr)) (t : State) : (settleMarks s i t).nextId = t.nextId := by
  unfold settleMarks; split <;> rfl

theorem settleMarks_stream (s : State) (i : Option (StreamId × Instr)) (t : State) (st : StreamId) :
    (settleMarks s i t).stream st = t.stream st := by
  unfold settleMarks; split
  · rfl
  · cases st <;> rfl

/-- A mark goes only: a turn adds none. -/
theorem settleMarks_marks_sub (s : State) (i : Option (StreamId × Instr)) (t : State) : ∀ m ∈ (settleMarks s i t).marks, m ∈ t.marks := by
  unfold settleMarks; split
  · exact fun m h => h
  · exact fun m h => (List.mem_filter.mp h).1

end Sys2Proof.Machine
end

