-- ==== Sys2Proof/Laws/Memory.lean ====
section
/-! SUPPORT. The memory: reading after writing, and the canonical form that every operation keeps. -/
namespace Sys2Proof.Machine

theorem Memory.wfFrom_none {m : List Host.Cell} {lo : Option Nat} (h : Memory.wfFrom lo m = true) : Memory.wf m = true := by
  cases m with
  | nil => rfl
  | cons c r =>
    simp only [Memory.wf, Memory.wfFrom, Bool.and_eq_true] at h ⊢
    exact ⟨⟨trivial, h.1.2⟩, h.2⟩

/-- Below the first address nothing is listed. -/
theorem Memory.get_below {m : List Host.Cell} : ∀ {a k : Nat}, Memory.wfFrom (some a) m = true → k ≤ a → Memory.get m k = 0 := by
  induction m with
  | nil => intros; rfl
  | cons c r ih =>
    intro a k h hk
    simp only [Memory.wfFrom, Bool.and_eq_true, decide_eq_true_eq] at h
    have hne : c.1 ≠ k := by omega
    simp only [Memory.get, hne, if_false]
    exact ih h.2 (by omega)

theorem Memory.get_set_from {m : List Host.Cell} (k : Nat) (v : Byte) (j : Nat) :
    ∀ {lo : Option Nat}, Memory.wfFrom lo m = true → Memory.get (Memory.set m k v) j = if j = k then v else Memory.get m j := by
  induction m with
  | nil =>
    intro lo _
    unfold Memory.set
    split
    · next hv => subst hv; simp [Memory.get]
    · by_cases hj : j = k
      · subst hj; simp [Memory.get]
      · simp [Memory.get, hj, Ne.symm hj]
  | cons c r ih =>
    obtain ⟨a, b⟩ := c
    intro lo h
    simp only [Memory.wfFrom, Bool.and_eq_true] at h
    unfold Memory.set
    split
    · next hlt =>
      split
      · next hv =>
        subst hv
        by_cases hj : j = k
        · subst hj
          have hne : a ≠ j := by omega
          simp [Memory.get, hne, Memory.get_below h.2 (Nat.le_of_lt hlt)]
        · simp [hj]
      · by_cases hj : j = k
        · subst hj; simp [Memory.get]
        · simp [Memory.get, hj, Ne.symm hj]
    · split
      · next hlt heq =>
        subst heq
        split
        · next hv =>
          subst hv
          by_cases hj : j = k
          · subst hj; simp [Memory.get_below h.2 (Nat.le_refl j)]
          · simp [Memory.get, hj, Ne.symm hj]
        · by_cases hj : j = k
          · subst hj; simp [Memory.get]
          · simp [Memory.get, hj, Ne.symm hj]
      · next hlt hne =>
        simp only [Memory.get]
        by_cases ha : a = j
        · subst ha; simp [Ne.symm hne]
        · simp only [ha, if_false]
          exact ih h.2

/-- A byte reads what was last written to it. -/
theorem Memory.get_set {m : List Host.Cell} (h : Memory.wf m = true) (k : Nat) (v : Byte) (j : Nat) :
    Memory.get (Memory.set m k v) j = if j = k then v else Memory.get m j := Memory.get_set_from k v j h

theorem Memory.wfFrom_set {m : List Host.Cell} (k : Nat) (v : Byte) :
    ∀ {lo : Option Nat}, Memory.wfFrom lo m = true → (∀ l, lo = some l → l < k) → Memory.wfFrom lo (Memory.set m k v) = true := by
  induction m with
  | nil =>
    intro lo _ hl
    unfold Memory.set
    split
    · rfl
    · next hv =>
      cases lo <;> simp_all [Memory.wfFrom]
  | cons c r ih =>
    obtain ⟨a, b⟩ := c
    intro lo h hl
    simp only [Memory.wfFrom, Bool.and_eq_true] at h
    unfold Memory.set
    split
    · next hlt =>
      split
      · simp only [Memory.wfFrom, Bool.and_eq_true]; exact h
      · next hv =>
        simp only [Memory.wfFrom, Bool.and_eq_true, decide_eq_true_eq]
        refine ⟨⟨?_, by simpa using hv⟩, ⟨hlt, h.1.2⟩, h.2⟩
        cases lo with
        | none => rfl
        | some l => simpa using hl l rfl
    · split
      · next hlt heq =>
        subst heq
        split
        · cases r with
          | nil => rfl
          | cons c r =>
            simp only [Memory.wfFrom, Bool.and_eq_true, decide_eq_true_eq] at h ⊢
            refine ⟨⟨?_, h.2.1.2⟩, h.2.2⟩
            cases lo with
            | none => rfl
            | some l => have := hl l rfl; simp; omega
        · next hv =>
          simp only [Memory.wfFrom, Bool.and_eq_true]
          exact ⟨⟨h.1.1, by simpa using hv⟩, h.2⟩
      · next hlt hne =>
        simp only [Memory.wfFrom, Bool.and_eq_true]
        exact ⟨h.1, ih h.2 (by intro l e; cases e; omega)⟩

theorem Memory.wf_set {m : List Host.Cell} (h : Memory.wf m = true) (k : Nat) (v : Byte) : Memory.wf (Memory.set m k v) = true :=
  Memory.wfFrom_set k v h (by intro l e; cases e)

theorem Memory.wf_setAll {l : List Byte} : ∀ {m : List Host.Cell} (k : Nat), Memory.wf m = true → Memory.wf (Memory.setAll m k l) = true := by
  induction l with
  | nil => intro m k h; exact h
  | cons b r ih => intro m k h; exact ih (k + 1) (Memory.wf_set h k b)

/-- Bytes written together read back, and every other byte reads as before. -/
theorem Memory.get_setAll {l : List Byte} : ∀ {m : List Host.Cell} (k j : Nat), Memory.wf m = true →
    Memory.get (Memory.setAll m k l) j = if k ≤ j ∧ j < k + l.length then l.getD (j - k) 0 else Memory.get m j := by
  induction l with
  | nil =>
    intro m k j _
    have : ¬(k ≤ j ∧ j < k + ([] : List Byte).length) := by simp
    simp only [Memory.setAll, if_neg this]
  | cons b r ih =>
    intro m k j h
    simp only [Memory.setAll]
    rw [ih (k + 1) j (Memory.wf_set h k b), Memory.get_set h]
    by_cases hj : j = k
    · subst hj; simp [show ¬(j + 1 ≤ j) by omega]
    · by_cases h1 : k + 1 ≤ j ∧ j < k + 1 + r.length
      · have h2 : k ≤ j ∧ j < k + (b :: r).length := by simp; omega
        rw [if_pos h1, if_pos h2]
        obtain ⟨n, rfl⟩ : ∃ n, j = k + 1 + n := ⟨j - (k + 1), by omega⟩
        have e1 : k + 1 + n - (k + 1) = n := by omega
        have e2 : k + 1 + n - k = n + 1 := by omega
        rw [e1, e2]; rfl
      · have h2 : ¬(k ≤ j ∧ j < k + (b :: r).length) := by simp at h1 ⊢; omega
        rw [if_neg h1, if_neg h2, if_neg hj]

/-! ### Stores of the module -/

@[simp] theorem State.store_core (s : State) (k : Nat) (d : List Byte) : (s.store k d).core = s.core := rfl
@[simp] theorem State.store_mem (s : State) (k : Nat) (d : List Byte) : (s.store k d).mem = Memory.setAll s.mem k d := rfl
@[simp] theorem State.store_nil (s : State) (k : Nat) : (s.store k []).mem = s.mem := rfl

theorem State.store_memOk {s : State} (h : s.MemOk) (k : Nat) (d : List Byte) : (s.store k d).MemOk := Memory.wf_setAll k h

theorem State.store_get {s : State} (h : s.MemOk) (k : Nat) (d : List Byte) (j : Nat) :
    Memory.get (s.store k d).mem j = if k ≤ j ∧ j < k + d.length then d.getD (j - k) 0 else Memory.get s.mem j :=
  Memory.get_setAll k j h

theorem State.store_elsewhere {s : State} (h : s.MemOk) {k : Nat} {d : List Byte} {j : Nat} (hj : j < k ∨ k + d.length ≤ j) :
    Memory.get (s.store k d).mem j = Memory.get s.mem j := by
  rw [State.store_get h, if_neg (by omega)]

theorem State.store_there {s : State} (h : s.MemOk) {k : Nat} {d : List Byte} {i : Nat} (hi : i < d.length) :
    Memory.get (s.store k d).mem (k + i) = d.getD i 0 := by
  rw [State.store_get h, if_pos (by omega)]
  congr 1; omega

theorem SameMemory.refl (s : State) : SameMemory s s := fun _ => rfl
theorem SameMemory.of_eq {s t : State} (h : t.mem = s.mem) : SameMemory s t := fun k => by rw [h]
theorem SameMemory.trans {s t u : State} (h : SameMemory s t) (g : SameMemory t u) : SameMemory s u := fun k => by rw [g k, h k]

/-! ### Whole ranges given new values -/

theorem Memory.wfFrom_sorted {m : List Host.Cell} {lo : Option Nat} :
    Memory.wfFrom lo m = true ↔ (m.map (·.1)).Pairwise (· < ·) ∧ (∀ c ∈ m, c.2 ≠ 0) ∧ (∀ l, lo = some l → ∀ c ∈ m, l < c.1) := by
  induction m generalizing lo with
  | nil => simp [Memory.wfFrom]
  | cons c r ih =>
    simp only [Memory.wfFrom, Bool.and_eq_true, ih, List.map_cons, List.pairwise_cons, List.mem_map, List.mem_cons]
    constructor
    · rintro ⟨⟨h1, h2⟩, h3, h4, h5⟩
      refine ⟨⟨?_, h3⟩, ?_, ?_⟩
      · rintro a ⟨q, hq, rfl⟩; exact h5 _ rfl q hq
      · rintro q (rfl | hq)
        · simpa using h2
        · exact h4 q hq
      · rintro l rfl q (rfl | hq)
        · simpa using h1
        · have := h5 _ rfl q hq
          have h1' : l < c.1 := by simpa using h1
          omega
    · rintro ⟨⟨h1, h2⟩, h3, h4⟩
      refine ⟨⟨?_, ?_⟩, h2, fun q hq => h3 q (.inr hq), ?_⟩
      · cases lo with
        | none => rfl
        | some l => simpa using h4 l rfl c (.inl rfl)
      · simpa using h3 c (.inl rfl)
      · rintro l e q hq
        cases e
        exact h1 _ ⟨q, hq, rfl⟩

theorem Memory.wf_sorted {m : List Host.Cell} : Memory.wf m = true ↔ (m.map (·.1)).Pairwise (· < ·) ∧ ∀ c ∈ m, c.2 ≠ 0 := by
  rw [Memory.wf, Memory.wfFrom_sorted]; simp

theorem Memory.get_of_mem {m : List Host.Cell} : ∀ {c : Host.Cell}, (m.map (·.1)).Pairwise (· < ·) → c ∈ m → Memory.get m c.1 = c.2 := by
  induction m with
  | nil => intro c _ h; cases h
  | cons e r ih =>
    intro c h hc
    simp only [List.map_cons, List.pairwise_cons, List.mem_map] at h
    rcases List.mem_cons.1 hc with rfl | hc
    · simp [Memory.get]
    · have : e.1 < c.1 := h.1 _ ⟨c, hc, rfl⟩
      have hne : e.1 ≠ c.1 := by omega
      simp only [Memory.get, hne, if_false]
      exact ih h.2 hc

theorem Memory.get_of_absent {m : List Host.Cell} {k : Nat} (h : ∀ c ∈ m, c.1 ≠ k) : Memory.get m k = 0 := by
  induction m with
  | nil => rfl
  | cons e r ih =>
    simp only [Memory.get, h e (by simp), if_false]
    exact ih (fun c hc => h c (by simp [hc]))

theorem Memory.wf_replace {m : List Host.Cell} (h : Memory.wf m = true) (k : Nat) (l : List Byte) : Memory.wf (Memory.replace m k l) = true := by
  rw [Memory.wf_sorted] at h ⊢
  obtain ⟨hs, hz⟩ := h
  have hp : m.Pairwise (fun a b => a.1 < b.1) := by simpa [List.pairwise_map] using hs
  have hi : (l.zipIdx.map (fun p => ((k + p.2, p.1) : Host.Cell))).Pairwise (fun a b => a.1 < b.1) := by
    rw [List.pairwise_map]
    have hr : (l.zipIdx.map Prod.snd).Pairwise (· < ·) := by
      rw [List.zipIdx_map_snd]
      exact List.pairwise_lt_range' ..
    rw [List.pairwise_map] at hr
    exact hr.imp (fun hab => by show k + _ < k + _; omega)
  have hb : ∀ c ∈ l.zipIdx.map (fun p => ((k + p.2, p.1) : Host.Cell)), k ≤ c.1 ∧ c.1 < k + l.length := by
    intro c hc
    obtain ⟨p, hp, rfl⟩ := List.mem_map.1 hc
    obtain ⟨h1, h2, -⟩ := List.mem_zipIdx hp
    simp at h2 ⊢; omega
  constructor
  · unfold Memory.replace
    rw [List.pairwise_map, List.pairwise_append, List.pairwise_append]
    refine ⟨⟨hp.filter _, hi.filter _, ?_⟩, hp.filter _, ?_⟩
    · intro a ha b hb'
      have h1 := (List.mem_filter.1 ha).2
      have h2 := hb b (List.mem_filter.1 hb').1
      simp at h1; omega
    · intro a ha b hb'
      have h2 := (List.mem_filter.1 hb').2
      rcases List.mem_append.1 ha with ha | ha
      · have h1 := (List.mem_filter.1 ha).2
        simp at h1 h2; omega
      · have h1 := hb a (List.mem_filter.1 ha).1
        simp at h2; omega
  · intro c hc
    unfold Memory.replace at hc
    rcases List.mem_append.1 hc with hc | hc
    · rcases List.mem_append.1 hc with hc | hc
      · exact hz c (List.mem_filter.1 hc).1
      · simpa using (List.mem_filter.1 hc).2
    · exact hz c (List.mem_filter.1 hc).1

theorem Memory.get_eq_of_mem_iff {m : List Host.Cell} (h : (m.map (·.1)).Pairwise (· < ·)) {k : Nat} {v : Byte} (hm : (k, v) ∈ m) :
    Memory.get m k = v := Memory.get_of_mem h hm

/-- What `replace` leaves: the new bytes inside the range, the old ones outside it. -/
theorem Memory.get_replace {m : List Host.Cell} (h : Memory.wf m = true) (k : Nat) (l : List Byte) (j : Nat) :
    Memory.get (Memory.replace m k l) j = if k ≤ j ∧ j < k + l.length then l.getD (j - k) 0 else Memory.get m j := by
  have hw := Memory.wf_replace h k l
  have hs := (Memory.wf_sorted.1 hw).1
  have hms := (Memory.wf_sorted.1 h).1
  by_cases hj : k ≤ j ∧ j < k + l.length
  · rw [if_pos hj]
    obtain ⟨i, rfl⟩ : ∃ i, j = k + i := ⟨j - k, by omega⟩
    have hi : i < l.length := by omega
    have e : k + i - k = i := by omega
    rw [e]
    by_cases hv : l.getD i 0 = 0
    · rw [hv]
      apply Memory.get_of_absent
      intro c hc hck
      unfold Memory.replace at hc
      rcases List.mem_append.1 hc with hc | hc
      · rcases List.mem_append.1 hc with hc | hc
        · have := (List.mem_filter.1 hc).2; simp at this; omega
        · have h2 := (List.mem_filter.1 hc).2
          obtain ⟨p, hp, rfl⟩ := List.mem_map.1 (List.mem_filter.1 hc).1
          obtain ⟨-, -, h3⟩ := List.mem_zipIdx hp
          simp at hck h2 h3
          apply h2
          rw [h3]
          simp [List.getElem?_eq_getElem hi] at hv
          simpa [hck] using hv
      · have := (List.mem_filter.1 hc).2; simp at this; omega
    · have hm : ((k + i, l.getD i 0) : Host.Cell) ∈ Memory.replace m k l := by
        unfold Memory.replace
        refine List.mem_append.2 (.inl (List.mem_append.2 (.inr (List.mem_filter.2 ⟨?_, by simpa using hv⟩))))
        refine List.mem_map.2 ⟨(l.getD i 0, i), ?_, rfl⟩
        rw [List.mem_zipIdx_iff_getElem?]
        simp [List.getElem?_eq_getElem hi]
      exact Memory.get_of_mem hs hm
  · rw [if_neg hj]
    by_cases hm : ∃ c ∈ m, c.1 = j
    · obtain ⟨c, hc, rfl⟩ := hm
      rw [Memory.get_of_mem hms hc]
      refine Memory.get_of_mem hs ?_
      unfold Memory.replace
      by_cases hlt : c.1 < k
      · exact List.mem_append.2 (.inl (List.mem_append.2 (.inl (List.mem_filter.2 ⟨hc, by simpa using hlt⟩))))
      · exact List.mem_append.2 (.inr (List.mem_filter.2 ⟨hc, by simp; omega⟩))
    · have ha : ∀ c ∈ m, c.1 ≠ j := fun c hc e => hm ⟨c, hc, e⟩
      rw [Memory.get_of_absent ha]
      apply Memory.get_of_absent
      intro c hc hck
      unfold Memory.replace at hc
      rcases List.mem_append.1 hc with hc | hc
      · rcases List.mem_append.1 hc with hc | hc
        · exact ha c (List.mem_filter.1 hc).1 hck
        · obtain ⟨p, hp, rfl⟩ := List.mem_map.1 (List.mem_filter.1 hc).1
          obtain ⟨-, h2, -⟩ := List.mem_zipIdx hp
          simp at hck h2; omega
      · exact ha c (List.mem_filter.1 hc).1 hck

end Sys2Proof.Machine
end

