-- ==== Sys2Proof/Laws/PerInstr.lean ====
section
/-! SUPPORT. What holds of every instruction as syntax, constructor by constructor. Family Encoding: the fields of the instruction's
row hold its operands, and the row builds the instruction from them again. -/
namespace Sys2Proof
open Sys2Proof.Machine

/-- The operands of an instruction fit the fields of its opcode's row, and the row builds the instruction from them; an event has no row. -/
def Laws.Encoding.Statement (i : Instr) : Prop :=
  match operandsOf i with
  | none => isEvent i = true
  | some (st, op, vs, wd) => ∃ r, rowOf st op = some r ∧ r.op = op ∧ vs.length = r.fields.length ∧
      (∀ p ∈ r.fields.zip vs, p.2 < 2 ^ p.1.width) ∧ (wd.isSome = true → r.ext = true) ∧ r.build vs wd = some i

namespace Laws.Encoding

theorem tokenWaitResume (st : StreamId) : Statement (.tokenWaitResume st) := rfl
theorem queueWaitResume (st : StreamId) : Statement (.queueWaitResume st) := rfl
theorem scoreboardWaitResume (st : StreamId) : Statement (.scoreboardWaitResume st) := rfl
theorem commitWaitResume (st : StreamId) : Statement (.commitWaitResume st) := rfl
theorem loadDataArrival (op : Nat) : Statement (.loadDataArrival op) := rfl
theorem watchdogExpiry (st : StreamId) : Statement (.watchdogExpiry st) := rfl
theorem commandBoundExpiry (op : Nat) : Statement (.commandBoundExpiry op) := rfl
theorem sectorCommit (op : Nat) : Statement (.sectorCommit op) := rfl
theorem writeTransactionCommit (op : Nat) : Statement (.writeTransactionCommit op) := rfl
theorem copyCompletion (op : Nat) : Statement (.copyCompletion op) := rfl
theorem atomicCommit (op : Nat) : Statement (.atomicCommit op) := rfl
theorem nmUnitUpdate (turn : UnitTurn) : Statement (.nmUnitUpdate turn) := rfl
theorem echoApply (op : Nat) : Statement (.echoApply op) := rfl
theorem poolPartialReturn (turn : UnitTurn) : Statement (.poolPartialReturn turn) := rfl
theorem attentionPartialReturn (turn : UnitTurn) : Statement (.attentionPartialReturn turn) := rfl
theorem claimEnd (claim : Nat) : Statement (.claimEnd claim) := rfl
theorem claimTimeout (claim : Nat) (op : Nat) : Statement (.claimTimeout claim op) := rfl
theorem dscanBlockRebuild (op : Nat) : Statement (.dscanBlockRebuild op) := rfl
theorem digestFillComplete (op : Nat) : Statement (.digestFillComplete op) := rfl
theorem digestWritebackEnd (slot : Nat) : Statement (.digestWritebackEnd slot) := rfl
theorem waitaWake (grove : Nat) : Statement (.waitaWake grove) := rfl
theorem barrierComplete (level : BitVec 2) : Statement (.barrierComplete level) := rfl
theorem doorbell (mailbox : Nat) : Statement (.doorbell mailbox) := rfl
theorem softPreemptTimeout (launch : Nat) : Statement (.softPreemptTimeout launch) := rfl
theorem overlayLoad (launch : Nat) : Statement (.overlayLoad launch) := rfl
theorem preemptSaveBegin (launch : Nat) : Statement (.preemptSaveBegin launch) := rfl
theorem saveEnd (launch : Nat) : Statement (.saveEnd launch) := rfl
theorem saveBroken (launch : Nat) : Statement (.saveBroken launch) := rfl
theorem teamRestore (launch : Nat) : Statement (.teamRestore launch) := rfl
theorem budgetExpiry (launch : Nat) : Statement (.budgetExpiry launch) := rfl
theorem launchDone (launch : Nat) : Statement (.launchDone launch) := rfl
theorem migrationDrainEnd (mig : Nat) : Statement (.migrationDrainEnd mig) := rfl
theorem migrationArrival (mig : Nat) : Statement (.migrationArrival mig) := rfl
theorem rdupInvalidateAck (op : Nat) : Statement (.rdupInvalidateAck op) := rfl
theorem backInvalidateResponse (op : Nat) : Statement (.backInvalidateResponse op) := rfl
theorem collectiveComplete (op : Nat) : Statement (.collectiveComplete op) := rfl
theorem collectiveDeadline (op : Nat) : Statement (.collectiveDeadline op) := rfl
theorem groupOpen (group : Nat) : Statement (.groupOpen group) := rfl
theorem groupClose (group : Nat) : Statement (.groupClose group) := rfl
theorem groupOpenConfirmed (group : Nat) : Statement (.groupOpenConfirmed group) := rfl
theorem groupOpenTimeout (group : Nat) : Statement (.groupOpenTimeout group) := rfl
theorem groupCloseComplete (group : Nat) : Statement (.groupCloseComplete group) := rfl
theorem sessionReopen (group : Nat) : Statement (.sessionReopen group) := rfl
theorem linkBringup (link : Nat) : Statement (.linkBringup link) := rfl
theorem linkRekey (link : Nat) : Statement (.linkRekey link) := rfl
theorem frameReceive (link : Nat) : Statement (.frameReceive link) := rfl
theorem tunnelRetransmit (link : Nat) : Statement (.tunnelRetransmit link) := rfl
theorem flitCrcRetry (link : Nat) : Statement (.flitCrcRetry link) := rfl
theorem hostRequestCompletion (op : Nat) : Statement (.hostRequestCompletion op) := rfl
theorem bootStep (ok : Bool) : Statement (.bootStep ok) := rfl
theorem stampPatrolVisit (granule : Nat) : Statement (.stampPatrolVisit granule) := rfl
theorem channelFailure (channel : Nat) : Statement (.channelFailure channel) := rfl
theorem channelRetirementEnd (channel : Nat) : Statement (.channelRetirementEnd channel) := rfl
theorem stampCheckAnswer (op : Nat) : Statement (.stampCheckAnswer op) := rfl
theorem registerValueArrival (op : Nat) : Statement (.registerValueArrival op) := rfl
theorem cAdd (y : BitVec 4) (d : Reg) (a : Reg) (b : Reg) : Statement (.cAdd y d a b) := by
  exact ⟨_, rfl, rfl, rfl, by simp; try omega, nofun, by simp⟩
theorem cSub (y : BitVec 4) (d : Reg) (a : Reg) (b : Reg) : Statement (.cSub y d a b) := by
  exact ⟨_, rfl, rfl, rfl, by simp; try omega, nofun, by simp⟩
theorem cAnd (y : BitVec 4) (d : Reg) (a : Reg) (b : Reg) : Statement (.cAnd y d a b) := by
  exact ⟨_, rfl, rfl, rfl, by simp; try omega, nofun, by simp⟩
theorem cOr (y : BitVec 4) (d : Reg) (a : Reg) (b : Reg) : Statement (.cOr y d a b) := by
  exact ⟨_, rfl, rfl, rfl, by simp; try omega, nofun, by simp⟩
theorem cXor (y : BitVec 4) (d : Reg) (a : Reg) (b : Reg) : Statement (.cXor y d a b) := by
  exact ⟨_, rfl, rfl, rfl, by simp; try omega, nofun, by simp⟩
theorem cShl (y : BitVec 4) (d : Reg) (a : Reg) (b : Reg) : Statement (.cShl y d a b) := by
  exact ⟨_, rfl, rfl, rfl, by simp; try omega, nofun, by simp⟩
theorem cShr (y : BitVec 4) (d : Reg) (a : Reg) (b : Reg) : Statement (.cShr y d a b) := by
  exact ⟨_, rfl, rfl, rfl, by simp; try omega, nofun, by simp⟩
theorem cSra (y : BitVec 4) (d : Reg) (a : Reg) (b : Reg) : Statement (.cSra y d a b) := by
  exact ⟨_, rfl, rfl, rfl, by simp; try omega, nofun, by simp⟩
theorem cMul (y : BitVec 4) (d : Reg) (a : Reg) (b : Reg) : Statement (.cMul y d a b) := by
  exact ⟨_, rfl, rfl, rfl, by simp; try omega, nofun, by simp⟩
theorem cMulh (y : BitVec 4) (d : Reg) (a : Reg) (b : Reg) : Statement (.cMulh y d a b) := by
  exact ⟨_, rfl, rfl, rfl, by simp; try omega, nofun, by simp⟩
theorem cMulhu (y : BitVec 4) (d : Reg) (a : Reg) (b : Reg) : Statement (.cMulhu y d a b) := by
  exact ⟨_, rfl, rfl, rfl, by simp; try omega, nofun, by simp⟩
theorem cDiv (y : BitVec 4) (d : Reg) (a : Reg) (b : Reg) : Statement (.cDiv y d a b) := by
  exact ⟨_, rfl, rfl, rfl, by simp; try omega, nofun, by simp⟩
theorem cRem (y : BitVec 4) (d : Reg) (a : Reg) (b : Reg) : Statement (.cRem y d a b) := by
  exact ⟨_, rfl, rfl, rfl, by simp; try omega, nofun, by simp⟩
theorem cMin (y : BitVec 4) (d : Reg) (a : Reg) (b : Reg) : Statement (.cMin y d a b) := by
  exact ⟨_, rfl, rfl, rfl, by simp; try omega, nofun, by simp⟩
theorem cMax (y : BitVec 4) (d : Reg) (a : Reg) (b : Reg) : Statement (.cMax y d a b) := by
  exact ⟨_, rfl, rfl, rfl, by simp; try omega, nofun, by simp⟩
theorem cAddi (y : BitVec 4) (d : Reg) (a : Reg) (imm : BitVec 11) : Statement (.cAddi y d a imm) := by
  exact ⟨_, rfl, rfl, rfl, by simp; try omega, nofun, by simp⟩
theorem cAndi (y : BitVec 4) (d : Reg) (a : Reg) (imm : BitVec 11) : Statement (.cAndi y d a imm) := by
  exact ⟨_, rfl, rfl, rfl, by simp; try omega, nofun, by simp⟩
theorem cOri (y : BitVec 4) (d : Reg) (a : Reg) (imm : BitVec 11) : Statement (.cOri y d a imm) := by
  exact ⟨_, rfl, rfl, rfl, by simp; try omega, nofun, by simp⟩
theorem cXori (y : BitVec 4) (d : Reg) (a : Reg) (imm : BitVec 11) : Statement (.cXori y d a imm) := by
  exact ⟨_, rfl, rfl, rfl, by simp; try omega, nofun, by simp⟩
theorem cShli (y : BitVec 4) (d : Reg) (a : Reg) (n : BitVec 6) : Statement (.cShli y d a n) := by
  exact ⟨_, rfl, rfl, rfl, by simp; try omega, nofun, by simp⟩
theorem cShri (y : BitVec 4) (d : Reg) (a : Reg) (n : BitVec 6) : Statement (.cShri y d a n) := by
  exact ⟨_, rfl, rfl, rfl, by simp; try omega, nofun, by simp⟩
theorem cSrai (y : BitVec 4) (d : Reg) (a : Reg) (n : BitVec 6) : Statement (.cSrai y d a n) := by
  exact ⟨_, rfl, rfl, rfl, by simp; try omega, nofun, by simp⟩
theorem cLi (y : BitVec 4) (d : Reg) (imm : BitVec 16) : Statement (.cLi y d imm) := by
  exact ⟨_, rfl, rfl, rfl, by simp; try omega, nofun, by simp⟩
theorem cLui (y : BitVec 4) (d : Reg) (imm : BitVec 16) : Statement (.cLui y d imm) := by
  exact ⟨_, rfl, rfl, rfl, by simp; try omega, nofun, by simp⟩
theorem cSeq (y : BitVec 4) (d : Reg) (a : Reg) (b : Reg) : Statement (.cSeq y d a b) := by
  exact ⟨_, rfl, rfl, rfl, by simp; try omega, nofun, by simp⟩
theorem cSne (y : BitVec 4) (d : Reg) (a : Reg) (b : Reg) : Statement (.cSne y d a b) := by
  exact ⟨_, rfl, rfl, rfl, by simp; try omega, nofun, by simp⟩
theorem cSlt (y : BitVec 4) (d : Reg) (a : Reg) (b : Reg) : Statement (.cSlt y d a b) := by
  exact ⟨_, rfl, rfl, rfl, by simp; try omega, nofun, by simp⟩
theorem cSltu (y : BitVec 4) (d : Reg) (a : Reg) (b : Reg) : Statement (.cSltu y d a b) := by
  exact ⟨_, rfl, rfl, rfl, by simp; try omega, nofun, by simp⟩
theorem cSle (y : BitVec 4) (d : Reg) (a : Reg) (b : Reg) : Statement (.cSle y d a b) := by
  exact ⟨_, rfl, rfl, rfl, by simp; try omega, nofun, by simp⟩
theorem cSleu (y : BitVec 4) (d : Reg) (a : Reg) (b : Reg) : Statement (.cSleu y d a b) := by
  exact ⟨_, rfl, rfl, rfl, by simp; try omega, nofun, by simp⟩
theorem cClz (y : BitVec 4) (d : Reg) (a : Reg) : Statement (.cClz y d a) := by
  exact ⟨_, rfl, rfl, rfl, by simp; try omega, nofun, by simp⟩
theorem cPopc (y : BitVec 4) (d : Reg) (a : Reg) : Statement (.cPopc y d a) := by
  exact ⟨_, rfl, rfl, rfl, by simp; try omega, nofun, by simp⟩
theorem cB (y : BitVec 4) (o : BitVec 16) : Statement (.cB y o) := by
  exact ⟨_, rfl, rfl, rfl, by simp; try omega, nofun, by simp⟩
theorem cBeq (y : BitVec 4) (a : Reg) (b : Reg) (o : BitVec 11) : Statement (.cBeq y a b o) := by
  exact ⟨_, rfl, rfl, rfl, by simp; try omega, nofun, by simp⟩
theorem cBne (y : BitVec 4) (a : Reg) (b : Reg) (o : BitVec 11) : Statement (.cBne y a b o) := by
  exact ⟨_, rfl, rfl, rfl, by simp; try omega, nofun, by simp⟩
theorem cBlt (y : BitVec 4) (a : Reg) (b : Reg) (o : BitVec 11) : Statement (.cBlt y a b o) := by
  exact ⟨_, rfl, rfl, rfl, by simp; try omega, nofun, by simp⟩
theorem cBge (y : BitVec 4) (a : Reg) (b : Reg) (o : BitVec 11) : Statement (.cBge y a b o) := by
  exact ⟨_, rfl, rfl, rfl, by simp; try omega, nofun, by simp⟩
theorem cBltu (y : BitVec 4) (a : Reg) (b : Reg) (o : BitVec 11) : Statement (.cBltu y a b o) := by
  exact ⟨_, rfl, rfl, rfl, by simp; try omega, nofun, by simp⟩
theorem cBgeu (y : BitVec 4) (a : Reg) (b : Reg) (o : BitVec 11) : Statement (.cBgeu y a b o) := by
  exact ⟨_, rfl, rfl, rfl, by simp; try omega, nofun, by simp⟩
theorem cCall (y : BitVec 4) (d : Reg) (o : BitVec 16) : Statement (.cCall y d o) := by
  exact ⟨_, rfl, rfl, rfl, by simp; try omega, nofun, by simp⟩
theorem cRet (y : BitVec 4) (a : Reg) : Statement (.cRet y a) := by
  exact ⟨_, rfl, rfl, rfl, by simp; try omega, nofun, by simp⟩
theorem cLoop (y : BitVec 4) (a : Reg) (e : BitVec 16) : Statement (.cLoop y a e) := by
  exact ⟨_, rfl, rfl, rfl, by simp; try omega, nofun, by simp⟩
theorem cCsrr (y : BitVec 4) (d : Reg) (csr : BitVec 11) : Statement (.cCsrr y d csr) := by
  exact ⟨_, rfl, rfl, rfl, by simp; try omega, nofun, by simp⟩
theorem cCsrw (y : BitVec 4) (a : Reg) (csr : BitVec 11) : Statement (.cCsrw y a csr) := by
  exact ⟨_, rfl, rfl, rfl, by simp; try omega, nofun, by simp⟩
theorem cCsrs (y : BitVec 4) (a : Reg) (csr : BitVec 11) : Statement (.cCsrs y a csr) := by
  exact ⟨_, rfl, rfl, rfl, by simp; try omega, nofun, by simp⟩
theorem cCsrc (y : BitVec 4) (a : Reg) (csr : BitVec 11) : Statement (.cCsrc y a csr) := by
  exact ⟨_, rfl, rfl, rfl, by simp; try omega, nofun, by simp⟩
theorem cLdw (y : BitVec 4) (d : Reg) (a : Reg) (o : BitVec 11) : Statement (.cLdw y d a o) := by
  exact ⟨_, rfl, rfl, rfl, by simp; try omega, nofun, by simp⟩
theorem cStw (y : BitVec 4) (d : Reg) (a : Reg) (o : BitVec 11) : Statement (.cStw y d a o) := by
  exact ⟨_, rfl, rfl, rfl, by simp; try omega, nofun, by simp⟩
theorem cFpush (y : BitVec 4) (a : Reg) : Statement (.cFpush y a) := by
  exact ⟨_, rfl, rfl, rfl, by simp; try omega, nofun, by simp⟩
theorem cFpushi (y : BitVec 4) (imm : BitVec 21) : Statement (.cFpushi y imm) := by
  exact ⟨_, rfl, rfl, rfl, by simp; try omega, nofun, by simp⟩
theorem cTshape (y : BitVec 4) (t : BitVec 4) (a : Reg) : Statement (.cTshape y t a) := by
  exact ⟨_, rfl, rfl, rfl, by simp; try omega, nofun, by simp⟩
theorem cSeal (y : BitVec 4) (h : Handle) (a : Reg) : Statement (.cSeal y h a) := by
  exact ⟨_, rfl, rfl, rfl, by simp; try omega, nofun, by simp⟩
theorem cUnseal (y : BitVec 4) (h : Handle) : Statement (.cUnseal y h) := by
  exact ⟨_, rfl, rfl, rfl, by simp; try omega, nofun, by simp⟩
theorem cDbar (y : BitVec 4) (l : BitVec 2) : Statement (.cDbar y l) := by
  exact ⟨_, rfl, rfl, rfl, by simp; try omega, nofun, by simp⟩
theorem cGenf (y : BitVec 4) : Statement (.cGenf y) := by
  exact ⟨_, rfl, rfl, rfl, by simp; try omega, nofun, by simp⟩
theorem cBound (y : BitVec 4) (a : Reg) : Statement (.cBound y a) := by
  exact ⟨_, rfl, rfl, rfl, by simp; try omega, nofun, by simp⟩
theorem cMigrate (y : BitVec 4) (h : Handle) (a : Reg) (b : Reg) (t : Bool) : Statement (.cMigrate y h a b t) := by
  cases t <;> exact ⟨_, rfl, rfl, rfl, by simp; try omega, nofun, by simp⟩
theorem cFence (y : BitVec 4) (o : BitVec 2) (sc : BitVec 2) : Statement (.cFence y o sc) := by
  exact ⟨_, rfl, rfl, rfl, by simp; try omega, nofun, by simp⟩
theorem cFlush (y : BitVec 4) (h : Handle) (a : Reg) (b : Reg) : Statement (.cFlush y h a b) := by
  exact ⟨_, rfl, rfl, rfl, by simp; try omega, nofun, by simp⟩
theorem cTsig (y : BitVec 4) (side : Bool) (n : BitVec 8) : Statement (.cTsig y side n) := by
  cases side <;> exact ⟨_, rfl, rfl, rfl, by simp; try omega, nofun, by simp⟩
theorem cTwait (y : BitVec 4) (side : Bool) (n : BitVec 8) : Statement (.cTwait y side n) := by
  cases side <;> exact ⟨_, rfl, rfl, rfl, by simp; try omega, nofun, by simp⟩
theorem cTapec (y : BitVec 4) (h : Handle) (a : Reg) : Statement (.cTapec y h a) := by
  exact ⟨_, rfl, rfl, rfl, by simp; try omega, nofun, by simp⟩
theorem cTrap (y : BitVec 4) (code : BitVec 16) : Statement (.cTrap y code) := by
  exact ⟨_, rfl, rfl, rfl, by simp; try omega, nofun, by simp⟩
theorem cRtt (y : BitVec 4) : Statement (.cRtt y) := by
  exact ⟨_, rfl, rfl, rfl, by simp; try omega, nofun, by simp⟩
theorem cHalt (y : BitVec 4) : Statement (.cHalt y) := by
  exact ⟨_, rfl, rfl, rfl, by simp; try omega, nofun, by simp⟩
theorem cWfe (y : BitVec 4) : Statement (.cWfe y) := by
  exact ⟨_, rfl, rfl, rfl, by simp; try omega, nofun, by simp⟩
theorem cLttw (y : BitVec 4) (a : Reg) (b : Reg) : Statement (.cLttw y a b) := by
  exact ⟨_, rfl, rfl, rfl, by simp; try omega, nofun, by simp⟩
theorem cLttinv (y : BitVec 4) (a : Reg) : Statement (.cLttinv y a) := by
  exact ⟨_, rfl, rfl, rfl, by simp; try omega, nofun, by simp⟩
theorem cDreg (y : BitVec 4) (a : Reg) (b : Reg) : Statement (.cDreg y a b) := by
  exact ⟨_, rfl, rfl, rfl, by simp; try omega, nofun, by simp⟩
theorem cDfree (y : BitVec 4) (a : Reg) : Statement (.cDfree y a) := by
  exact ⟨_, rfl, rfl, rfl, by simp; try omega, nofun, by simp⟩
theorem cSavec (y : BitVec 4) (a : Reg) (b : Reg) : Statement (.cSavec y a b) := by
  exact ⟨_, rfl, rfl, rfl, by simp; try omega, nofun, by simp⟩
theorem cRestc (y : BitVec 4) (a : Reg) (b : Reg) : Statement (.cRestc y a b) := by
  exact ⟨_, rfl, rfl, rfl, by simp; try omega, nofun, by simp⟩
theorem aAdd (y : BitVec 4) (d : Reg) (a : Reg) (b : Reg) : Statement (.aAdd y d a b) := by
  exact ⟨_, rfl, rfl, rfl, by simp; try omega, nofun, by simp⟩
theorem aSub (y : BitVec 4) (d : Reg) (a : Reg) (b : Reg) : Statement (.aSub y d a b) := by
  exact ⟨_, rfl, rfl, rfl, by simp; try omega, nofun, by simp⟩
theorem aAnd (y : BitVec 4) (d : Reg) (a : Reg) (b : Reg) : Statement (.aAnd y d a b) := by
  exact ⟨_, rfl, rfl, rfl, by simp; try omega, nofun, by simp⟩
theorem aOr (y : BitVec 4) (d : Reg) (a : Reg) (b : Reg) : Statement (.aOr y d a b) := by
  exact ⟨_, rfl, rfl, rfl, by simp; try omega, nofun, by simp⟩
theorem aXor (y : BitVec 4) (d : Reg) (a : Reg) (b : Reg) : Statement (.aXor y d a b) := by
  exact ⟨_, rfl, rfl, rfl, by simp; try omega, nofun, by simp⟩
theorem aShl (y : BitVec 4) (d : Reg) (a : Reg) (b : Reg) : Statement (.aShl y d a b) := by
  exact ⟨_, rfl, rfl, rfl, by simp; try omega, nofun, by simp⟩
theorem aShr (y : BitVec 4) (d : Reg) (a : Reg) (b : Reg) : Statement (.aShr y d a b) := by
  exact ⟨_, rfl, rfl, rfl, by simp; try omega, nofun, by simp⟩
theorem aSra (y : BitVec 4) (d : Reg) (a : Reg) (b : Reg) : Statement (.aSra y d a b) := by
  exact ⟨_, rfl, rfl, rfl, by simp; try omega, nofun, by simp⟩
theorem aMul (y : BitVec 4) (d : Reg) (a : Reg) (b : Reg) : Statement (.aMul y d a b) := by
  exact ⟨_, rfl, rfl, rfl, by simp; try omega, nofun, by simp⟩
theorem aMin (y : BitVec 4) (d : Reg) (a : Reg) (b : Reg) : Statement (.aMin y d a b) := by
  exact ⟨_, rfl, rfl, rfl, by simp; try omega, nofun, by simp⟩
theorem aMax (y : BitVec 4) (d : Reg) (a : Reg) (b : Reg) : Statement (.aMax y d a b) := by
  exact ⟨_, rfl, rfl, rfl, by simp; try omega, nofun, by simp⟩
theorem aSeq (y : BitVec 4) (d : Reg) (a : Reg) (b : Reg) : Statement (.aSeq y d a b) := by
  exact ⟨_, rfl, rfl, rfl, by simp; try omega, nofun, by simp⟩
theorem aSne (y : BitVec 4) (d : Reg) (a : Reg) (b : Reg) : Statement (.aSne y d a b) := by
  exact ⟨_, rfl, rfl, rfl, by simp; try omega, nofun, by simp⟩
theorem aSlt (y : BitVec 4) (d : Reg) (a : Reg) (b : Reg) : Statement (.aSlt y d a b) := by
  exact ⟨_, rfl, rfl, rfl, by simp; try omega, nofun, by simp⟩
theorem aSltu (y : BitVec 4) (d : Reg) (a : Reg) (b : Reg) : Statement (.aSltu y d a b) := by
  exact ⟨_, rfl, rfl, rfl, by simp; try omega, nofun, by simp⟩
theorem aAddi (y : BitVec 4) (d : Reg) (a : Reg) (imm : BitVec 32) : Statement (.aAddi y d a imm) := by
  exact ⟨_, rfl, rfl, rfl, by simp; try omega, nofun, by simp⟩
theorem aAndi (y : BitVec 4) (d : Reg) (a : Reg) (imm : BitVec 32) : Statement (.aAndi y d a imm) := by
  exact ⟨_, rfl, rfl, rfl, by simp; try omega, nofun, by simp⟩
theorem aShli (y : BitVec 4) (d : Reg) (a : Reg) (n : BitVec 6) : Statement (.aShli y d a n) := by
  exact ⟨_, rfl, rfl, rfl, by simp; try omega, nofun, by simp⟩
theorem aShri (y : BitVec 4) (d : Reg) (a : Reg) (n : BitVec 6) : Statement (.aShri y d a n) := by
  exact ⟨_, rfl, rfl, rfl, by simp; try omega, nofun, by simp⟩
theorem aLi (y : BitVec 4) (d : Reg) (imm : BitVec 32) : Statement (.aLi y d imm) := by
  exact ⟨_, rfl, rfl, rfl, by simp; try omega, nofun, by simp⟩
theorem aLui (y : BitVec 4) (d : Reg) (imm : BitVec 32) : Statement (.aLui y d imm) := by
  exact ⟨_, rfl, rfl, rfl, by simp; try omega, nofun, by simp⟩
theorem aB (y : BitVec 4) (o : BitVec 16) : Statement (.aB y o) := by
  exact ⟨_, rfl, rfl, rfl, by simp; try omega, nofun, by simp⟩
theorem aBeq (y : BitVec 4) (a : Reg) (b : Reg) (o : BitVec 16) : Statement (.aBeq y a b o) := by
  exact ⟨_, rfl, rfl, rfl, by simp; try omega, nofun, by simp⟩
theorem aBne (y : BitVec 4) (a : Reg) (b : Reg) (o : BitVec 16) : Statement (.aBne y a b o) := by
  exact ⟨_, rfl, rfl, rfl, by simp; try omega, nofun, by simp⟩
theorem aBlt (y : BitVec 4) (a : Reg) (b : Reg) (o : BitVec 16) : Statement (.aBlt y a b o) := by
  exact ⟨_, rfl, rfl, rfl, by simp; try omega, nofun, by simp⟩
theorem aBge (y : BitVec 4) (a : Reg) (b : Reg) (o : BitVec 16) : Statement (.aBge y a b o) := by
  exact ⟨_, rfl, rfl, rfl, by simp; try omega, nofun, by simp⟩
theorem aBltu (y : BitVec 4) (a : Reg) (b : Reg) (o : BitVec 16) : Statement (.aBltu y a b o) := by
  exact ⟨_, rfl, rfl, rfl, by simp; try omega, nofun, by simp⟩
theorem aBgeu (y : BitVec 4) (a : Reg) (b : Reg) (o : BitVec 16) : Statement (.aBgeu y a b o) := by
  exact ⟨_, rfl, rfl, rfl, by simp; try omega, nofun, by simp⟩
theorem aLoop (y : BitVec 4) (a : Reg) (e : BitVec 16) : Statement (.aLoop y a e) := by
  exact ⟨_, rfl, rfl, rfl, by simp; try omega, nofun, by simp⟩
theorem aBrq (y : BitVec 4) (qual : BitVec 4) (o : BitVec 16) : Statement (.aBrq y qual o) := by
  exact ⟨_, rfl, rfl, rfl, by simp; try omega, nofun, by simp⟩
theorem aOpush (y : BitVec 4) (a : Reg) : Statement (.aOpush y a) := by
  exact ⟨_, rfl, rfl, rfl, by simp; try omega, nofun, by simp⟩
theorem aVqpop (y : BitVec 4) (d : Reg) : Statement (.aVqpop y d) := by
  exact ⟨_, rfl, rfl, rfl, by simp; try omega, nofun, by simp⟩
theorem aBound (y : BitVec 4) (a : Reg) : Statement (.aBound y a) := by
  exact ⟨_, rfl, rfl, rfl, by simp; try omega, nofun, by simp⟩
theorem aEnd (y : BitVec 4) : Statement (.aEnd y) := by
  exact ⟨_, rfl, rfl, rfl, by simp; try omega, nofun, by simp⟩
theorem aNop (y : BitVec 4) : Statement (.aNop y) := by
  exact ⟨_, rfl, rfl, rfl, by simp; try omega, nofun, by simp⟩
theorem aLd8 (y : BitVec 4) (q : LqNum) (h : Handle) (cf : Reg) (b : Reg) (ty : ElemCode) (o : BitVec 2) (sc : BitVec 2) : Statement (.aLd8 y q h cf b ty o sc) := by
  exact ⟨_, rfl, rfl, rfl, by simp; try omega, nofun, by simp⟩
theorem aLd16 (y : BitVec 4) (q : LqNum) (h : Handle) (cf : Reg) (b : Reg) (ty : ElemCode) (o : BitVec 2) (sc : BitVec 2) : Statement (.aLd16 y q h cf b ty o sc) := by
  exact ⟨_, rfl, rfl, rfl, by simp; try omega, nofun, by simp⟩
theorem aLd32 (y : BitVec 4) (q : LqNum) (h : Handle) (cf : Reg) (b : Reg) (ty : ElemCode) (o : BitVec 2) (sc : BitVec 2) : Statement (.aLd32 y q h cf b ty o sc) := by
  exact ⟨_, rfl, rfl, rfl, by simp; try omega, nofun, by simp⟩
theorem aLd64 (y : BitVec 4) (q : LqNum) (h : Handle) (cf : Reg) (b : Reg) (ty : ElemCode) (o : BitVec 2) (sc : BitVec 2) : Statement (.aLd64 y q h cf b ty o sc) := by
  exact ⟨_, rfl, rfl, rfl, by simp; try omega, nofun, by simp⟩
theorem aSt8 (y : BitVec 4) (h : Handle) (cf : Reg) (b : Reg) (ty : ElemCode) (o : BitVec 2) (sc : BitVec 2) : Statement (.aSt8 y h cf b ty o sc) := by
  exact ⟨_, rfl, rfl, rfl, by simp; try omega, nofun, by simp⟩
theorem aSt16 (y : BitVec 4) (h : Handle) (cf : Reg) (b : Reg) (ty : ElemCode) (o : BitVec 2) (sc : BitVec 2) : Statement (.aSt16 y h cf b ty o sc) := by
  exact ⟨_, rfl, rfl, rfl, by simp; try omega, nofun, by simp⟩
theorem aSt32 (y : BitVec 4) (h : Handle) (cf : Reg) (b : Reg) (ty : ElemCode) (o : BitVec 2) (sc : BitVec 2) : Statement (.aSt32 y h cf b ty o sc) := by
  exact ⟨_, rfl, rfl, rfl, by simp; try omega, nofun, by simp⟩
theorem aSt64 (y : BitVec 4) (h : Handle) (cf : Reg) (b : Reg) (ty : ElemCode) (o : BitVec 2) (sc : BitVec 2) : Statement (.aSt64 y h cf b ty o sc) := by
  exact ⟨_, rfl, rfl, rfl, by simp; try omega, nofun, by simp⟩
theorem aLdt (y : BitVec 4) (q : LqNum) (h : Handle) (cf : Reg) : Statement (.aLdt y q h cf) := by
  exact ⟨_, rfl, rfl, rfl, by simp; try omega, nofun, by simp⟩
theorem aStt (y : BitVec 4) (h : Handle) (cf : Reg) : Statement (.aStt y h cf) := by
  exact ⟨_, rfl, rfl, rfl, by simp; try omega, nofun, by simp⟩
theorem aLdi (y : BitVec 4) (q : LqNum) (a : Reg) : Statement (.aLdi y q a) := by
  exact ⟨_, rfl, rfl, rfl, by simp; try omega, nofun, by simp⟩
theorem aLdv (y : BitVec 4) (q : LqNum) (d : Reg) (h : Handle) (cf : Reg) (b : Reg) (o : BitVec 2) (sc : BitVec 2) : Statement (.aLdv y q d h cf b o sc) := by
  exact ⟨_, rfl, rfl, rfl, by simp; try omega, nofun, by simp⟩
theorem aLdvBqa (y : BitVec 4) (q : LqNum) (d : Reg) (h : Handle) (cf : Reg) (b : Reg) (o : BitVec 2) (sc : BitVec 2) : Statement (.aLdvBqa y q d h cf b o sc) := by
  exact ⟨_, rfl, rfl, rfl, by simp; try omega, nofun, by simp⟩
theorem aLda8 (y : BitVec 4) (d : Reg) (h : Handle) (cf : Reg) (ty : ElemCode) (o : BitVec 2) (sc : BitVec 2) : Statement (.aLda8 y d h cf ty o sc) := by
  exact ⟨_, rfl, rfl, rfl, by simp; try omega, nofun, by simp⟩
theorem aLda16 (y : BitVec 4) (d : Reg) (h : Handle) (cf : Reg) (ty : ElemCode) (o : BitVec 2) (sc : BitVec 2) : Statement (.aLda16 y d h cf ty o sc) := by
  exact ⟨_, rfl, rfl, rfl, by simp; try omega, nofun, by simp⟩
theorem aLda32 (y : BitVec 4) (d : Reg) (h : Handle) (cf : Reg) (ty : ElemCode) (o : BitVec 2) (sc : BitVec 2) : Statement (.aLda32 y d h cf ty o sc) := by
  exact ⟨_, rfl, rfl, rfl, by simp; try omega, nofun, by simp⟩
theorem aLda64 (y : BitVec 4) (d : Reg) (h : Handle) (cf : Reg) (ty : ElemCode) (o : BitVec 2) (sc : BitVec 2) : Statement (.aLda64 y d h cf ty o sc) := by
  exact ⟨_, rfl, rfl, rfl, by simp; try omega, nofun, by simp⟩
theorem aSta8 (y : BitVec 4) (h : Handle) (cf : Reg) (b : Reg) (ty : ElemCode) (o : BitVec 2) (sc : BitVec 2) : Statement (.aSta8 y h cf b ty o sc) := by
  exact ⟨_, rfl, rfl, rfl, by simp; try omega, nofun, by simp⟩
theorem aSta16 (y : BitVec 4) (h : Handle) (cf : Reg) (b : Reg) (ty : ElemCode) (o : BitVec 2) (sc : BitVec 2) : Statement (.aSta16 y h cf b ty o sc) := by
  exact ⟨_, rfl, rfl, rfl, by simp; try omega, nofun, by simp⟩
theorem aSta32 (y : BitVec 4) (h : Handle) (cf : Reg) (b : Reg) (ty : ElemCode) (o : BitVec 2) (sc : BitVec 2) : Statement (.aSta32 y h cf b ty o sc) := by
  exact ⟨_, rfl, rfl, rfl, by simp; try omega, nofun, by simp⟩
theorem aSta64 (y : BitVec 4) (h : Handle) (cf : Reg) (b : Reg) (ty : ElemCode) (o : BitVec 2) (sc : BitVec 2) : Statement (.aSta64 y h cf b ty o sc) := by
  exact ⟨_, rfl, rfl, rfl, by simp; try omega, nofun, by simp⟩
theorem aCpy (y : BitVec 4) (tok : ShortReg) (hd : Handle) (dcf : ShortReg) (hs : Handle) (scf : ShortReg) (len : ShortReg) (wd : BitVec 16) : Statement (.aCpy y tok hd dcf hs scf len wd) := by
  exact ⟨_, rfl, rfl, rfl, by simp; try omega, nofun, by simp⟩
theorem aCpy2d (y : BitVec 4) (tok : ShortReg) (hd : Handle) (dcf : ShortReg) (hs : Handle) (scf : ShortReg) (len : ShortReg) (wd : BitVec 16) : Statement (.aCpy2d y tok hd dcf hs scf len wd) := by
  exact ⟨_, rfl, rfl, rfl, by simp; try omega, nofun, by simp⟩
theorem aCpyx (y : BitVec 4) (tok : ShortReg) (hd : Handle) (dcf : ShortReg) (hs : Handle) (scf : ShortReg) (len : ShortReg) (wd : BitVec 16) : Statement (.aCpyx y tok hd dcf hs scf len wd) := by
  exact ⟨_, rfl, rfl, rfl, by simp; try omega, nofun, by simp⟩
theorem aDqry (y : BitVec 4) (qual : BitVec 4) (d : Reg) (h : Handle) (cf : Reg) : Statement (.aDqry y qual d h cf) := by
  exact ⟨_, rfl, rfl, rfl, by simp; try omega, nofun, by simp⟩
theorem aDqryv (y : BitVec 4) (qual : BitVec 4) (q : LqNum) (h : Handle) (cf : Reg) (b : Reg) : Statement (.aDqryv y qual q h cf b) := by
  exact ⟨_, rfl, rfl, rfl, by simp; try omega, nofun, by simp⟩
theorem aDqpf (y : BitVec 4) (h : Handle) (cf : Reg) (b : Reg) : Statement (.aDqpf y h cf b) := by
  exact ⟨_, rfl, rfl, rfl, by simp; try omega, nofun, by simp⟩
theorem aDscan (y : BitVec 4) (h : Handle) (cf : Reg) (b : Reg) : Statement (.aDscan y h cf b) := by
  exact ⟨_, rfl, rfl, rfl, by simp; try omega, nofun, by simp⟩
theorem aFence (y : BitVec 4) (o : BitVec 2) (sc : BitVec 2) : Statement (.aFence y o sc) := by
  exact ⟨_, rfl, rfl, rfl, by simp; try omega, nofun, by simp⟩
theorem aWaita (y : BitVec 4) (h : Handle) (cf : Reg) : Statement (.aWaita y h cf) := by
  exact ⟨_, rfl, rfl, rfl, by simp; try omega, nofun, by simp⟩
theorem aAaddI32 (y : BitVec 4) (h : Handle) (cf : Reg) (b : Reg) (o : BitVec 2) (sc : BitVec 2) : Statement (.aAaddI32 y h cf b o sc) := by
  exact ⟨_, rfl, rfl, rfl, by simp; try omega, nofun, by simp⟩
theorem aAaddI64 (y : BitVec 4) (h : Handle) (cf : Reg) (b : Reg) (o : BitVec 2) (sc : BitVec 2) : Statement (.aAaddI64 y h cf b o sc) := by
  exact ⟨_, rfl, rfl, rfl, by simp; try omega, nofun, by simp⟩
theorem aAaddF32 (y : BitVec 4) (h : Handle) (cf : Reg) (b : Reg) (o : BitVec 2) (sc : BitVec 2) : Statement (.aAaddF32 y h cf b o sc) := by
  exact ⟨_, rfl, rfl, rfl, by simp; try omega, nofun, by simp⟩
theorem aAmin (y : BitVec 4) (h : Handle) (cf : Reg) (b : Reg) (ty : ElemCode) (o : BitVec 2) (sc : BitVec 2) : Statement (.aAmin y h cf b ty o sc) := by
  exact ⟨_, rfl, rfl, rfl, by simp; try omega, nofun, by simp⟩
theorem aAmax (y : BitVec 4) (h : Handle) (cf : Reg) (b : Reg) (ty : ElemCode) (o : BitVec 2) (sc : BitVec 2) : Statement (.aAmax y h cf b ty o sc) := by
  exact ⟨_, rfl, rfl, rfl, by simp; try omega, nofun, by simp⟩
theorem aAand (y : BitVec 4) (h : Handle) (cf : Reg) (b : Reg) (ty : ElemCode) (o : BitVec 2) (sc : BitVec 2) : Statement (.aAand y h cf b ty o sc) := by
  exact ⟨_, rfl, rfl, rfl, by simp; try omega, nofun, by simp⟩
theorem aAor (y : BitVec 4) (h : Handle) (cf : Reg) (b : Reg) (ty : ElemCode) (o : BitVec 2) (sc : BitVec 2) : Statement (.aAor y h cf b ty o sc) := by
  exact ⟨_, rfl, rfl, rfl, by simp; try omega, nofun, by simp⟩
theorem aAxor (y : BitVec 4) (h : Handle) (cf : Reg) (b : Reg) (ty : ElemCode) (o : BitVec 2) (sc : BitVec 2) : Statement (.aAxor y h cf b ty o sc) := by
  exact ⟨_, rfl, rfl, rfl, by simp; try omega, nofun, by simp⟩
theorem aAfaddI32 (y : BitVec 4) (d : Reg) (h : Handle) (cf : Reg) (b : Reg) (o : BitVec 2) (sc : BitVec 2) : Statement (.aAfaddI32 y d h cf b o sc) := by
  exact ⟨_, rfl, rfl, rfl, by simp; try omega, nofun, by simp⟩
theorem aAfaddI64 (y : BitVec 4) (d : Reg) (h : Handle) (cf : Reg) (b : Reg) (o : BitVec 2) (sc : BitVec 2) : Statement (.aAfaddI64 y d h cf b o sc) := by
  exact ⟨_, rfl, rfl, rfl, by simp; try omega, nofun, by simp⟩
theorem aAfaddF32 (y : BitVec 4) (d : Reg) (h : Handle) (cf : Reg) (b : Reg) (o : BitVec 2) (sc : BitVec 2) : Statement (.aAfaddF32 y d h cf b o sc) := by
  exact ⟨_, rfl, rfl, rfl, by simp; try omega, nofun, by simp⟩
theorem aAxchg (y : BitVec 4) (d : Reg) (h : Handle) (cf : Reg) (b : Reg) (ty : ElemCode) (o : BitVec 2) (sc : BitVec 2) : Statement (.aAxchg y d h cf b ty o sc) := by
  exact ⟨_, rfl, rfl, rfl, by simp; try omega, nofun, by simp⟩
theorem aAcas (y : BitVec 4) (d : Reg) (h : Handle) (cf : Reg) (b : Reg) (x : Reg) (ty : ElemCode) (o : BitVec 2) (sc : BitVec 2) : Statement (.aAcas y d h cf b x ty o sc) := by
  exact ⟨_, rfl, rfl, rfl, by simp; try omega, nofun, by simp⟩
theorem aAscat (y : BitVec 4) (h : Handle) (cf : Reg) (b : Reg) (ty : ElemCode) : Statement (.aAscat y h cf b ty) := by
  exact ⟨_, rfl, rfl, rfl, by simp; try omega, nofun, by simp⟩
theorem aNmaddI32 (y : BitVec 4) (h : Handle) (cf : Reg) (b : Reg) : Statement (.aNmaddI32 y h cf b) := by
  exact ⟨_, rfl, rfl, rfl, by simp; try omega, nofun, by simp⟩
theorem aNmaddF32 (y : BitVec 4) (h : Handle) (cf : Reg) (b : Reg) : Statement (.aNmaddF32 y h cf b) := by
  exact ⟨_, rfl, rfl, rfl, by simp; try omega, nofun, by simp⟩
theorem aNmmin (y : BitVec 4) (h : Handle) (cf : Reg) (b : Reg) (ty : ElemCode) : Statement (.aNmmin y h cf b ty) := by
  exact ⟨_, rfl, rfl, rfl, by simp; try omega, nofun, by simp⟩
theorem aNmmax (y : BitVec 4) (h : Handle) (cf : Reg) (b : Reg) (ty : ElemCode) : Statement (.aNmmax y h cf b ty) := by
  exact ⟨_, rfl, rfl, rfl, by simp; try omega, nofun, by simp⟩
theorem aNmfence (y : BitVec 4) : Statement (.aNmfence y) := by
  exact ⟨_, rfl, rfl, rfl, by simp; try omega, nofun, by simp⟩
theorem aEmbag (y : BitVec 4) (q : LqNum) (ha : Handle) (acf : ShortReg) (hb : Handle) (bcf : ShortReg) (n : ShortReg) : Statement (.aEmbag y q ha acf hb bcf n) := by
  exact ⟨_, rfl, rfl, rfl, by simp; try omega, nofun, by simp⟩
theorem aKvatt (y : BitVec 4) (q : LqNum) (ha : Handle) (acf : ShortReg) (hb : Handle) (bcf : ShortReg) (n : ShortReg) : Statement (.aKvatt y q ha acf hb bcf n) := by
  exact ⟨_, rfl, rfl, rfl, by simp; try omega, nofun, by simp⟩
theorem aPut (y : BitVec 4) (tok : ShortReg) (hd : Handle) (dcf : ShortReg) (hs : Handle) (scf : ShortReg) (len : ShortReg) (wd : BitVec 16) : Statement (.aPut y tok hd dcf hs scf len wd) := by
  exact ⟨_, rfl, rfl, rfl, by simp; try omega, nofun, by simp⟩
theorem aPut2d (y : BitVec 4) (tok : ShortReg) (hd : Handle) (dcf : ShortReg) (hs : Handle) (scf : ShortReg) (len : ShortReg) (wd : BitVec 16) : Statement (.aPut2d y tok hd dcf hs scf len wd) := by
  exact ⟨_, rfl, rfl, rfl, by simp; try omega, nofun, by simp⟩
theorem aGet (y : BitVec 4) (tok : ShortReg) (hd : Handle) (dcf : ShortReg) (hs : Handle) (scf : ShortReg) (len : ShortReg) (wd : BitVec 16) : Statement (.aGet y tok hd dcf hs scf len wd) := by
  exact ⟨_, rfl, rfl, rfl, by simp; try omega, nofun, by simp⟩
theorem aGet2d (y : BitVec 4) (tok : ShortReg) (hd : Handle) (dcf : ShortReg) (hs : Handle) (scf : ShortReg) (len : ShortReg) (wd : BitVec 16) : Statement (.aGet2d y tok hd dcf hs scf len wd) := by
  exact ⟨_, rfl, rfl, rfl, by simp; try omega, nofun, by simp⟩
theorem aRadd (y : BitVec 4) (h : Handle) (cf : Reg) (b : Reg) (ty : ElemCode) : Statement (.aRadd y h cf b ty) := by
  exact ⟨_, rfl, rfl, rfl, by simp; try omega, nofun, by simp⟩
theorem aRfadd (y : BitVec 4) (d : Reg) (h : Handle) (cf : Reg) (b : Reg) (ty : ElemCode) : Statement (.aRfadd y d h cf b ty) := by
  exact ⟨_, rfl, rfl, rfl, by simp; try omega, nofun, by simp⟩
theorem aRcas (y : BitVec 4) (d : Reg) (h : Handle) (cf : Reg) (b : Reg) (x : Reg) (ty : ElemCode) (o : BitVec 2) (sc : BitVec 2) : Statement (.aRcas y d h cf b x ty o sc) := by
  exact ⟨_, rfl, rfl, rfl, by simp; try omega, nofun, by simp⟩
theorem aFfence (y : BitVec 4) : Statement (.aFfence y) := by
  exact ⟨_, rfl, rfl, rfl, by simp; try omega, nofun, by simp⟩
theorem aAllred (y : BitVec 4) (qual : BitVec 4) (d : Reg) (h : Handle) (cf : Reg) (b : Reg) (x : Reg) (ty : ElemCode) : Statement (.aAllred y qual d h cf b x ty) := by
  exact ⟨_, rfl, rfl, rfl, by simp; try omega, nofun, by simp⟩
theorem aRedscat (y : BitVec 4) (qual : BitVec 4) (d : Reg) (h : Handle) (cf : Reg) (b : Reg) (x : Reg) (ty : ElemCode) : Statement (.aRedscat y qual d h cf b x ty) := by
  exact ⟨_, rfl, rfl, rfl, by simp; try omega, nofun, by simp⟩
theorem aAllgath (y : BitVec 4) (qual : BitVec 4) (d : Reg) (h : Handle) (cf : Reg) (b : Reg) (x : Reg) (ty : ElemCode) : Statement (.aAllgath y qual d h cf b x ty) := by
  exact ⟨_, rfl, rfl, rfl, by simp; try omega, nofun, by simp⟩
theorem aBcast (y : BitVec 4) (qual : BitVec 4) (d : Reg) (h : Handle) (cf : Reg) (b : Reg) (x : Reg) (ty : ElemCode) : Statement (.aBcast y qual d h cf b x ty) := by
  exact ⟨_, rfl, rfl, rfl, by simp; try omega, nofun, by simp⟩
theorem xAdd (y : BitVec 4) (d : Reg) (a : Reg) (b : Reg) : Statement (.xAdd y d a b) := by
  exact ⟨_, rfl, rfl, rfl, by simp; try omega, nofun, by simp⟩
theorem xSub (y : BitVec 4) (d : Reg) (a : Reg) (b : Reg) : Statement (.xSub y d a b) := by
  exact ⟨_, rfl, rfl, rfl, by simp; try omega, nofun, by simp⟩
theorem xAnd (y : BitVec 4) (d : Reg) (a : Reg) (b : Reg) : Statement (.xAnd y d a b) := by
  exact ⟨_, rfl, rfl, rfl, by simp; try omega, nofun, by simp⟩
theorem xOr (y : BitVec 4) (d : Reg) (a : Reg) (b : Reg) : Statement (.xOr y d a b) := by
  exact ⟨_, rfl, rfl, rfl, by simp; try omega, nofun, by simp⟩
theorem xXor (y : BitVec 4) (d : Reg) (a : Reg) (b : Reg) : Statement (.xXor y d a b) := by
  exact ⟨_, rfl, rfl, rfl, by simp; try omega, nofun, by simp⟩
theorem xShl (y : BitVec 4) (d : Reg) (a : Reg) (b : Reg) : Statement (.xShl y d a b) := by
  exact ⟨_, rfl, rfl, rfl, by simp; try omega, nofun, by simp⟩
theorem xShr (y : BitVec 4) (d : Reg) (a : Reg) (b : Reg) : Statement (.xShr y d a b) := by
  exact ⟨_, rfl, rfl, rfl, by simp; try omega, nofun, by simp⟩
theorem xSra (y : BitVec 4) (d : Reg) (a : Reg) (b : Reg) : Statement (.xSra y d a b) := by
  exact ⟨_, rfl, rfl, rfl, by simp; try omega, nofun, by simp⟩
theorem xMul (y : BitVec 4) (d : Reg) (a : Reg) (b : Reg) : Statement (.xMul y d a b) := by
  exact ⟨_, rfl, rfl, rfl, by simp; try omega, nofun, by simp⟩
theorem xMin (y : BitVec 4) (d : Reg) (a : Reg) (b : Reg) : Statement (.xMin y d a b) := by
  exact ⟨_, rfl, rfl, rfl, by simp; try omega, nofun, by simp⟩
theorem xMax (y : BitVec 4) (d : Reg) (a : Reg) (b : Reg) : Statement (.xMax y d a b) := by
  exact ⟨_, rfl, rfl, rfl, by simp; try omega, nofun, by simp⟩
theorem xAddi (y : BitVec 4) (d : Reg) (a : Reg) (imm : BitVec 32) : Statement (.xAddi y d a imm) := by
  exact ⟨_, rfl, rfl, rfl, by simp; try omega, nofun, by simp⟩
theorem xLi (y : BitVec 4) (d : Reg) (imm : BitVec 32) : Statement (.xLi y d imm) := by
  exact ⟨_, rfl, rfl, rfl, by simp; try omega, nofun, by simp⟩
theorem xLui (y : BitVec 4) (d : Reg) (imm : BitVec 32) : Statement (.xLui y d imm) := by
  exact ⟨_, rfl, rfl, rfl, by simp; try omega, nofun, by simp⟩
theorem xCmpeq (y : BitVec 4) (d : CFlag) (a : Reg) (b : Reg) : Statement (.xCmpeq y d a b) := by
  exact ⟨_, rfl, rfl, rfl, by simp; try omega, nofun, by simp⟩
theorem xCmplt (y : BitVec 4) (d : CFlag) (a : Reg) (b : Reg) : Statement (.xCmplt y d a b) := by
  exact ⟨_, rfl, rfl, rfl, by simp; try omega, nofun, by simp⟩
theorem xCmple (y : BitVec 4) (d : CFlag) (a : Reg) (b : Reg) : Statement (.xCmple y d a b) := by
  exact ⟨_, rfl, rfl, rfl, by simp; try omega, nofun, by simp⟩
theorem xBtgt (y : BitVec 4) (d : BtReg) (o : BitVec 32) : Statement (.xBtgt y d o) := by
  exact ⟨_, rfl, rfl, rfl, by simp; try omega, nofun, by simp⟩
theorem xBtgtReg (y : BitVec 4) (d : BtReg) (a : Reg) : Statement (.xBtgtReg y d a) := by
  exact ⟨_, rfl, rfl, rfl, by simp; try omega, nofun, by simp⟩
theorem xBx (y : BitVec 4) (qual : BitVec 4) (ca : CFlag) (tb : BtReg) : Statement (.xBx y qual ca tb) := by
  exact ⟨_, rfl, rfl, rfl, by simp; try omega, nofun, by simp⟩
theorem xLoop (y : BitVec 4) (a : Reg) (e : BitVec 32) : Statement (.xLoop y a e) := by
  exact ⟨_, rfl, rfl, rfl, by simp; try omega, nofun, by simp⟩
theorem xVany (y : BitVec 4) (qual : BitVec 4) (d : CFlag) (a : PReg) : Statement (.xVany y qual d a) := by
  exact ⟨_, rfl, rfl, rfl, by simp; try omega, nofun, by simp⟩
theorem xVall (y : BitVec 4) (qual : BitVec 4) (d : CFlag) (a : PReg) : Statement (.xVall y qual d a) := by
  exact ⟨_, rfl, rfl, rfl, by simp; try omega, nofun, by simp⟩
theorem xPcnt (y : BitVec 4) (d : Reg) (a : PReg) : Statement (.xPcnt y d a) := by
  exact ⟨_, rfl, rfl, rfl, by simp; try omega, nofun, by simp⟩
theorem xNop (y : BitVec 4) : Statement (.xNop y) := by
  exact ⟨_, rfl, rfl, rfl, by simp; try omega, nofun, by simp⟩
theorem xBound (y : BitVec 4) (a : Reg) : Statement (.xBound y a) := by
  exact ⟨_, rfl, rfl, rfl, by simp; try omega, nofun, by simp⟩
theorem xEnd (y : BitVec 4) : Statement (.xEnd y) := by
  exact ⟨_, rfl, rfl, rfl, by simp; try omega, nofun, by simp⟩
theorem xCsrr (y : BitVec 4) (d : Reg) (csr : BitVec 11) : Statement (.xCsrr y d csr) := by
  exact ⟨_, rfl, rfl, rfl, by simp; try omega, nofun, by simp⟩
theorem xCsrw (y : BitVec 4) (a : Reg) (csr : BitVec 11) : Statement (.xCsrw y a csr) := by
  exact ⟨_, rfl, rfl, rfl, by simp; try omega, nofun, by simp⟩
theorem xVpop (y : BitVec 4) (d : VReg) (q : LqNum) : Statement (.xVpop y d q) := by
  exact ⟨_, rfl, rfl, rfl, by simp; try omega, nofun, by simp⟩
theorem xVpops (y : BitVec 4) (d : VReg) (q : LqNum) : Statement (.xVpops y d q) := by
  exact ⟨_, rfl, rfl, rfl, by simp; try omega, nofun, by simp⟩
theorem xVpush (y : BitVec 4) (a : VReg) : Statement (.xVpush y a) := by
  exact ⟨_, rfl, rfl, rfl, by simp; try omega, nofun, by simp⟩
theorem xXpush (y : BitVec 4) (a : Reg) : Statement (.xXpush y a) := by
  exact ⟨_, rfl, rfl, rfl, by simp; try omega, nofun, by simp⟩
theorem xOpop (y : BitVec 4) (d : CFlag) : Statement (.xOpop y d) := by
  exact ⟨_, rfl, rfl, rfl, by simp; try omega, nofun, by simp⟩
theorem xOpush (y : BitVec 4) (a : CFlag) : Statement (.xOpush y a) := by
  exact ⟨_, rfl, rfl, rfl, by simp; try omega, nofun, by simp⟩
theorem xVadd (y : BitVec 4) (d : VReg) (a : VReg) (b : VReg) (g : PReg) (ty : ElemCode) : Statement (.xVadd y d a b g ty) := by
  exact ⟨_, rfl, rfl, rfl, by simp; try omega, nofun, by simp⟩
theorem xVsub (y : BitVec 4) (d : VReg) (a : VReg) (b : VReg) (g : PReg) (ty : ElemCode) : Statement (.xVsub y d a b g ty) := by
  exact ⟨_, rfl, rfl, rfl, by simp; try omega, nofun, by simp⟩
theorem xVmul (y : BitVec 4) (d : VReg) (a : VReg) (b : VReg) (g : PReg) (ty : ElemCode) : Statement (.xVmul y d a b g ty) := by
  exact ⟨_, rfl, rfl, rfl, by simp; try omega, nofun, by simp⟩
theorem xVmulh (y : BitVec 4) (d : VReg) (a : VReg) (b : VReg) (g : PReg) (ty : ElemCode) : Statement (.xVmulh y d a b g ty) := by
  exact ⟨_, rfl, rfl, rfl, by simp; try omega, nofun, by simp⟩
theorem xVand (y : BitVec 4) (d : VReg) (a : VReg) (b : VReg) (g : PReg) (ty : ElemCode) : Statement (.xVand y d a b g ty) := by
  exact ⟨_, rfl, rfl, rfl, by simp; try omega, nofun, by simp⟩
theorem xVor (y : BitVec 4) (d : VReg) (a : VReg) (b : VReg) (g : PReg) (ty : ElemCode) : Statement (.xVor y d a b g ty) := by
  exact ⟨_, rfl, rfl, rfl, by simp; try omega, nofun, by simp⟩
theorem xVxor (y : BitVec 4) (d : VReg) (a : VReg) (b : VReg) (g : PReg) (ty : ElemCode) : Statement (.xVxor y d a b g ty) := by
  exact ⟨_, rfl, rfl, rfl, by simp; try omega, nofun, by simp⟩
theorem xVshl (y : BitVec 4) (d : VReg) (a : VReg) (b : VReg) (g : PReg) (ty : ElemCode) : Statement (.xVshl y d a b g ty) := by
  exact ⟨_, rfl, rfl, rfl, by simp; try omega, nofun, by simp⟩
theorem xVshr (y : BitVec 4) (d : VReg) (a : VReg) (b : VReg) (g : PReg) (ty : ElemCode) : Statement (.xVshr y d a b g ty) := by
  exact ⟨_, rfl, rfl, rfl, by simp; try omega, nofun, by simp⟩
theorem xVsra (y : BitVec 4) (d : VReg) (a : VReg) (b : VReg) (g : PReg) (ty : ElemCode) : Statement (.xVsra y d a b g ty) := by
  exact ⟨_, rfl, rfl, rfl, by simp; try omega, nofun, by simp⟩
theorem xVmin (y : BitVec 4) (d : VReg) (a : VReg) (b : VReg) (g : PReg) (ty : ElemCode) : Statement (.xVmin y d a b g ty) := by
  exact ⟨_, rfl, rfl, rfl, by simp; try omega, nofun, by simp⟩
theorem xVmax (y : BitVec 4) (d : VReg) (a : VReg) (b : VReg) (g : PReg) (ty : ElemCode) : Statement (.xVmax y d a b g ty) := by
  exact ⟨_, rfl, rfl, rfl, by simp; try omega, nofun, by simp⟩
theorem xVabs (y : BitVec 4) (d : VReg) (a : VReg) (g : PReg) (ty : ElemCode) : Statement (.xVabs y d a g ty) := by
  exact ⟨_, rfl, rfl, rfl, by simp; try omega, nofun, by simp⟩
theorem xVfadd (y : BitVec 4) (d : VReg) (a : VReg) (b : VReg) (g : PReg) (ty : ElemCode) (rnd : BitVec 2) : Statement (.xVfadd y d a b g ty rnd) := by
  exact ⟨_, rfl, rfl, rfl, by simp; try omega, nofun, by simp⟩
theorem xVfsub (y : BitVec 4) (d : VReg) (a : VReg) (b : VReg) (g : PReg) (ty : ElemCode) (rnd : BitVec 2) : Statement (.xVfsub y d a b g ty rnd) := by
  exact ⟨_, rfl, rfl, rfl, by simp; try omega, nofun, by simp⟩
theorem xVfmul (y : BitVec 4) (d : VReg) (a : VReg) (b : VReg) (g : PReg) (ty : ElemCode) (rnd : BitVec 2) : Statement (.xVfmul y d a b g ty rnd) := by
  exact ⟨_, rfl, rfl, rfl, by simp; try omega, nofun, by simp⟩
theorem xVfma (y : BitVec 4) (d : VReg) (a : VReg) (b : VReg) (vc : VReg) (g : PReg) (ty : ElemCode) (rnd : BitVec 2) : Statement (.xVfma y d a b vc g ty rnd) := by
  exact ⟨_, rfl, rfl, rfl, by simp; try omega, nofun, by simp⟩
theorem xVfms (y : BitVec 4) (d : VReg) (a : VReg) (b : VReg) (vc : VReg) (g : PReg) (ty : ElemCode) (rnd : BitVec 2) : Statement (.xVfms y d a b vc g ty rnd) := by
  exact ⟨_, rfl, rfl, rfl, by simp; try omega, nofun, by simp⟩
theorem xVfnma (y : BitVec 4) (d : VReg) (a : VReg) (b : VReg) (vc : VReg) (g : PReg) (ty : ElemCode) (rnd : BitVec 2) : Statement (.xVfnma y d a b vc g ty rnd) := by
  exact ⟨_, rfl, rfl, rfl, by simp; try omega, nofun, by simp⟩
theorem xVfnms (y : BitVec 4) (d : VReg) (a : VReg) (b : VReg) (vc : VReg) (g : PReg) (ty : ElemCode) (rnd : BitVec 2) : Statement (.xVfnms y d a b vc g ty rnd) := by
  exact ⟨_, rfl, rfl, rfl, by simp; try omega, nofun, by simp⟩
theorem xVfmin (y : BitVec 4) (d : VReg) (a : VReg) (b : VReg) (g : PReg) (ty : ElemCode) (rnd : BitVec 2) : Statement (.xVfmin y d a b g ty rnd) := by
  exact ⟨_, rfl, rfl, rfl, by simp; try omega, nofun, by simp⟩
theorem xVfmax (y : BitVec 4) (d : VReg) (a : VReg) (b : VReg) (g : PReg) (ty : ElemCode) (rnd : BitVec 2) : Statement (.xVfmax y d a b g ty rnd) := by
  exact ⟨_, rfl, rfl, rfl, by simp; try omega, nofun, by simp⟩
theorem xVfabs (y : BitVec 4) (d : VReg) (a : VReg) (g : PReg) (ty : ElemCode) (rnd : BitVec 2) : Statement (.xVfabs y d a g ty rnd) := by
  exact ⟨_, rfl, rfl, rfl, by simp; try omega, nofun, by simp⟩
theorem xVfneg (y : BitVec 4) (d : VReg) (a : VReg) (g : PReg) (ty : ElemCode) (rnd : BitVec 2) : Statement (.xVfneg y d a g ty rnd) := by
  exact ⟨_, rfl, rfl, rfl, by simp; try omega, nofun, by simp⟩
theorem xVfdiv (y : BitVec 4) (d : VReg) (a : VReg) (b : VReg) (g : PReg) (ty : ElemCode) (rnd : BitVec 2) : Statement (.xVfdiv y d a b g ty rnd) := by
  exact ⟨_, rfl, rfl, rfl, by simp; try omega, nofun, by simp⟩
theorem xVfsqrt (y : BitVec 4) (d : VReg) (a : VReg) (g : PReg) (ty : ElemCode) (rnd : BitVec 2) : Statement (.xVfsqrt y d a g ty rnd) := by
  exact ⟨_, rfl, rfl, rfl, by simp; try omega, nofun, by simp⟩
theorem xVfrcp (y : BitVec 4) (d : VReg) (a : VReg) (g : PReg) (ty : ElemCode) (rnd : BitVec 2) : Statement (.xVfrcp y d a g ty rnd) := by
  exact ⟨_, rfl, rfl, rfl, by simp; try omega, nofun, by simp⟩
theorem xVfexp2 (y : BitVec 4) (d : VReg) (a : VReg) (g : PReg) (ty : ElemCode) (rnd : BitVec 2) : Statement (.xVfexp2 y d a g ty rnd) := by
  exact ⟨_, rfl, rfl, rfl, by simp; try omega, nofun, by simp⟩
theorem xVflog2 (y : BitVec 4) (d : VReg) (a : VReg) (g : PReg) (ty : ElemCode) (rnd : BitVec 2) : Statement (.xVflog2 y d a g ty rnd) := by
  exact ⟨_, rfl, rfl, rfl, by simp; try omega, nofun, by simp⟩
theorem xVftanh (y : BitVec 4) (d : VReg) (a : VReg) (g : PReg) (ty : ElemCode) (rnd : BitVec 2) : Statement (.xVftanh y d a g ty rnd) := by
  exact ⟨_, rfl, rfl, rfl, by simp; try omega, nofun, by simp⟩
theorem xVfsigm (y : BitVec 4) (d : VReg) (a : VReg) (g : PReg) (ty : ElemCode) (rnd : BitVec 2) : Statement (.xVfsigm y d a g ty rnd) := by
  exact ⟨_, rfl, rfl, rfl, by simp; try omega, nofun, by simp⟩
theorem xVcmp (y : BitVec 4) (qual : BitVec 4) (d : PReg) (a : VReg) (b : VReg) (g : PReg) (ty : ElemCode) : Statement (.xVcmp y qual d a b g ty) := by
  exact ⟨_, rfl, rfl, rfl, by simp; try omega, nofun, by simp⟩
theorem xVfcmp (y : BitVec 4) (qual : BitVec 4) (d : PReg) (a : VReg) (b : VReg) (g : PReg) (ty : ElemCode) : Statement (.xVfcmp y qual d a b g ty) := by
  exact ⟨_, rfl, rfl, rfl, by simp; try omega, nofun, by simp⟩
theorem xPand (y : BitVec 4) (d : PReg) (a : PReg) (b : PReg) : Statement (.xPand y d a b) := by
  exact ⟨_, rfl, rfl, rfl, by simp; try omega, nofun, by simp⟩
theorem xPor (y : BitVec 4) (d : PReg) (a : PReg) (b : PReg) : Statement (.xPor y d a b) := by
  exact ⟨_, rfl, rfl, rfl, by simp; try omega, nofun, by simp⟩
theorem xPxor (y : BitVec 4) (d : PReg) (a : PReg) (b : PReg) : Statement (.xPxor y d a b) := by
  exact ⟨_, rfl, rfl, rfl, by simp; try omega, nofun, by simp⟩
theorem xPnot (y : BitVec 4) (d : PReg) (a : PReg) : Statement (.xPnot y d a) := by
  exact ⟨_, rfl, rfl, rfl, by simp; try omega, nofun, by simp⟩
theorem xVsel (y : BitVec 4) (d : VReg) (a : VReg) (b : VReg) (g : PReg) : Statement (.xVsel y d a b g) := by
  exact ⟨_, rfl, rfl, rfl, by simp; try omega, nofun, by simp⟩
theorem xVcvtf (y : BitVec 4) (d : VReg) (a : VReg) (src : ElemCode) (g : PReg) (ty : ElemCode) (pol : BitVec 2) (rnd : BitVec 2) : Statement (.xVcvtf y d a src g ty pol rnd) := by
  exact ⟨_, rfl, rfl, rfl, by simp; try omega, nofun, by simp⟩
theorem xVcvti (y : BitVec 4) (d : VReg) (a : VReg) (src : ElemCode) (g : PReg) (ty : ElemCode) (pol : BitVec 2) (rnd : BitVec 2) : Statement (.xVcvti y d a src g ty pol rnd) := by
  exact ⟨_, rfl, rfl, rfl, by simp; try omega, nofun, by simp⟩
theorem xVqnt (y : BitVec 4) (d : VReg) (a : VReg) (b : VReg) (g : PReg) (ty : ElemCode) (pol : BitVec 2) (rnd : BitVec 2) : Statement (.xVqnt y d a b g ty pol rnd) := by
  exact ⟨_, rfl, rfl, rfl, by simp; try omega, nofun, by simp⟩
theorem xVdqnt (y : BitVec 4) (d : VReg) (a : VReg) (b : VReg) (g : PReg) (ty : ElemCode) : Statement (.xVdqnt y d a b g ty) := by
  exact ⟨_, rfl, rfl, rfl, by simp; try omega, nofun, by simp⟩
theorem xVbcast (y : BitVec 4) (d : VReg) (a : Reg) (g : PReg) (ty : ElemCode) : Statement (.xVbcast y d a g ty) := by
  exact ⟨_, rfl, rfl, rfl, by simp; try omega, nofun, by simp⟩
theorem xVshuf (y : BitVec 4) (d : VReg) (a : VReg) (b : VReg) (g : PReg) : Statement (.xVshuf y d a b g) := by
  exact ⟨_, rfl, rfl, rfl, by simp; try omega, nofun, by simp⟩
theorem xVrot (y : BitVec 4) (d : VReg) (a : VReg) (g : PReg) (n : BitVec 6) : Statement (.xVrot y d a g n) := by
  exact ⟨_, rfl, rfl, rfl, by simp; try omega, nofun, by simp⟩
theorem xVextr (y : BitVec 4) (d : Reg) (a : VReg) (ty : ElemCode) (n : BitVec 6) : Statement (.xVextr y d a ty n) := by
  exact ⟨_, rfl, rfl, rfl, by simp; try omega, nofun, by simp⟩
theorem xVins (y : BitVec 4) (d : VReg) (a : Reg) (ty : ElemCode) (n : BitVec 6) : Statement (.xVins y d a ty n) := by
  exact ⟨_, rfl, rfl, rfl, by simp; try omega, nofun, by simp⟩
theorem xVcomp (y : BitVec 4) (d : VReg) (a : VReg) (g : PReg) : Statement (.xVcomp y d a g) := by
  exact ⟨_, rfl, rfl, rfl, by simp; try omega, nofun, by simp⟩
theorem xVexp (y : BitVec 4) (d : VReg) (a : VReg) (g : PReg) : Statement (.xVexp y d a g) := by
  exact ⟨_, rfl, rfl, rfl, by simp; try omega, nofun, by simp⟩
theorem xVrsum (y : BitVec 4) (d : Reg) (a : VReg) (g : PReg) (ty : ElemCode) : Statement (.xVrsum y d a g ty) := by
  exact ⟨_, rfl, rfl, rfl, by simp; try omega, nofun, by simp⟩
theorem xVrfsum (y : BitVec 4) (d : Reg) (a : VReg) (g : PReg) (ty : ElemCode) (rnd : BitVec 2) : Statement (.xVrfsum y d a g ty rnd) := by
  exact ⟨_, rfl, rfl, rfl, by simp; try omega, nofun, by simp⟩
theorem xVrmax (y : BitVec 4) (d : Reg) (a : VReg) (g : PReg) (ty : ElemCode) : Statement (.xVrmax y d a g ty) := by
  exact ⟨_, rfl, rfl, rfl, by simp; try omega, nofun, by simp⟩
theorem xVrmin (y : BitVec 4) (d : Reg) (a : VReg) (g : PReg) (ty : ElemCode) : Statement (.xVrmin y d a g ty) := by
  exact ⟨_, rfl, rfl, rfl, by simp; try omega, nofun, by simp⟩
theorem xVsortk (y : BitVec 4) (d : VReg) (a : VReg) (b : VReg) (g : PReg) (ty : ElemCode) : Statement (.xVsortk y d a b g ty) := by
  exact ⟨_, rfl, rfl, rfl, by simp; try omega, nofun, by simp⟩
theorem xVsegsum (y : BitVec 4) (d : VReg) (a : VReg) (b : VReg) (g : PReg) (ty : ElemCode) : Statement (.xVsegsum y d a b g ty) := by
  exact ⟨_, rfl, rfl, rfl, by simp; try omega, nofun, by simp⟩
theorem xVtopk (y : BitVec 4) (d : VReg) (a : VReg) (g : PReg) (ty : ElemCode) (k : BitVec 6) : Statement (.xVtopk y d a g ty k) := by
  exact ⟨_, rfl, rfl, rfl, by simp; try omega, nofun, by simp⟩
theorem xTapeon (y : BitVec 4) : Statement (.xTapeon y) := by
  exact ⟨_, rfl, rfl, rfl, by simp; try omega, nofun, by simp⟩
theorem xTapeoff (y : BitVec 4) : Statement (.xTapeoff y) := by
  exact ⟨_, rfl, rfl, rfl, by simp; try omega, nofun, by simp⟩
theorem xVtape (y : BitVec 4) (a : VReg) (g : PReg) : Statement (.xVtape y a g) := by
  exact ⟨_, rfl, rfl, rfl, by simp; try omega, nofun, by simp⟩
theorem xXtape (y : BitVec 4) (a : Reg) : Statement (.xXtape y a) := by
  exact ⟨_, rfl, rfl, rfl, by simp; try omega, nofun, by simp⟩
theorem xPtape (y : BitVec 4) (a : PReg) : Statement (.xPtape y a) := by
  exact ⟨_, rfl, rfl, rfl, by simp; try omega, nofun, by simp⟩
theorem xVuntape (y : BitVec 4) (d : VReg) : Statement (.xVuntape y d) := by
  exact ⟨_, rfl, rfl, rfl, by simp; try omega, nofun, by simp⟩
theorem xXuntape (y : BitVec 4) (d : Reg) : Statement (.xXuntape y d) := by
  exact ⟨_, rfl, rfl, rfl, by simp; try omega, nofun, by simp⟩
theorem xPuntape (y : BitVec 4) (d : PReg) : Statement (.xPuntape y d) := by
  exact ⟨_, rfl, rfl, rfl, by simp; try omega, nofun, by simp⟩
theorem xTrev (y : BitVec 4) : Statement (.xTrev y) := by
  exact ⟨_, rfl, rfl, rfl, by simp; try omega, nofun, by simp⟩
theorem xTmark (y : BitVec 4) (a : Reg) : Statement (.xTmark y a) := by
  exact ⟨_, rfl, rfl, rfl, by simp; try omega, nofun, by simp⟩
theorem xTld (y : BitVec 4) (d : TReg) (q : LqNum) (a : Reg) : Statement (.xTld y d q a) := by
  exact ⟨_, rfl, rfl, rfl, by simp; try omega, nofun, by simp⟩
theorem xTst (y : BitVec 4) (ta : TReg) (b : Reg) : Statement (.xTst y ta b) := by
  exact ⟨_, rfl, rfl, rfl, by simp; try omega, nofun, by simp⟩
theorem xTzero (y : BitVec 4) (d : TReg) : Statement (.xTzero y d) := by
  exact ⟨_, rfl, rfl, rfl, by simp; try omega, nofun, by simp⟩
theorem xTmovv (y : BitVec 4) (d : VReg) (ta : TReg) (b : Reg) : Statement (.xTmovv y d ta b) := by
  exact ⟨_, rfl, rfl, rfl, by simp; try omega, nofun, by simp⟩
theorem xZld (y : BitVec 4) (d : ZReg) (q : LqNum) (a : Reg) : Statement (.xZld y d q a) := by
  exact ⟨_, rfl, rfl, rfl, by simp; try omega, nofun, by simp⟩
theorem xZst (y : BitVec 4) (za : ZReg) (b : Reg) : Statement (.xZst y za b) := by
  exact ⟨_, rfl, rfl, rfl, by simp; try omega, nofun, by simp⟩
theorem xZzero (y : BitVec 4) (d : ZReg) : Statement (.xZzero y d) := by
  exact ⟨_, rfl, rfl, rfl, by simp; try omega, nofun, by simp⟩
theorem xZmovv (y : BitVec 4) (d : VReg) (za : ZReg) (b : Reg) : Statement (.xZmovv y d za b) := by
  exact ⟨_, rfl, rfl, rfl, by simp; try omega, nofun, by simp⟩
theorem xMma (y : BitVec 4) (d : ZReg) (ta : TReg) (tb : TReg) (wd : Option (BitVec 16)) : Statement (.xMma y d ta tb wd) := by
  exact ⟨_, rfl, rfl, rfl, by simp; try omega, fun _ => rfl, by simp⟩
theorem xMmai (y : BitVec 4) (d : ZReg) (ta : TReg) (tb : TReg) (wd : Option (BitVec 16)) : Statement (.xMmai y d ta tb wd) := by
  exact ⟨_, rfl, rfl, rfl, by simp; try omega, fun _ => rfl, by simp⟩
theorem xMmah (y : BitVec 4) (d : ZReg) (ta : TReg) (tb : TReg) (wd : Option (BitVec 16)) : Statement (.xMmah y d ta tb wd) := by
  exact ⟨_, rfl, rfl, rfl, by simp; try omega, fun _ => rfl, by simp⟩
theorem xMmab1 (y : BitVec 4) (d : ZReg) (ta : TReg) (tb : TReg) (wd : Option (BitVec 16)) : Statement (.xMmab1 y d ta tb wd) := by
  exact ⟨_, rfl, rfl, rfl, by simp; try omega, fun _ => rfl, by simp⟩
theorem xMmab2 (y : BitVec 4) (d : ZReg) (ta : TReg) (tb : TReg) (vc : VReg) (wd : Option (BitVec 16)) : Statement (.xMmab2 y d ta tb vc wd) := by
  exact ⟨_, rfl, rfl, rfl, by simp; try omega, fun _ => rfl, by simp⟩
theorem xMmas (y : BitVec 4) (d : ZReg) (ta : TReg) (tb : TReg) (wd : Option (BitVec 16)) : Statement (.xMmas y d ta tb wd) := by
  exact ⟨_, rfl, rfl, rfl, by simp; try omega, fun _ => rfl, by simp⟩
theorem xMmax (y : BitVec 4) (d : ZReg) (ta : TReg) (tb : TReg) (wd : Option (BitVec 16)) : Statement (.xMmax y d ta tb wd) := by
  exact ⟨_, rfl, rfl, rfl, by simp; try omega, fun _ => rfl, by simp⟩
theorem xMman (y : BitVec 4) (d : ZReg) (ta : TReg) (tb : TReg) (wd : Option (BitVec 16)) : Statement (.xMman y d ta tb wd) := by
  exact ⟨_, rfl, rfl, rfl, by simp; try omega, fun _ => rfl, by simp⟩
theorem xMmv (y : BitVec 4) (d : ZReg) (ta : TReg) (b : VReg) (wd : Option (BitVec 16)) : Statement (.xMmv y d ta b wd) := by
  exact ⟨_, rfl, rfl, rfl, by simp; try omega, fun _ => rfl, by simp⟩
theorem slipStallResume : Statement .slipStallResume := rfl
theorem copySlotFree : Statement .copySlotFree := rfl
theorem matrixAcceptResume : Statement .matrixAcceptResume := rfl
theorem matrixOpStart : Statement .matrixOpStart := rfl
theorem matrixOpComplete : Statement .matrixOpComplete := rfl
theorem drainLimit : Statement .drainLimit := rfl
theorem trapDelivery : Statement .trapDelivery := rfl
theorem millisecondTick : Statement .millisecondTick := rfl
theorem remoteAccessArrival : Statement .remoteAccessArrival := rfl
theorem fabricAck : Statement .fabricAck := rfl
theorem contributionPacket : Statement .contributionPacket := rfl
theorem hostMemoryRequest : Statement .hostMemoryRequest := rfl
theorem hostAtomicop : Statement .hostAtomicop := rfl
theorem attestationRequest : Statement .attestationRequest := rfl
theorem hwinRegisterWrite : Statement .hwinRegisterWrite := rfl
theorem deviceReset : Statement .deviceReset := rfl
theorem securityAlarm : Statement .securityAlarm := rfl
theorem alarmQuietTimeout : Statement .alarmQuietTimeout := rfl
theorem junctionOvertemp : Statement .junctionOvertemp := rfl
theorem controlParityError : Statement .controlParityError := rfl
theorem patrolScrub : Statement .patrolScrub := rfl
theorem saveImageTransferEnd : Statement .saveImageTransferEnd := rfl

end Laws.Encoding

end Sys2Proof
end

