-- ==== Sys2Proof/Tests/Slice0.lean ====
section
/-! SUPPORT. Tests: the words that the spec works out, the encodings of every opcode, ill-formed terms, and for each statement states
and operands that meet its hypotheses. -/
namespace Sys2Proof.Tests
open Sys2Proof.Machine
set_option Elab.async false

/-! ### Words of the spec's encodings (R61–R69): stream, words, instruction -/

/-- Stream, first word, second word, the instruction they stand for. -/
abbrev WordCase := StreamId × Nat × Nat × Instr

/-- The decoder reads the words as the instruction. -/
noncomputable def WordCase.ok (c : WordCase) : Bool := decide ((decodeWord c.1 c.2.1 c.2.2.1).toOption = some c.2.2.2)

def wordsC0 : List WordCase := [
  (.C, 0x60232980, 0, .cAdd 6 3 5 6),
  (.C, 0x60432980, 0, .cSub 6 3 5 6),
  (.C, 0x60632980, 0, .cAnd 6 3 5 6),
  (.C, 0x60832980, 0, .cOr 6 3 5 6),
  (.C, 0x60A32980, 0, .cXor 6 3 5 6),
  (.C, 0x60C32980, 0, .cShl 6 3 5 6),
  (.C, 0x60E32980, 0, .cShr 6 3 5 6),
  (.C, 0x61032980, 0, .cSra 6 3 5 6),
  (.C, 0x61232980, 0, .cMul 6 3 5 6),
  (.C, 0x61432980, 0, .cMulh 6 3 5 6),
  (.C, 0x61632980, 0, .cMulhu 6 3 5 6),
  (.C, 0x61832980, 0, .cDiv 6 3 5 6),
  (.C, 0x61A32980, 0, .cRem 6 3 5 6),
  (.C, 0x61C32980, 0, .cMin 6 3 5 6),
  (.C, 0x61E32980, 0, .cMax 6 3 5 6),
  (.C, 0x62032DA3, 0, .cAddi 6 3 5 0x5a3),
  (.C, 0x62232DA3, 0, .cAndi 6 3 5 0x5a3),
  (.C, 0x62432DA3, 0, .cOri 6 3 5 0x5a3),
  (.C, 0x62632DA3, 0, .cXori 6 3 5 0x5a3),
  (.C, 0x62832829, 0, .cShli 6 3 5 0x29)]

theorem test_wordsC0 : wordsC0.all WordCase.ok = true := by decide +kernel

def wordsC1 : List WordCase := [
  (.C, 0x62A32829, 0, .cShri 6 3 5 0x29),
  (.C, 0x62C32829, 0, .cSrai 6 3 5 0x29),
  (.C, 0x62E3C0DE, 0, .cLi 6 3 0xc0de),
  (.C, 0x6303C0DE, 0, .cLui 6 3 0xc0de),
  (.C, 0x64032980, 0, .cSeq 6 3 5 6),
  (.C, 0x64232980, 0, .cSne 6 3 5 6),
  (.C, 0x64432980, 0, .cSlt 6 3 5 6),
  (.C, 0x64632980, 0, .cSltu 6 3 5 6),
  (.C, 0x64832980, 0, .cSle 6 3 5 6),
  (.C, 0x64A32980, 0, .cSleu 6 3 5 6),
  (.C, 0x64C32800, 0, .cClz 6 3 5),
  (.C, 0x64E32800, 0, .cPopc 6 3 5),
  (.C, 0x660002F5, 0, .cB 6 0x2f5),
  (.C, 0x662532F5, 0, .cBeq 6 5 6 0x2f5),
  (.C, 0x664532F5, 0, .cBne 6 5 6 0x2f5),
  (.C, 0x666532F5, 0, .cBlt 6 5 6 0x2f5),
  (.C, 0x668532F5, 0, .cBge 6 5 6 0x2f5),
  (.C, 0x66A532F5, 0, .cBltu 6 5 6 0x2f5),
  (.C, 0x66C532F5, 0, .cBgeu 6 5 6 0x2f5),
  (.C, 0x66E302F5, 0, .cCall 6 3 0x2f5)]

theorem test_wordsC1 : wordsC1.all WordCase.ok = true := by decide +kernel

def wordsC2 : List WordCase := [
  (.C, 0x67002800, 0, .cRet 6 5),
  (.C, 0x67250009, 0, .cLoop 6 5 9),
  (.C, 0x68030010, 0, .cCsrr 6 3 0x10),
  (.C, 0x68202810, 0, .cCsrw 6 5 0x10),
  (.C, 0x68402810, 0, .cCsrs 6 5 0x10),
  (.C, 0x68602810, 0, .cCsrc 6 5 0x10),
  (.C, 0x68832AF5, 0, .cLdw 6 3 5 0x2f5),
  (.C, 0x68A32AF5, 0, .cStw 6 3 5 0x2f5),
  (.C, 0x68C02800, 0, .cFpush 6 5),
  (.C, 0x68FF00D5, 0, .cFpushi 6 0x1f00d5),
  (.C, 0x69122800, 0, .cTshape 6 9 5),
  (.C, 0x69363940, 0, .cSeal 6 0x2c7 5),
  (.C, 0x69563800, 0, .cUnseal 6 0x2c7),
  (.C, 0x6A000001, 0, .cDbar 6 1),
  (.C, 0x6A200000, 0, .cGenf 6),
  (.C, 0x6A402800, 0, .cBound 6 5),
  (.C, 0x6A76394D, 0, .cMigrate 6 0x2c7 5 6 true),
  (.C, 0x6A800031, 0, .cFence 6 3 1),
  (.C, 0x6AB6394C, 0, .cFlush 6 0x2c7 5 6),
  (.C, 0x6AC001A5, 0, .cTsig 6 true 0xa5)]

theorem test_wordsC2 : wordsC2.all WordCase.ok = true := by decide +kernel

def wordsC3 : List WordCase := [
  (.C, 0x6AE001A5, 0, .cTwait 6 true 0xa5),
  (.C, 0x6B163940, 0, .cTapec 6 0x2c7 5),
  (.C, 0x6B20BEEF, 0, .cTrap 6 0xbeef),
  (.C, 0x6B400000, 0, .cRtt 6),
  (.C, 0x6B600000, 0, .cHalt 6),
  (.C, 0x6B800000, 0, .cWfe 6),
  (.C, 0x6E002980, 0, .cLttw 6 5 6),
  (.C, 0x6E202800, 0, .cLttinv 6 5),
  (.C, 0x6E402980, 0, .cDreg 6 5 6),
  (.C, 0x6E602800, 0, .cDfree 6 5),
  (.C, 0x6E802980, 0, .cSavec 6 5 6),
  (.C, 0x6EA02980, 0, .cRestc 6 5 6)]

theorem test_wordsC3 : wordsC3.all WordCase.ok = true := by decide +kernel

def wordsA0 : List WordCase := [
  (.A, 0x601194C000000000, 0, .aAdd 6 3 5 6),
  (.A, 0x602194C000000000, 0, .aSub 6 3 5 6),
  (.A, 0x603194C000000000, 0, .aAnd 6 3 5 6),
  (.A, 0x604194C000000000, 0, .aOr 6 3 5 6),
  (.A, 0x605194C000000000, 0, .aXor 6 3 5 6),
  (.A, 0x606194C000000000, 0, .aShl 6 3 5 6),
  (.A, 0x607194C000000000, 0, .aShr 6 3 5 6),
  (.A, 0x608194C000000000, 0, .aSra 6 3 5 6),
  (.A, 0x609194C000000000, 0, .aMul 6 3 5 6),
  (.A, 0x60A194C000000000, 0, .aMin 6 3 5 6),
  (.A, 0x60B194C000000000, 0, .aMax 6 3 5 6),
  (.A, 0x60C194C000000000, 0, .aSeq 6 3 5 6),
  (.A, 0x60D194C000000000, 0, .aSne 6 3 5 6),
  (.A, 0x60E194C000000000, 0, .aSlt 6 3 5 6),
  (.A, 0x60F194C000000000, 0, .aSltu 6 3 5 6),
  (.A, 0x6101940089ABCDEF, 0, .aAddi 6 3 5 0x89abcdef),
  (.A, 0x6111940089ABCDEF, 0, .aAndi 6 3 5 0x89abcdef),
  (.A, 0x6121940000000029, 0, .aShli 6 3 5 0x29),
  (.A, 0x6131940000000029, 0, .aShri 6 3 5 0x29),
  (.A, 0x6141800089ABCDEF, 0, .aLi 6 3 0x89abcdef)]

theorem test_wordsA0 : wordsA0.all WordCase.ok = true := by decide +kernel

def wordsA1 : List WordCase := [
  (.A, 0x6151800089ABCDEF, 0, .aLui 6 3 0x89abcdef),
  (.A, 0x62000000000002F5, 0, .aB 6 0x2f5),
  (.A, 0x62129800000002F5, 0, .aBeq 6 5 6 0x2f5),
  (.A, 0x62229800000002F5, 0, .aBne 6 5 6 0x2f5),
  (.A, 0x62329800000002F5, 0, .aBlt 6 5 6 0x2f5),
  (.A, 0x62429800000002F5, 0, .aBge 6 5 6 0x2f5),
  (.A, 0x62529800000002F5, 0, .aBltu 6 5 6 0x2f5),
  (.A, 0x62629800000002F5, 0, .aBgeu 6 5 6 0x2f5),
  (.A, 0x6272800000000009, 0, .aLoop 6 5 9),
  (.A, 0x62800000000102F5, 0, .aBrq 6 1 0x2f5),
  (.A, 0x6290140006000000, 0, .aOpush 6 5),
  (.A, 0x62A1800005000000, 0, .aVqpop 6 3),
  (.A, 0x62B0140000000000, 0, .aBound 6 5),
  (.A, 0x62C0000000000000, 0, .aEnd 6),
  (.A, 0x62D0000000000000, 0, .aNop 6),
  (.A, 0x630B1D6032914000, 0, .aLd8 6 2 0x2c7 0xb 6 0x24 1 1),
  (.A, 0x631B1D6032114000, 0, .aLd16 6 2 0x2c7 0xb 6 4 1 1),
  (.A, 0x632B1D6032154000, 0, .aLd32 6 2 0x2c7 0xb 6 5 1 1),
  (.A, 0x633B1D60320D4000, 0, .aLd64 6 2 0x2c7 0xb 6 3 1 1),
  (.A, 0x634B1D6034924000, 0, .aSt8 6 0x2c7 0xb 6 0x24 2 1)]

theorem test_wordsA1 : wordsA1.all WordCase.ok = true := by decide +kernel

def wordsA2 : List WordCase := [
  (.A, 0x635B1D6034124000, 0, .aSt16 6 0x2c7 0xb 6 4 2 1),
  (.A, 0x636B1D6034164000, 0, .aSt32 6 0x2c7 0xb 6 5 2 1),
  (.A, 0x637B1D60340E4000, 0, .aSt64 6 0x2c7 0xb 6 3 2 1),
  (.A, 0x638B1D6002000000, 0, .aLdt 6 2 0x2c7 0xb),
  (.A, 0x639B1D6004000000, 0, .aStt 6 0x2c7 0xb),
  (.A, 0x63A0140002000000, 0, .aLdi 6 2 5),
  (.A, 0x63BB1D6332000000, 0, .aLdv 6 2 3 0x2c7 0xb 6 0 0),
  (.A, 0x63CB1D6332000000, 0, .aLdvBqa 6 2 3 0x2c7 0xb 6 0 0),
  (.A, 0x640B1D6300914000, 0, .aLda8 6 3 0x2c7 0xb 0x24 1 1),
  (.A, 0x641B1D6300114000, 0, .aLda16 6 3 0x2c7 0xb 4 1 1),
  (.A, 0x642B1D6300154000, 0, .aLda32 6 3 0x2c7 0xb 5 1 1),
  (.A, 0x643B1D63000D4000, 0, .aLda64 6 3 0x2c7 0xb 3 1 1),
  (.A, 0x644B1D6030924000, 0, .aSta8 6 0x2c7 0xb 6 0x24 2 1),
  (.A, 0x645B1D6030124000, 0, .aSta16 6 0x2c7 0xb 6 4 2 1),
  (.A, 0x646B1D6030164000, 0, .aSta32 6 0x2c7 0xb 6 5 2 1),
  (.A, 0x647B1D60300E4000, 0, .aSta64 6 0x2c7 0xb 6 3 2 1),
  (.A, 0x648E855C497C1234, 0, .aCpy 6 7 0x3a1 4 0x15c 9 0xc 0x1234),
  (.A, 0x649E855C497C1234, 0, .aCpy2d 6 7 0x3a1 4 0x15c 9 0xc 0x1234),
  (.A, 0x64AE855C497C1234, 0, .aCpyx 6 7 0x3a1 4 0x15c 9 0xc 0x1234),
  (.A, 0x650B1D6300000400, 0, .aDqry 6 1 3 0x2c7 0xb)]

theorem test_wordsA2 : wordsA2.all WordCase.ok = true := by decide +kernel

def wordsA3 : List WordCase := [
  (.A, 0x651B1D6032000400, 0, .aDqryv 6 1 2 0x2c7 0xb 6),
  (.A, 0x652B1D6030000000, 0, .aDqpf 6 0x2c7 0xb 6),
  (.A, 0x653B1D6030000000, 0, .aDscan 6 0x2c7 0xb 6),
  (.A, 0x6540000000034000, 0, .aFence 6 3 1),
  (.A, 0x655B1D6000000000, 0, .aWaita 6 0x2c7 0xb),
  (.A, 0x660B1D60300B4000, 0, .aAaddI32 6 0x2c7 0xb 6 3 1),
  (.A, 0x661B1D60300F4000, 0, .aAaddI64 6 0x2c7 0xb 6 3 1),
  (.A, 0x662B1D6030174000, 0, .aAaddF32 6 0x2c7 0xb 6 3 1),
  (.A, 0x663B1D60300B4000, 0, .aAmin 6 0x2c7 0xb 6 2 3 1),
  (.A, 0x664B1D60300B4000, 0, .aAmax 6 0x2c7 0xb 6 2 3 1),
  (.A, 0x665B1D60300B4000, 0, .aAand 6 0x2c7 0xb 6 2 3 1),
  (.A, 0x666B1D60300B4000, 0, .aAor 6 0x2c7 0xb 6 2 3 1),
  (.A, 0x667B1D60300B4000, 0, .aAxor 6 0x2c7 0xb 6 2 3 1),
  (.A, 0x668B1D63300B4000, 0, .aAfaddI32 6 3 0x2c7 0xb 6 3 1),
  (.A, 0x669B1D63300F4000, 0, .aAfaddI64 6 3 0x2c7 0xb 6 3 1),
  (.A, 0x66AB1D6330174000, 0, .aAfaddF32 6 3 0x2c7 0xb 6 3 1),
  (.A, 0x66BB1D63300B4000, 0, .aAxchg 6 3 0x2c7 0xb 6 2 3 1),
  (.A, 0x66CB1D63300B41A0, 0, .aAcas 6 3 0x2c7 0xb 6 0xd 2 3 1),
  (.A, 0x66DB1D6034080000, 0, .aAscat 6 0x2c7 0xb 6 2),
  (.A, 0x670B1D6034080000, 0, .aNmaddI32 6 0x2c7 0xb 6)]

theorem test_wordsA3 : wordsA3.all WordCase.ok = true := by decide +kernel

def wordsA4 : List WordCase := [
  (.A, 0x671B1D6034140000, 0, .aNmaddF32 6 0x2c7 0xb 6),
  (.A, 0x672B1D6034080000, 0, .aNmmin 6 0x2c7 0xb 6 2),
  (.A, 0x673B1D6034080000, 0, .aNmmax 6 0x2c7 0xb 6 2),
  (.A, 0x6740000000000000, 0, .aNmfence 6),
  (.A, 0x675E855C49540000, 0, .aEmbag 6 2 0x3a1 4 0x15c 9 5),
  (.A, 0x676E855C49540000, 0, .aKvatt 6 2 0x3a1 4 0x15c 9 5),
  (.A, 0x680E855C497C1234, 0, .aPut 6 7 0x3a1 4 0x15c 9 0xc 0x1234),
  (.A, 0x681E855C497C1234, 0, .aPut2d 6 7 0x3a1 4 0x15c 9 0xc 0x1234),
  (.A, 0x682E855C497C1234, 0, .aGet 6 7 0x3a1 4 0x15c 9 0xc 0x1234),
  (.A, 0x683E855C497C1234, 0, .aGet2d 6 7 0x3a1 4 0x15c 9 0xc 0x1234),
  (.A, 0x684B1D6030080000, 0, .aRadd 6 0x2c7 0xb 6 2),
  (.A, 0x685B1D6330080000, 0, .aRfadd 6 3 0x2c7 0xb 6 2),
  (.A, 0x686B1D63300B41A0, 0, .aRcas 6 3 0x2c7 0xb 6 0xd 2 3 1),
  (.A, 0x6870000000000000, 0, .aFfence 6),
  (.A, 0x688B1D63301405A0, 0, .aAllred 6 1 3 0x2c7 0xb 6 0xd 5),
  (.A, 0x689B1D63301405A0, 0, .aRedscat 6 1 3 0x2c7 0xb 6 0xd 5),
  (.A, 0x68AB1D63301405A0, 0, .aAllgath 6 1 3 0x2c7 0xb 6 0xd 5),
  (.A, 0x68BB1D63301405A0, 0, .aBcast 6 1 3 0x2c7 0xb 6 0xd 5)]

theorem test_wordsA4 : wordsA4.all WordCase.ok = true := by decide +kernel

noncomputable def wordsX0 : List WordCase := [
  (.X, 0x6010628C00000000, 0, .xAdd 6 3 5 6),
  (.X, 0x6020628C00000000, 0, .xSub 6 3 5 6),
  (.X, 0x6030628C00000000, 0, .xAnd 6 3 5 6),
  (.X, 0x6040628C00000000, 0, .xOr 6 3 5 6),
  (.X, 0x6050628C00000000, 0, .xXor 6 3 5 6),
  (.X, 0x6060628C00000000, 0, .xShl 6 3 5 6),
  (.X, 0x6070628C00000000, 0, .xShr 6 3 5 6),
  (.X, 0x6080628C00000000, 0, .xSra 6 3 5 6),
  (.X, 0x6090628C00000000, 0, .xMul 6 3 5 6),
  (.X, 0x60A0628C00000000, 0, .xMin 6 3 5 6),
  (.X, 0x60B0628C00000000, 0, .xMax 6 3 5 6),
  (.X, 0x60C0628089ABCDEF, 0, .xAddi 6 3 5 0x89abcdef),
  (.X, 0x60D0600089ABCDEF, 0, .xLi 6 3 0x89abcdef),
  (.X, 0x60E0600089ABCDEF, 0, .xLui 6 3 0x89abcdef),
  (.X, 0x6100628C00000000, 0, .xCmpeq 6 3 5 6),
  (.X, 0x6110628C00000000, 0, .xCmplt 6 3 5 6),
  (.X, 0x6120628C00000000, 0, .xCmple 6 3 5 6),
  (.X, 0x6130400089ABCDEF, 0, .xBtgt 6 2 0x89abcdef),
  (.X, 0x6140428000000000, 0, .xBtgtReg 6 2 5),
  (.X, 0x6150028400000200, 0, .xBx 6 1 5 2)]

theorem test_wordsX0 : wordsX0.all WordCase.ok = true := by decide +kernel

noncomputable def wordsX1 : List WordCase := [
  (.X, 0x6160028089ABCDEF, 0, .xLoop 6 5 0x89abcdef),
  (.X, 0x6170628000000200, 0, .xVany 6 1 3 5),
  (.X, 0x6180628000000200, 0, .xVall 6 1 3 5),
  (.X, 0x6190628000000000, 0, .xPcnt 6 3 5),
  (.X, 0x61A0000000000000, 0, .xNop 6),
  (.X, 0x61B0028000000000, 0, .xBound 6 5),
  (.X, 0x61C0000000000000, 0, .xEnd 6),
  (.X, 0x61D0600000000012, 0, .xCsrr 6 3 0x12),
  (.X, 0x61E0028000000012, 0, .xCsrw 6 5 0x12),
  (.X, 0x6200600000000080, 0, .xVpop 6 3 2),
  (.X, 0x6210600000000080, 0, .xVpops 6 3 2),
  (.X, 0x6220028000000100, 0, .xVpush 6 5),
  (.X, 0x6230028000000140, 0, .xXpush 6 5),
  (.X, 0x6240600000000180, 0, .xOpop 6 3),
  (.X, 0x62500280000001C0, 0, .xOpush 6 5),
  (.X, 0x6300628C06040000, 0, .xVadd 6 3 5 6 0xc 2),
  (.X, 0x6310628C06040000, 0, .xVsub 6 3 5 6 0xc 2),
  (.X, 0x6320628C06040000, 0, .xVmul 6 3 5 6 0xc 2),
  (.X, 0x6330628C06040000, 0, .xVmulh 6 3 5 6 0xc 2),
  (.X, 0x6340628C06040000, 0, .xVand 6 3 5 6 0xc 2)]

theorem test_wordsX1 : wordsX1.all WordCase.ok = true := by decide +kernel

noncomputable def wordsX2 : List WordCase := [
  (.X, 0x6350628C06040000, 0, .xVor 6 3 5 6 0xc 2),
  (.X, 0x6360628C06040000, 0, .xVxor 6 3 5 6 0xc 2),
  (.X, 0x6370628C06040000, 0, .xVshl 6 3 5 6 0xc 2),
  (.X, 0x6380628C06040000, 0, .xVshr 6 3 5 6 0xc 2),
  (.X, 0x6390628C06040000, 0, .xVsra 6 3 5 6 0xc 2),
  (.X, 0x63A0628C06040000, 0, .xVmin 6 3 5 6 0xc 2),
  (.X, 0x63B0628C06040000, 0, .xVmax 6 3 5 6 0xc 2),
  (.X, 0x63C0628006040000, 0, .xVabs 6 3 5 0xc 2),
  (.X, 0x6400628C060A2000, 0, .xVfadd 6 3 5 6 0xc 5 1),
  (.X, 0x6410628C060A2000, 0, .xVfsub 6 3 5 6 0xc 5 1),
  (.X, 0x6420628C060A2000, 0, .xVfmul 6 3 5 6 0xc 5 1),
  (.X, 0x6430628C560A2000, 0, .xVfma 6 3 5 6 0xa 0xc 5 1),
  (.X, 0x6440628C560A2000, 0, .xVfms 6 3 5 6 0xa 0xc 5 1),
  (.X, 0x6450628C560A2000, 0, .xVfnma 6 3 5 6 0xa 0xc 5 1),
  (.X, 0x6460628C560A2000, 0, .xVfnms 6 3 5 6 0xa 0xc 5 1),
  (.X, 0x6470628C060A2000, 0, .xVfmin 6 3 5 6 0xc 5 1),
  (.X, 0x6480628C060A2000, 0, .xVfmax 6 3 5 6 0xc 5 1),
  (.X, 0x64906280060A2000, 0, .xVfabs 6 3 5 0xc 5 1),
  (.X, 0x64A06280060A2000, 0, .xVfneg 6 3 5 0xc 5 1),
  (.X, 0x64B0628C060A2000, 0, .xVfdiv 6 3 5 6 0xc 5 1)]

theorem test_wordsX2 : wordsX2.all WordCase.ok = true := by decide +kernel

noncomputable def wordsX3 : List WordCase := [
  (.X, 0x64C06280060A2000, 0, .xVfsqrt 6 3 5 0xc 5 1),
  (.X, 0x64D06280060A2000, 0, .xVfrcp 6 3 5 0xc 5 1),
  (.X, 0x64E06280060A2000, 0, .xVfexp2 6 3 5 0xc 5 1),
  (.X, 0x64F06280060A2000, 0, .xVflog2 6 3 5 0xc 5 1),
  (.X, 0x65006280060A2000, 0, .xVftanh 6 3 5 0xc 5 1),
  (.X, 0x65106280060A2000, 0, .xVfsigm 6 3 5 0xc 5 1),
  (.X, 0x6520628C06040200, 0, .xVcmp 6 1 3 5 6 0xc 2),
  (.X, 0x6530628C060A0200, 0, .xVfcmp 6 1 3 5 6 0xc 5),
  (.X, 0x6540628C00000000, 0, .xPand 6 3 5 6),
  (.X, 0x6550628C00000000, 0, .xPor 6 3 5 6),
  (.X, 0x6560628C00000000, 0, .xPxor 6 3 5 6),
  (.X, 0x6570628000000000, 0, .xPnot 6 3 5),
  (.X, 0x6580628C06000000, 0, .xVsel 6 3 5 6 0xc),
  (.X, 0x659062802E482000, 0, .xVcvtf 6 3 5 5 0xc 0x24 0 1),
  (.X, 0x65A062802E022000, 0, .xVcvti 6 3 5 5 0xc 1 0 1),
  (.X, 0x65B0628C06482000, 0, .xVqnt 6 3 5 6 0xc 0x24 0 1),
  (.X, 0x65C0628C06480000, 0, .xVdqnt 6 3 5 6 0xc 0x24),
  (.X, 0x6600628006040000, 0, .xVbcast 6 3 5 0xc 2),
  (.X, 0x6610628C06000000, 0, .xVshuf 6 3 5 6 0xc),
  (.X, 0x6620628006000029, 0, .xVrot 6 3 5 0xc 0x29)]

theorem test_wordsX3 : wordsX3.all WordCase.ok = true := by decide +kernel

noncomputable def wordsX4 : List WordCase := [
  (.X, 0x6630628000040029, 0, .xVextr 6 3 5 2 0x29),
  (.X, 0x6640628000040029, 0, .xVins 6 3 5 2 0x29),
  (.X, 0x6650628006000000, 0, .xVcomp 6 3 5 0xc),
  (.X, 0x6660628006000000, 0, .xVexp 6 3 5 0xc),
  (.X, 0x6670628006040000, 0, .xVrsum 6 3 5 0xc 2),
  (.X, 0x66806280060A0000, 0, .xVrfsum 6 3 5 0xc 5 0),
  (.X, 0x6690628006040000, 0, .xVrmax 6 3 5 0xc 2),
  (.X, 0x66A0628006040000, 0, .xVrmin 6 3 5 0xc 2),
  (.X, 0x66B0828C06040000, 0, .xVsortk 6 4 5 6 0xc 2),
  (.X, 0x66C0628C06040000, 0, .xVsegsum 6 3 5 6 0xc 2),
  (.X, 0x66D0828006040029, 0, .xVtopk 6 4 5 0xc 2 0x29),
  (.X, 0x6700000000000000, 0, .xTapeon 6),
  (.X, 0x6710000000000000, 0, .xTapeoff 6),
  (.X, 0x6720028006000000, 0, .xVtape 6 5 0xc),
  (.X, 0x6730028000000000, 0, .xXtape 6 5),
  (.X, 0x6740028000000000, 0, .xPtape 6 5),
  (.X, 0x6750600000000000, 0, .xVuntape 6 3),
  (.X, 0x6760600000000000, 0, .xXuntape 6 3),
  (.X, 0x6770600000000000, 0, .xPuntape 6 3),
  (.X, 0x6780000000000000, 0, .xTrev 6)]

theorem test_wordsX4 : wordsX4.all WordCase.ok = true := by decide +kernel

noncomputable def wordsX5 : List WordCase := [
  (.X, 0x6790028000000000, 0, .xTmark 6 5),
  (.X, 0x6800628000000080, 0, .xTld 6 3 2 5),
  (.X, 0x6810028C00000100, 0, .xTst 6 5 6),
  (.X, 0x6820600000000000, 0, .xTzero 6 3),
  (.X, 0x6830628C00000000, 0, .xTmovv 6 3 5 6),
  (.X, 0x6840628000000080, 0, .xZld 6 3 2 5),
  (.X, 0x6850008C00000100, 0, .xZst 6 1 6),
  (.X, 0x6860600000000000, 0, .xZzero 6 3),
  (.X, 0x6870608C00000000, 0, .xZmovv 6 3 1 6),
  (.X, 0x6908628C00000000, 0x1234, .xMma 6 3 5 6 (some 0x1234)),
  (.X, 0x6918628C00000000, 0x1234, .xMmai 6 3 5 6 (some 0x1234)),
  (.X, 0x6928628C00000000, 0x1234, .xMmah 6 3 5 6 (some 0x1234)),
  (.X, 0x6938628C00000000, 0x1234, .xMmab1 6 3 5 6 (some 0x1234)),
  (.X, 0x6948628C50000000, 0x1234, .xMmab2 6 3 5 6 0xa (some 0x1234)),
  (.X, 0x6958628C00000000, 0x1234, .xMmas 6 3 5 6 (some 0x1234)),
  (.X, 0x6968628C00000000, 0x1234, .xMmax 6 3 5 6 (some 0x1234)),
  (.X, 0x6978628C00000000, 0x1234, .xMman 6 3 5 6 (some 0x1234)),
  (.X, 0x6988628C00000000, 0x1234, .xMmv 6 3 5 6 (some 0x1234))]

theorem test_wordsX5 : wordsX5.all WordCase.ok = true := by decide +kernel

/-- The words that spec/04 works out. -/
noncomputable def worked04 : List WordCase := [
  (.C, 0x0B600000, 0, .cHalt 0), (.C, 0x18C02800, 0, .cFpush 1 5),
  (.A, 0x03100480C8040000, 0, .aLd16 0 0 1 4 25 1 0 0), (.A, 0x0480180208790028, 0, .aCpy 0 7 6 0 2 8 9 0x28),
  (.X, 0x0150008000000200, 0, .xBx 0 1 1 0), (.X, 0x8908000200000000, 0x28, .xMma 8 0 0 1 (some 0x28)),
  (.X, 0x8900000200000000, 0, .xMma 8 0 0 1 none)]

theorem test_worked04 : worked04.all WordCase.ok = true := by decide +kernel

/-- The words that spec/05, 06 and 07 work out, and those of idiom 9. -/
noncomputable def worked05 : List WordCase := [
  (.C, 0x07270003, 0, .cLoop 0 7 3), (.C, 0x08203018, 0, .cCsrw 0 6 0x018), (.C, 0x08A30801, 0, .cStw 0 3 1 1),
  (.C, 0x29204840, 0, .cSeal 2 9 1), (.A, 0x0016296000000000, 0, .aAdd 0 12 10 11), (.A, 0x0290540006000000, 0, .aOpush 0 21),
  (.A, 0x02A5800005000000, 0, .aVqpop 0 11), (.A, 0x0280000000000004, 0, .aBrq 0 0 4), (.A, 0x0280000000010004, 0, .aBrq 0 1 4),
  (.A, 0x03B0048728000000, 0, .aLdv 0 0 7 1 4 5 0 0), (.A, 0x0500048500000400, 0, .aDqry 0 1 5 1 4),
  (.A, 0x06801C4308094000, 0, .aAfaddI32 0 3 7 2 1 1 1)]

theorem test_worked05 : worked05.all WordCase.ok = true := by decide +kernel

/-- The words that spec/09 works out. -/
noncomputable def worked09 : List WordCase := [
  (.X, 0x0200000000000000, 0, .xVpop 0 0 0), (.X, 0x0240200000000180, 0, .xOpop 0 1), (.X, 0x0230050000000140, 0, .xXpush 0 10),
  (.X, 0x0520200200040800, 0, .xVcmp 0 4 1 0 1 0 2), (.X, 0x04306002100A0000, 0, .xVfma 0 3 0 1 2 0 5 0),
  (.X, 0x0400820A010A2000, 0, .xVfadd 0 4 4 5 2 5 1), (.X, 0x05B0C20A00480000, 0, .xVqnt 0 6 4 5 0 0x24 0 0),
  (.X, 0x0130000000000006, 0, .xBtgt 0 0 6), (.X, 0x01600C0000000002, 0, .xLoop 0 24 2), (.X, 0x01D0A00000000012, 0, .xCsrr 0 5 0x012)]

theorem test_worked09 : worked09.all WordCase.ok = true := by decide +kernel

/-- The words of the digest, atomic, ordering and paging chapters. -/
noncomputable def worked10 : List WordCase := [
  (.A, 0x0500048500001800, 0, .aDqry 0 6 5 1 4), (.A, 0x0500048600000C00, 0, .aDqry 0 3 6 1 4), (.X, 0x0631800000040002, 0, .xVextr 0 12 0 2 2),
  (.A, 0x04201C8600094000, 0, .aLda32 0 6 7 4 2 1 1), (.A, 0x05501C8000000000, 0, .aWaita 0 7 4), (.A, 0x03A01C0000000000, 0, .aLdi 0 0 7),
  (.A, 0x03601C800C0A4000, 0, .aSt32 0 7 4 1 2 2 1), (.X, 0x0640248000040000, 0, .xVins 0 1 9 2 0), (.X, 0x0300600200040000, 0, .xVadd 0 3 0 1 0 2),
  (.X, 0x0220018000000100, 0, .xVpush 0 3), (.A, 0x0540000000038000, 0, .aFence 0 3 2), (.A, 0x0540000000014000, 0, .aFence 0 1 1),
  (.A, 0x04700C00080F8000, 0, .aSta64 0 3 0 1 3 3 2), (.A, 0x04300D06000D4000, 0, .aLda64 0 6 3 8 3 1 1),
  (.A, 0x04300467000C0000, 0, .aLda64 0 7 1 3 3 0 0), (.A, 0x0380094000000000, 0, .aLdt 0 0 2 10), (.A, 0x03800DA001000000, 0, .aLdt 0 1 3 13),
  (.A, 0x0390120004000000, 0, .aStt 0 4 16)]

theorem test_worked10 : worked10.all WordCase.ok = true := by decide +kernel

/-- The words of the tile, archive, tape and fabric chapters. -/
noncomputable def worked14 : List WordCase := [
  (.X, 0x08002A8000000040, 0, .xTld 0 1 1 21), (.X, 0x0850002A00000100, 0, .xZst 0 0 21), (.X, 0x0590E3002849A000, 0, .xVcvtf 0 7 6 5 0 0x24 3 1),
  (.X, 0x08000A8000000000, 0, .xTld 0 0 0 21), (.X, 0x0810018800000100, 0, .xTst 0 3 4), (.X, 0x0820400000000000, 0, .xTzero 0 2),
  (.X, 0x0840230000000080, 0, .xZld 0 1 2 6), (.X, 0x0871210A00000000, 0, .xZmovv 0 9 2 5), (.X, 0x0950210600000000, 0, .xMmas 0 1 2 3 none),
  (.X, 0x0948020A40000000, 0x28, .xMmab2 0 0 4 5 8 (some 0x28)), (.X, 0x0980608C00000000, 0, .xMmv 0 3 1 6 none),
  (.A, 0x03201800C2080000, 0, .aLd32 0 2 6 0 24 2 0 0), (.A, 0x0710114004140000, 0, .aNmaddF32 0 4 10 0), (.A, 0x0740000000000000, 0, .aNmfence 0),
  (.X, 0x0720008001800000, 0, .xVtape 0 1 3), (.X, 0x0750C00000000000, 0, .xVuntape 0 6), (.X, 0x07900C0000000000, 0, .xTmark 0 24),
  (.X, 0x06B1438C01840000, 0, .xVsortk 0 10 7 6 3 2), (.X, 0x0520851A01840200, 0, .xVcmp 0 1 4 10 13 3 2),
  (.A, 0x07501003AC540000, 0, .aEmbag 0 2 4 10 3 12 5), (.A, 0x0760200924620000, 0, .aKvatt 0 1 8 2 9 4 6),
  (.C, 0x08201850, 0, .cCsrw 0 3 0x050), (.X, 0x0170408000000200, 0, .xVany 0 1 2 1), (.A, 0x02B0080000000000, 0, .aBound 0 2),
  (.A, 0x0540000000028000, 0, .aFence 0 2 2)]

theorem test_worked14 : worked14.all WordCase.ok = true := by decide +kernel

/-- The words of the trap, ordering and fabric chapters (but that of `csrs tpca, s3`, which has the opcode of CSRC: log 70). -/
noncomputable def worked21 : List WordCase := [
  (.A, 0x08800805309004E0, 0, .aAllred 0 1 5 2 0 6 7 0x24), (.A, 0x0870000000000000, 0, .aFfence 0),
  (.X, 0x04B0A188000A4000, 0, .xVfdiv 0 5 3 4 0 5 2), (.X, 0x05B0E08C00480000, 0, .xVqnt 0 7 1 6 0 0x24 0 0),
  (.X, 0x05C1038C00480000, 0, .xVdqnt 0 8 7 6 0 0x24), (.C, 0x0A800032, 0, .cFence 0 3 2), (.C, 0x08010110, 0, .cCsrr 0 1 0x110),
  (.C, 0x08020117, 0, .cCsrr 0 2 0x117), (.C, 0x0A60090A, 0, .cMigrate 0 1 4 5 false),
  (.C, 0x0B400000, 0, .cRtt 0)]

theorem test_worked21 : worked21.all WordCase.ok = true := by decide +kernel

/-- R63: the word of zeros, an opcode that no row has, and a word with a reserved bit set. -/
theorem test_refusedWords :
    (∀ st ∈ [StreamId.C, .A, .X], (decodeWord st 0 0).toOption = none) ∧ (decodeWord .C 0x0FE00000 0).toOption = none ∧
    (decodeWord .C 0x60232981 0).toOption = none ∧ (decodeWord .A 0x0870000000000001 0).toOption = none := by decide +kernel

/-! ### Well-formed and ill-formed terms -/

/-- Terms that one check of `wellFormed` each refuses. -/
theorem test_illFormed0 : ([.cLoop 1 1 0, .cTshape 1 12 1, .cDbar 1 2, .cFence 1 0 1, .cTsig 1 true 0,
    .cTwait 1 true 0, .aLoop 1 1 0, .aBrq 1 2 1, .aLd8 1 1 1 1 1 1 0 0, .aLd8 1 1 1 1 1 0 2 0,
    .aLd8 1 1 1 1 1 0 0 1, .aLd16 1 1 1 1 1 0 0 0, .aLd16 1 1 1 1 1 1 2 0, .aLd16 1 1 1 1 1 1 0 1, .aLd32 1 1 1 1 1 3 0 0,
    .aLd32 1 1 1 1 1 2 2 0, .aLd32 1 1 1 1 1 2 0 1, .aLd64 1 1 1 1 1 2 0 0, .aLd64 1 1 1 1 1 3 2 0, .aLd64 1 1 1 1 1 3 0 1,
    .aSt8 1 1 1 1 1 0 0, .aSt8 1 1 1 1 0 1 0, .aSt8 1 1 1 1 0 0 1, .aSt16 1 1 1 1 0 0 0, .aSt16 1 1 1 1 1 1 0] : List Instr).all (fun i => !wellFormed i) = true := by decide +kernel

/-- Terms that one check of `wellFormed` each refuses. -/
theorem test_illFormed1 : ([.aSt16 1 1 1 1 1 0 1, .aSt32 1 1 1 1 3 0 0, .aSt32 1 1 1 1 2 1 0, .aSt32 1 1 1 1 2 0 1, .aSt64 1 1 1 1 2 0 0,
    .aSt64 1 1 1 1 3 1 0, .aSt64 1 1 1 1 3 0 1, .aLdv 1 1 1 1 1 1 2 0, .aLdv 1 1 1 1 1 1 0 1, .aLdvBqa 1 1 1 1 1 1 2 0,
    .aLdvBqa 1 1 1 1 1 1 0 1, .aLda8 1 1 1 1 1 0 0, .aLda8 1 1 1 1 0 2 0, .aLda8 1 1 1 1 0 0 1, .aLda16 1 1 1 1 0 0 0,
    .aLda16 1 1 1 1 1 2 0, .aLda16 1 1 1 1 1 0 1, .aLda32 1 1 1 1 3 0 0, .aLda32 1 1 1 1 2 2 0, .aLda32 1 1 1 1 2 0 1,
    .aLda64 1 1 1 1 2 0 0, .aLda64 1 1 1 1 3 2 0, .aLda64 1 1 1 1 3 0 1, .aSta8 1 1 1 1 1 0 0, .aSta8 1 1 1 1 0 1 0] : List Instr).all (fun i => !wellFormed i) = true := by decide +kernel

/-- Terms that one check of `wellFormed` each refuses. -/
theorem test_illFormed2 : ([.aSta8 1 1 1 1 0 0 1, .aSta16 1 1 1 1 0 0 0, .aSta16 1 1 1 1 1 1 0, .aSta16 1 1 1 1 1 0 1, .aSta32 1 1 1 1 3 0 0,
    .aSta32 1 1 1 1 2 1 0, .aSta32 1 1 1 1 2 0 1, .aSta64 1 1 1 1 2 0 0, .aSta64 1 1 1 1 3 1 0, .aSta64 1 1 1 1 3 0 1,
    .aCpy2d 1 1 1 1 1 1 15 1, .aDqry 1 8 1 1 1, .aDqryv 1 8 1 1 1 1, .aFence 1 0 1, .aAaddI32 1 1 1 1 0 1,
    .aAaddI64 1 1 1 1 0 1, .aAaddF32 1 1 1 1 0 1, .aAmin 1 1 1 1 4 0 0, .aAmin 1 1 1 1 2 0 1, .aAmax 1 1 1 1 4 0 0,
    .aAmax 1 1 1 1 2 0 1, .aAand 1 1 1 1 5 0 0, .aAand 1 1 1 1 2 0 1, .aAor 1 1 1 1 5 0 0, .aAor 1 1 1 1 2 0 1] : List Instr).all (fun i => !wellFormed i) = true := by decide +kernel

/-- Terms that one check of `wellFormed` each refuses. -/
theorem test_illFormed3 : ([.aAxor 1 1 1 1 5 0 0, .aAxor 1 1 1 1 2 0 1, .aAfaddI32 1 1 1 1 1 0 1, .aAfaddI64 1 1 1 1 1 0 1, .aAfaddF32 1 1 1 1 1 0 1,
    .aAxchg 1 1 1 1 1 5 0 0, .aAxchg 1 1 1 1 1 2 0 1, .aAcas 1 1 1 1 1 1 5 0 0, .aAcas 1 1 1 1 1 1 2 0 1, .aAscat 1 1 1 1 3,
    .aNmmin 1 1 1 1 3, .aNmmax 1 1 1 1 3, .aPut2d 1 1 1 1 1 1 15 1, .aGet2d 1 1 1 1 1 1 15 1, .aRadd 1 1 1 1 4,
    .aRfadd 1 1 1 1 1 4, .aRcas 1 1 1 1 1 1 5 0 0, .aRcas 1 1 1 1 1 1 2 0 1, .aAllred 1 2 1 1 1 1 0 5, .aAllred 1 0 1 1 1 1 0 2,
    .aAllred 1 0 1 1 1 1 1 5, .aRedscat 1 2 1 1 1 1 0 5, .aRedscat 1 0 1 1 1 1 0 2, .aRedscat 1 0 1 1 1 1 1 5, .aAllgath 1 2 1 1 1 1 0 5] : List Instr).all (fun i => !wellFormed i) = true := by decide +kernel

/-- Terms that one check of `wellFormed` each refuses. -/
theorem test_illFormed4 : ([.aAllgath 1 0 1 1 1 1 0 2, .aAllgath 1 0 1 1 1 1 1 5, .aBcast 1 2 1 1 1 1 0 5, .aBcast 1 0 1 1 1 1 0 2, .aBcast 1 0 1 1 1 1 1 5,
    .xBx 1 2 1 1, .xLoop 1 1 0, .xVany 1 2 1 1, .xVall 1 2 1 1, .xVadd 1 1 1 1 1 3,
    .xVsub 1 1 1 1 1 3, .xVmul 1 1 1 1 1 3, .xVmulh 1 1 1 1 1 3, .xVand 1 1 1 1 1 3, .xVor 1 1 1 1 1 3,
    .xVxor 1 1 1 1 1 3, .xVshl 1 1 1 1 1 3, .xVshr 1 1 1 1 1 3, .xVsra 1 1 1 1 1 3, .xVmin 1 1 1 1 1 3,
    .xVmax 1 1 1 1 1 3, .xVabs 1 1 1 1 3, .xVfadd 1 1 1 1 1 2 1, .xVfsub 1 1 1 1 1 2 1, .xVfmul 1 1 1 1 1 2 1] : List Instr).all (fun i => !wellFormed i) = true := by decide +kernel

/-- Terms that one check of `wellFormed` each refuses. -/
theorem test_illFormed5 : ([.xVfma 1 1 1 1 1 1 2 1, .xVfms 1 1 1 1 1 1 2 1, .xVfnma 1 1 1 1 1 1 2 1, .xVfnms 1 1 1 1 1 1 2 1, .xVfmin 1 1 1 1 1 2 1,
    .xVfmax 1 1 1 1 1 2 1, .xVfabs 1 1 1 1 2 1, .xVfneg 1 1 1 1 2 1, .xVfdiv 1 1 1 1 1 2 1, .xVfsqrt 1 1 1 1 2 1,
    .xVfrcp 1 1 1 1 2 1, .xVfexp2 1 1 1 1 2 1, .xVflog2 1 1 1 1 2 1, .xVftanh 1 1 1 1 2 1, .xVfsigm 1 1 1 1 2 1,
    .xVcmp 1 10 1 1 1 1 2, .xVcmp 1 0 1 1 1 1 3, .xVfcmp 1 6 1 1 1 1 5, .xVfcmp 1 0 1 1 1 1 3, .xVcvtf 1 1 1 2 1 2 0 1,
    .xVcvtf 1 1 1 3 1 5 0 1, .xVcvtf 1 1 1 2 1 33 1 1, .xVcvti 1 1 1 5 1 3 0 1, .xVcvti 1 1 1 3 1 2 0 1, .xVcvti 1 1 1 5 1 2 1 1] : List Instr).all (fun i => !wellFormed i) = true := by decide +kernel

/-- Terms that one check of `wellFormed` each refuses. -/
theorem test_illFormed6 : ([.xVqnt 1 1 1 1 1 5 0 1, .xVqnt 1 1 1 1 1 33 1 1, .xVdqnt 1 1 1 1 1 5, .xVbcast 1 1 1 1 3, .xVextr 1 1 1 3 1,
    .xVins 1 1 1 3 1, .xVrsum 1 1 1 1 3, .xVrfsum 1 1 1 1 2 1, .xVrmax 1 1 1 1 3, .xVrmin 1 1 1 1 3,
    .xVsortk 1 2 1 1 1 3, .xVsortk 1 3 1 1 1 2, .xVsegsum 1 1 1 1 1 3, .xVtopk 1 2 1 1 3 1, .xVtopk 1 3 1 1 2 1,
    .xMmab2 1 1 1 1 3 none] : List Instr).all (fun i => !wellFormed i) = true := by decide +kernel

/-- The same instructions with every field as it must be. -/
theorem test_wellFormed0 : ([.cLoop 1 1 1, .cTshape 1 0 1, .cDbar 1 0, .cFence 1 1 1, .cTsig 1 true 1,
    .cTwait 1 true 1, .aLoop 1 1 1, .aBrq 1 0 1, .aLd8 1 1 1 1 1 0 0 0, .aLd16 1 1 1 1 1 1 0 0,
    .aLd32 1 1 1 1 1 2 0 0, .aLd64 1 1 1 1 1 3 0 0, .aSt8 1 1 1 1 0 0 0, .aSt16 1 1 1 1 1 0 0, .aSt32 1 1 1 1 2 0 0,
    .aSt64 1 1 1 1 3 0 0, .aLdv 1 1 1 1 1 1 0 0, .aLdvBqa 1 1 1 1 1 1 0 0, .aLda8 1 1 1 1 0 0 0, .aLda16 1 1 1 1 1 0 0,
    .aLda32 1 1 1 1 2 0 0, .aLda64 1 1 1 1 3 0 0, .aSta8 1 1 1 1 0 0 0, .aSta16 1 1 1 1 1 0 0, .aSta32 1 1 1 1 2 0 0] : List Instr).all (fun i => wellFormed i) = true := by decide +kernel

/-- The same instructions with every field as it must be. -/
theorem test_wellFormed1 : ([.aSta64 1 1 1 1 3 0 0, .aCpy2d 1 1 1 1 1 1 0 1, .aDqry 1 0 1 1 1, .aDqryv 1 0 1 1 1 1, .aFence 1 1 1,
    .aAaddI32 1 1 1 1 0 0, .aAaddI64 1 1 1 1 0 0, .aAaddF32 1 1 1 1 0 0, .aAmin 1 1 1 1 2 0 0, .aAmax 1 1 1 1 2 0 0,
    .aAand 1 1 1 1 2 0 0, .aAor 1 1 1 1 2 0 0, .aAxor 1 1 1 1 2 0 0, .aAfaddI32 1 1 1 1 1 0 0, .aAfaddI64 1 1 1 1 1 0 0,
    .aAfaddF32 1 1 1 1 1 0 0, .aAxchg 1 1 1 1 1 2 0 0, .aAcas 1 1 1 1 1 1 2 0 0, .aAscat 1 1 1 1 2, .aNmmin 1 1 1 1 2,
    .aNmmax 1 1 1 1 2, .aPut2d 1 1 1 1 1 1 0 1, .aGet2d 1 1 1 1 1 1 0 1, .aRadd 1 1 1 1 2, .aRfadd 1 1 1 1 1 2] : List Instr).all (fun i => wellFormed i) = true := by decide +kernel

/-- The same instructions with every field as it must be. -/
theorem test_wellFormed2 : ([.aRcas 1 1 1 1 1 1 2 0 0, .aAllred 1 0 1 1 1 1 0 5, .aRedscat 1 0 1 1 1 1 0 5, .aAllgath 1 0 1 1 1 1 0 5, .aBcast 1 0 1 1 1 1 0 5,
    .xBx 1 0 1 1, .xLoop 1 1 1, .xVany 1 0 1 1, .xVall 1 0 1 1, .xVadd 1 1 1 1 1 0,
    .xVsub 1 1 1 1 1 0, .xVmul 1 1 1 1 1 0, .xVmulh 1 1 1 1 1 0, .xVand 1 1 1 1 1 0, .xVor 1 1 1 1 1 0,
    .xVxor 1 1 1 1 1 0, .xVshl 1 1 1 1 1 0, .xVshr 1 1 1 1 1 0, .xVsra 1 1 1 1 1 0, .xVmin 1 1 1 1 1 0,
    .xVmax 1 1 1 1 1 0, .xVabs 1 1 1 1 0, .xVfadd 1 1 1 1 1 5 1, .xVfsub 1 1 1 1 1 5 1, .xVfmul 1 1 1 1 1 5 1] : List Instr).all (fun i => wellFormed i) = true := by decide +kernel

/-- The same instructions with every field as it must be. -/
theorem test_wellFormed3 : ([.xVfma 1 1 1 1 1 1 5 1, .xVfms 1 1 1 1 1 1 5 1, .xVfnma 1 1 1 1 1 1 5 1, .xVfnms 1 1 1 1 1 1 5 1, .xVfmin 1 1 1 1 1 5 1,
    .xVfmax 1 1 1 1 1 5 1, .xVfabs 1 1 1 1 5 1, .xVfneg 1 1 1 1 5 1, .xVfdiv 1 1 1 1 1 5 1, .xVfsqrt 1 1 1 1 5 1,
    .xVfrcp 1 1 1 1 5 1, .xVfexp2 1 1 1 1 5 1, .xVflog2 1 1 1 1 5 1, .xVftanh 1 1 1 1 5 1, .xVfsigm 1 1 1 1 5 1,
    .xVcmp 1 0 1 1 1 1 2, .xVfcmp 1 0 1 1 1 1 5, .xVcvtf 1 1 1 2 1 5 0 1, .xVcvti 1 1 1 5 1 2 0 1, .xVqnt 1 1 1 1 1 33 0 1,
    .xVdqnt 1 1 1 1 1 33, .xVbcast 1 1 1 1 2, .xVextr 1 1 1 2 1, .xVins 1 1 1 2 1, .xVrsum 1 1 1 1 0] : List Instr).all (fun i => wellFormed i) = true := by decide +kernel

/-- The same instructions with every field as it must be. -/
theorem test_wellFormed4 : ([.xVrfsum 1 1 1 1 5 0, .xVrmax 1 1 1 1 2, .xVrmin 1 1 1 1 2, .xVsortk 1 2 1 1 1 2, .xVsegsum 1 1 1 1 1 2,
    .xVtopk 1 2 1 1 2 1, .xMmab2 1 1 1 1 2 none] : List Instr).all (fun i => wellFormed i) = true := by decide +kernel

/-! ### States that the hypotheses of the statements hold of -/

/-- What a check that passed answered. -/
theorem ok_of {α β : Type} {x : Except α β} {a : β} (h : x.toOption = some a) : x = .ok a := by
  cases x with
  | error e => simp [Except.toOption] at h
  | ok b => simp [Except.toOption] at h; rw [h]

/-- Core 0 with its three streams running. -/
def k0 : Core := { Core.reset 0 with c := { status := .running }, a := { status := .running }, x := { status := .running } }

/-- The device at work, core 0 in focus. -/
def w0 : State := { State.reset with core := k0, phase := 6, now := 100 }

/-- `w0` with another core in focus. -/
def onCore (k : Core) : State := { w0 with core := k }

/-- `k0` with these values in its first registers of each file. -/
def withValues (x y z : Word) : Core :=
  { k0 with sregs := ((k0.sregs.set 1 x).set 2 y).set 3 z, aregs := ((k0.aregs.set 1 x).set 2 y).set 3 z,
            xregs := ((k0.xregs.set 1 x).set 2 y).set 3 z }

/-- A full counter set: no room for a signal. -/
def fullTokens : Core := { k0 with tokens := Vector.replicate 6 255 }

theorem test_hyp_Retirement :
    ((w0.stream .C).bx = none ∧ (w0.stream .X).bx = none) ∧ w0.core.signalRoom .C 3 = true ∧ (onCore fullTokens).core.signalRoom .C 3 = false ∧
    (let e : LoopEntry := ⟨4, 8, 2⟩; e.stop ≠ 12 ∧ e.stop = 8 ∧ e.remaining - 1 ≠ 0) ∧ (let e : LoopEntry := ⟨4, 8, 1⟩; e.remaining - 1 = 0) ∧
    syncReady .C 12 w0 = false ∧ syncReady .A 8 w0 = false ∧ syncReady .X 4 w0 = false := by decide +kernel

/-- The hypothesis that most statements share: no token asked for, and both asked for and there. -/
theorem test_hyp_syncReady :
    (∀ st : StreamId, st ∈ [StreamId.C, .A, .X] → syncReady st 0 w0 = true ∧ syncReady st 15 (onCore { k0 with tokens := Vector.replicate 6 1 }) = true) := by
  decide +kernel

/-- A loop whose body ends at the address `stop`, in each stream. -/
def looping (pc stop : Word) (n : Nat) : State :=
  let v : StreamState := { pc := pc, status := .running, loops := List.replicate n ⟨4, stop, 2⟩ }
  onCore { withValues 5 0 0 with c := v, a := v, x := v }

theorem test_hyp_Loops :
    (∀ st ∈ [StreamId.C, .A, .X],
      (imemBytes st ≤ ((looping (BitVec.ofNat 64 (imemBytes st - wordSize st)) 8 0).stream st).pc.toNat + wordSize st * 1) ∧
      (let s := looping 16 8 1; (s.stream st).pc.toNat + wordSize st < imemBytes st ∧ (∃ l ∈ (s.stream st).loops.head?, l.stop.toNat < (s.stream st).pc.toNat + wordSize st)) ∧
      (let s := looping 0 64 4; (s.stream st).pc.toNat + wordSize st < imemBytes st ∧ ¬(∃ l ∈ (s.stream st).loops.head?, l.stop.toNat < (s.stream st).pc.toNat + wordSize st) ∧
        (s.stream st).loops.length = 4) ∧
      (let s := looping 0 64 3; (s.stream st).loops.length ≠ 4)) ∧
    (looping 0 64 3).rs 1 ≠ 0 ∧ (looping 0 64 3).rs 2 = 0 := by decide +kernel

theorem test_hyp_ControlRegisters :
    csrClass 0x7FF = none ∧ csrClass 0x100 = some .sv ∧ w0.core.sup = false ∧ (onCore { k0 with banks := [{}] }).core.sup = true ∧
    csrClass 0x000 = some .ro ∧ csrClass 0x012 = some .w1c ∧ csrClass 0x010 = some .rw ∧ ((onCore (withValues 1 2 0)).rs 1).toNat < 2 ∧
    2 ≤ ((onCore (withValues 1 2 0)).rs 2).toNat ∧ writeCsr k0 0x010 0x10000 = none ∧ (writeCsr k0 0x010 0xFFFF).isSome = true ∧
    writeCsr k0 0x100 0xC001 = none ∧ (writeCsr k0 0x100 0xFFFC).isSome = true ∧
    (0xFFFFFFFF : Word).toNat < 2 ^ 32 ∧ ¬(0x100000000 : Word).toNat < 2 ^ 32 := by decide +kernel

/-- The values of the registers that a CSR read speaks of lie in their ranges, with and without a bank in use. -/
theorem test_hyp_ControlRegisterMap :
    (∀ k ∈ ([k0, { k0 with banks := [{}] }, { k0 with num := 159, banks := [{ tpcc := 8 }, {}], tape := { mode := 2, handle := 1023, limit := 5, pos := 4 } }] : List Core),
      let s := onCore k
      s.core.banks.length ≤ 2 ∧ s.core.num < 160 ∧ s.devid < 2 ^ 14 ∧ (∀ i : Fin 6, s.core.tokens[i] ≤ 255) ∧ s.core.tape.mode < 4 ∧
        s.core.tape.handle < 2 ^ 10 ∧ s.core.tape.limit < 2 ^ 25 ∧ s.core.tape.pos < 2 ^ 25) ∧
    (onCore { k0 with banks := [{ tpcc := 8 }, {}] }).core.banks[1]? = some ({} : TrapBank) := by decide +kernel

/-- A store of the A-stream to the core's bytes from an offset on, and the same bytes struck. -/
def storing (off : Nat) (k : Core) : State :=
  { onCore k with flights := [{ id := 1, core := 0, write := true, job := .store, todo := [⟨coreKey 0 off, 8, none, [], false⟩] }] }
def struck (off : Nat) (s : State) : State := { s with poison := [coreKey 0 off] }

theorem test_hyp_CoreStoreWords :
    (let s := storing 1572856 (withValues 1572856 4 1572864)
     s.MemOk ∧ coreHeld (synced .C 0 s) (s.rs 1 + 8 * (0 : BitVec 11).signExtend 64).toNat 8 = true) ∧
    (let s := onCore (withValues 1572856 4 1572864)
     coreHeld (synced .C 0 s) 1572856 8 = false ∧ (struck 1572856 s).poisoned (coreKey s.core.num 1572856) 8 = true ∧ s.MemOk ∧ (s.rs 1 + 8 * (0 : BitVec 11).signExtend 64).toNat % 8 = 0 ∧ (s.rs 1 + 8 * (0 : BitVec 11).signExtend 64).toNat + 8 ≤ 1572864 ∧
       s.poisoned (coreKey s.core.num 1572856) 8 = false ∧
       (s.rs 2 + 8 * (0 : BitVec 11).signExtend 64).toNat % 8 ≠ 0 ∧
       (s.rs 3 + 8 * (0 : BitVec 11).signExtend 64).toNat % 8 = 0 ∧ 1572864 < (s.rs 3 + 8 * (0 : BitVec 11).signExtend 64).toNat + 8) := by
  unfold State.MemOk; decide +kernel

theorem test_hyp_FormatWordsAndShapes :
    (onCore { k0 with fq := ⟨0, List.replicate 63 1⟩ }).core.fq.items.length < 64 ∧
    64 ≤ (onCore { k0 with fq := ⟨0, List.replicate 64 1⟩ }).core.fq.items.length := by decide +kernel

/-- A sealed object: its seal check is that of its description (R105). -/
def sealedObj (o : Shape) : Shape := { o with sealchk := o.crc }

theorem crc_ok (o : Shape) : (sealedObj o).crc = (sealedObj o).sealchk := by unfold sealedObj; unfold Shape.crc; simp only [Shape.desc]

theorem used {k : Core} {h : Nat} {o : Shape} (e : k.handle h = some o) (c : o.crc = o.sealchk) : useHandle k h = .ok o := by
  unfold useHandle; rw [e]; exact if_pos c

/-- 64 elements of a type at the first byte of entry 0. -/
def nearObj (ty : ElemCode) : Shape := sealedObj { base := 0x10000, space := 2, ty := ty, dims := [64], strides := [1] }

/-- A page of NEAR for everything, at 0x10000. -/
def nearPage : Xlat := { vbase := 0x10000, phys := 0, size := 65536, space := 2, r := true, w := true }

/-- `k0` with a handle table and a translation table. -/
def mapped (k : Core) (l : List (Nat × Shape)) (t : List (Nat × Xlat)) : Core := { k with handles := l, ltt := t }

/-- Core 0 whose store holds the description of `nearObj 2` at offset 0. -/
def describing (k : Core) : State :=
  { onCore k with mem := (nearObj 2).desc.zipIdx.foldl (fun m b => Memory.set m (coreKey 0 b.2) b.1) [] }

theorem test_hyp_SealedHandles :
    (let s := describing (mapped (withValues 0 4 1572776) [] [(0, nearPage)])
     let raw := s.bytes (coreKey s.core.num 0) 96
     (s.rs 2).toNat % 8 ≠ 0 ∧ 1572864 < (s.rs 3).toNat + 96 ∧ (s.rs 1).toNat % 8 = 0 ∧ (s.rs 1).toNat + 96 ≤ 1572864 ∧
       coreHeld (synced .C 0 s) 0 96 = false ∧ s.poisoned (coreKey s.core.num 0) 96 = false ∧ sealReason s s.core.ltt raw = none ∧
       s.core.handle 5 = none ∧ raw.length = 96 ∧ (struck 64 s).poisoned (coreKey s.core.num 0) 96 = true ∧
       coreHeld (synced .C 0 { s with flights := (storing 88 k0).flights }) 0 96 = true) ∧
    (let s := describing (mapped (withValues 0 0 0) [(5, nearObj 2)] [(0, nearPage)])
     sealReason s s.core.ltt (s.bytes (coreKey s.core.num 0) 96) = none ∧ (s.core.handle 5).isSome = true) ∧
    (let s := describing (mapped (withValues 0 0 0) [] [])
     sealReason s s.core.ltt (s.bytes (coreKey s.core.num 0) 96) = some 11) := by
  decide +kernel

/-- A store of the core in focus that is still in flight. -/
def store1 : Flight := { id := 1, core := 0, write := true, spaces := [2], job := .store }

/-- Accesses in flight beside `store1`: an acquiring load, a copy with a release behind it that waits for it, and an `.sc` access. -/
def acquire2 : Flight := { id := 2, core := 0, spaces := [2], ord := 1, sco := 2, job := .lda 2, reg := some 1 }
def copy3 : Flight := { id := 3, core := 0, write := true, spaces := [2], job := .copy 0 none }
def release4 : Flight := { id := 4, core := 0, write := true, spaces := [2], ord := 2, sco := 2, after := [3], job := .store }
def placed5 : Flight := { id := 5, core := 0, write := true, spaces := [5], ord := 3, sco := 1, job := .store }

theorem test_hyp_ScopesAndOrder :
    (let s := { w0 with flights := [store1, acquire2, copy3, release4, placed5], nextId := 6 }
     (∀ f ∈ [store1, acquire2, copy3, release4, placed5], f ∈ s.flights ∧ f.core = s.core.num) ∧ (2 : BitVec 2).getLsbD 1 = true ∧
       covers 2 store1.spaces = true ∧ acquire2.ord.getLsbD 0 = true ∧ covers acquire2.sco [2] = true ∧ (1 : BitVec 2) ≠ 0 ∧ placed5.ord = 3 ∧
       placed5.sco ≠ 0 ∧ copy3.job.direct = false ∧ release4.ord.getLsbD 1 = true ∧ copy3.id ∈ release4.after ∧
       fenceOps s 2 2 ≠ [] ∧ s.core.c.awaited = none) ∧
    (let s := { w0 with flights := [store1], nextId := 2 }
     s.IdsOk ∧ store1 ∈ s.flights ∧ store1.ord = 0 ∧ (∀ r ∈ s.flights, r.ord.getLsbD 1 = false) ∧ (1 : BitVec 2).getLsbD 1 = false ∧ (1 : BitVec 2) ≠ 3) ∧
    (let r := { release4 with after := [1] }; let s := { w0 with flights := [store1, r], nextId := 5 }
     store1 ∈ s.flights ∧ store1.job.direct = true ∧ r ∈ s.flights ∧ r.core = s.core.num ∧ r.ord.getLsbD 1 = true ∧ store1.id ∈ r.after) ∧
    (∀ o : BitVec 2, fenceOps w0 o 3 = []) ∧ (1 : BitVec 2) ≠ 3 := by
  unfold State.IdsOk; decide +kernel

theorem test_hyp_CSynchronisation :
    w0.core.c.awaited = none ∧ coveredOps w0 3 = [] ∧ coveredOps { w0 with flights := [store1] } 1 = [1] ∧
    coveredOps { w0 with flights := [store1] } 0 = [] ∧ (2 : BitVec 2).getLsbD 1 = true ∧ (1 : BitVec 2).getLsbD 1 = false ∧
    (onCore { k0 with softPending := true }).core.softPending = true := by decide +kernel

/-- A core in a handler. -/
def inHandler (k : Core) : Core := { k with banks := [{}] }

theorem test_hyp_BarrierArrival :
    (onCore (inHandler k0)).core.sup = true ∧ w0.core.sup = false ∧ w0.core.c.woken = false ∧ w0.core.c.awaited = none ∧
    coveredOps (synced .C 0 w0) 2 = [] ∧ coveredOps (synced .C 0 { w0 with flights := [store1] }) 2 ≠ [] ∧
    w0.arrived w0.core.num = false ∧ (onCore { k0 with c := { status := .running, woken := true } }).core.c.woken = true := by decide +kernel

/-- An object in a space, unchecked by its page. -/
def objIn (space : Nat) : Shape := sealedObj { base := 0x10000, space := space, ty := 2, dims := [64], strides := [1] }

/-- The objects that the statements of handles speak of: NEAR, CORE, REMOTE, HOST, ARCH. -/
def fiveObjs : List (Nat × Shape) := [(1, nearObj 2), (2, objIn 0), (3, objIn 4), (4, objIn 5), (5, objIn 3)]

theorem used_all {k : Core} {l : List (Nat × Shape)} (a : ∀ p ∈ l, k.handle p.1 = some p.2 ∧ ∃ o, p.2 = sealedObj o) :
    ∀ p ∈ l, useHandle k p.1 = .ok p.2 := by
  intro p m; obtain ⟨e, o, q⟩ := a p m; exact used e (q ▸ crc_ok o)

theorem test_hyp_Flush :
    let s := onCore (mapped (withValues 0 256 257) fiveObjs [(0, nearPage)])
    (∀ p ∈ fiveObjs, useHandle s.core p.1 = .ok p.2) ∧ (nearObj 2).space = 2 ∧ (objIn 3).space = 3 ∧ (objIn 0).space = 0 ∧
    (objIn 4).space = 4 ∧ (objIn 5).space ≠ 0 ∧ (objIn 5).space ≠ 4 ∧ (objIn 5).space ≠ 2 ∧ (objIn 5).space ≠ 3 ∧
    (s.rs 1).toNat = 0 ∧ (nearObj 2).footprint < (s.rs 1).toNat + (s.rs 3).toNat ∧ (s.rs 1).toNat + (s.rs 2).toNat ≤ (nearObj 2).footprint ∧
    0 < (s.rs 2).toNat ∧ s.core.c.awaited = none ∧ ownWrites (synced .C 0 s) = [] ∧ s.core.c.woken = false ∧
    (let t := s.setStream .C { s.core.c with woken := true, awaited := some [] }; t.core.c.woken = true ∧ t.core.c.awaited = some []) := by
  refine ⟨used_all ?_, by decide +kernel⟩
  intro p m
  simp only [fiveObjs, List.mem_cons, List.not_mem_nil, or_false] at m
  rcases m with rfl | rfl | rfl | rfl | rfl <;> exact ⟨rfl, _, rfl⟩

/-- A tape object of 256 bytes on a pinned page. -/
def tapePage : Xlat := { nearPage with pin := true }

theorem test_hyp_TapeBinding :
    let s := onCore (mapped (withValues 16 256 264) fiveObjs [(0, tapePage)])
    useHandle s.core 1 = .ok (nearObj 2) ∧ s.core.tape.mode ≠ 1 ∧ (onCore { k0 with tape := { mode := 1 } }).core.tape.mode = 1 ∧
    (s.rs 4).toNat = 0 ∧ (nearObj 2).footprint < (s.rs 3).toNat ∧ 16 ≤ (s.rs 1).toNat ∧ (s.rs 1).toNat % 8 = 0 ∧
    16 ≤ (s.rs 2).toNat ∧ (s.rs 2).toNat % 8 = 0 ∧ (s.rs 2).toNat < 2 ^ 28 ∧ (s.rs 2).toNat ≤ (nearObj 2).footprint ∧ (nearObj 2).space = 2 ∧
    tapeFault (nearObj 2) 1 (piecesOf s.core.ltt (nearObj 2).base 256) = none ∧
    (let tp : Tape := { handle := 1, limit := 32, obj := some (nearObj 2), xlats := (piecesOf s.core.ltt (nearObj 2).base 256).filterMap (fun p => p.entry.map (·.2)) }
     (tapeWrite (s.setTape tp) .C 0 (tapeHeader tp)).toOption.isSome = true) := by
  refine ⟨used rfl (crc_ok _), ?_⟩; decide +kernel

/-- A page that may migrate, in a state and a tier. -/
def movable (space : Nat) (st : PageState) : Xlat := { nearPage with space := space, alt := 65536, altv := true, state := st }

/-- The core with one movable page. -/
def moving (e : Xlat) : State := onCore (mapped (withValues 0 7 0) fiveObjs [(0, e)])

theorem test_hyp_MigrateRequests :
    useHandle (moving nearPage).core 1 = .ok (nearObj 2) ∧ (objIn 0).space ≠ 2 ∧ (objIn 0).space ≠ 3 ∧ lookup (onCore k0).core.ltt 0x10000 = none ∧
    lookup (moving (movable 2 .present)).core.ltt 0x10000 = some (0, movable 2 .present) ∧ { nearPage with pin := true }.pin = true ∧
    (∀ e ∈ [movable 2 .present, movable 3 .present, movable 2 .absent], lookup (moving e).core.ltt 0x10000 = some (0, e) ∧ e.pin = false ∧
      e.rdup = false ∧ e.altv = true ∧ migrationOf (moving e) e = none) ∧
    (∀ x ∈ [{ movable 2 .present with vbase := 0x40000, pin := true }, { movable 2 .present with vbase := 0x40000, rdup := true }],
      let s := onCore (mapped (withValues 0 7 0) fiveObjs [(0, movable 2 .present), (1, x)])
      lookup s.core.ltt 0x10000 = some (0, movable 2 .present) ∧ x ∈ pageEntries s (movable 2 .present)) ∧
    (∀ e ∈ [movable 2 .present, movable 3 .present, movable 2 .absent], ∀ x ∈ e :: pageEntries (moving e) e, x.pin = false ∧ x.rdup = false ∧ x.altv = true) ∧
    (movable 2 .present).space = 2 ∧ (movable 3 .present).space ≠ 2 ∧ (movable 2 .absent).space = 2 ∧
    (let m : Migration := ⟨1, 2, 0, 65536, 65536, true, true, [], []⟩
     migrationOf { moving (movable 2 .migratingOut) with migrations := [m] } (movable 2 .migratingOut) = some m ∧ 5 - m.space = 3 ∧ 5 - m.space ≠ 2) := by
  refine ⟨used rfl (crc_ok _), ?_⟩; decide +kernel

theorem test_hyp_TrapHaltAndReturn :
    w0.core.signalRoom .C 3 = true ∧ w0.core.pending = none ∧ w0.core.c.psig = 0 ∧ w0.core.sup = false ∧ (onCore (inHandler k0)).core.sup = true ∧
    (let b : TrapBank := {}
     b.tcause.getLsbD 8 = false ∧ (onCore (inHandler k0)).core.banks = [b] ∧ (onCore { k0 with banks := [b, b] }).core.banks = [b, b] ∧
       (onCore (inHandler k0)).core.hardStop = false ∧ (onCore (inHandler k0)).core.signalRoom .C 0 = true) := by decide +kernel

/-- A bank whose streams resume behind the instruction that trapped, with a transfer pending, and one whose trap ends the launch. -/
def skipping (slots : Nat) : TrapBank := { tpcc := 0x100008, tpca := 0x100010, tpcx := 0x100018, bx := some ⟨64, true, slots⟩ }
def failing : TrapBank := { tcause := 0x10A }

theorem test_hyp_Skip :
    (∀ n < 3, let b := skipping n
     b.tcause.getLsbD 8 = false ∧ b.tpcc.getLsbD 20 = true ∧ b.tpcx.getLsbD 20 = true ∧ bits b.tpcc 18 1 = 0 ∧ bits b.tpcx 18 1 = 0 ∧
       b.bx = some ⟨64, true, n⟩ ∧ (onCore { k0 with banks := [b] }).core.banks = [b]) ∧
    bits (0x40008 : Word) 18 1 = 1 ∧ (0x40008 : Word).getLsbD 20 = false := by decide +kernel

/-- Memory with nothing listed is in its canonical form. -/
theorem clean {s : State} (h : s.mem = []) : s.MemOk := by unfold State.MemOk; rw [h]; decide

/-- An instruction that goes on. -/
noncomputable def goes (s : State) (i : Instr) : Bool :=
  match exec i s with
  | .next _ => true
  | _ => false

theorem next_of {s : State} {i : Instr} (h : goes s i = true) : ∃ t, exec i s = .next t := by
  unfold goes at h; split at h <;> first | exact ⟨_, ‹_›⟩ | simp at h

theorem test_hyp_CSystemFrames :
    (∀ i ∈ ([.cDbar 0 1, .cFlush 0 1 0 1, .cTapec 0 1 0, .cTrap 0 5, .cHalt 0, .cMigrate 0 1 1 2 true] : List Instr), ∃ t, exec i w0 = .next t) ∧
    (let s := onCore (inHandler k0)
     (∀ i ∈ ([.cRtt 0, .cDreg 0 1 2, .cDfree 0 1, .cSavec 0 1 2, .cRestc 0 1 2] : List Instr), ∃ t, exec i s = .next t) ∧
       s.core.hardStop = false ∧ (∀ k, s.core.banks.getLast? = some k → k.tcause.getLsbD 8 = false)) := by
  refine ⟨?_, ?_, rfl, ?_⟩
  · have h : ∀ i ∈ ([.cDbar 0 1, .cFlush 0 1 0 1, .cTapec 0 1 0, .cTrap 0 5, .cHalt 0, .cMigrate 0 1 1 2 true] : List Instr), goes w0 i = true := by
      decide +kernel
    exact fun i m => next_of (h i m)
  · have h : ∀ i ∈ ([.cRtt 0, .cDreg 0 1 2, .cDfree 0 1, .cSavec 0 1 2, .cRestc 0 1 2] : List Instr), goes (onCore (inHandler k0)) i = true := by
      decide +kernel
    exact fun i m => next_of (h i m)
  · intro k e; obtain rfl : ({} : TrapBank) = k := Option.some.inj e; rfl

theorem test_hyp_Fail :
    (let l : Launch := { id := 7, mailbox := 3, tag := 9, record := {}, state := .running, members := [0] }
     let s := { onCore { k0 with banks := [failing], member := some (7, 0) } with launches := [l] }
     s.MemOk ∧ s.core.sup = true ∧ (synced .C 0 s).core.signalRoom .C 0 = true ∧ s.core.banks.getLast? = some failing ∧ failing.tcause.getLsbD 8 = true ∧
       s.core.member = some (l.id, 0) ∧ s.launches = [l] ∧ s.core.num ∈ l.members ∧ teamOver s l = false) :=
  ⟨clean rfl, by decide +kernel⟩

/-- Core 0 in a handler, with 32 bytes at offset 32 of its store and values in s1 and s2. -/
def operands (k : Core) (x : Word) (raw : List Byte) : State :=
  { onCore (inHandler { k with sregs := (k.sregs.set 1 x).set 2 32 }) with mem := raw.zipIdx.foldl (fun m b => Memory.set m (coreKey 0 (32 + b.2)) b.1) [] }

/-- The 32 bytes of a valid entry like `nearPage` at an address, or of one without VALID. -/
def xlatRaw (va valid : Nat) : List Byte :=
  leBytes 8 va ++ leBytes 8 0 ++ leBytes 8 0 ++ [0, 2, 3, BitVec.ofNat 8 (128 * valid)] ++ leBytes 4 0

/-- The 32 bytes of a region of one block: number, kind 2, INT32, 1 KiB blocks. -/
def regionRaw (num size : Nat) : List Byte := leBytes 2 num ++ [2, 2, 0, 10] ++ leBytes 2 0 ++ leBytes 8 0x10000 ++ leBytes 8 size ++ leBytes 8 0

theorem test_hyp_SupervisorInstructions :
    w0.core.sup = false ∧ (operands k0 255 (xlatRaw 0x20000 1)).core.sup = true ∧
    255 < ((operands k0 256 []).rs 1).toNat ∧ ((operands k0 255 []).rs 1).toNat ≤ 255 ∧
    (let s := operands k0 255 (xlatRaw 0x20000 1)
     let off := (s.rs 2).toNat
     off % 32 = 0 ∧ off + 32 ≤ 1572864 ∧ off % 8 = 0 ∧ coreHeld (synced .C 0 s) off 32 = false ∧ s.poisoned (coreKey s.core.num off) 32 = false ∧
       (struck off s).poisoned (coreKey s.core.num off) 32 = true ∧ 33 % 32 ≠ 0 ∧ 33 % 8 ≠ 0 ∧ 1572864 < 1572864 + 32) := by decide +kernel

theorem test_hyp_TranslationWords :
    (let s := operands (mapped k0 [] [(0, nearPage)]) 255 (xlatRaw 0x20000 1)
     ∃ e, parseXlat s.ret0 s.ret1 (s.bytes (coreKey s.core.num 32) 32) = some (true, e) ∧ ∀ q ∈ s.core.ltt, q.1 ≠ 255 → q.2.overlaps e = false) ∧
    (let s := operands (mapped k0 [] [(0, nearPage)]) 255 (xlatRaw 0x10000 1)
     ∃ e, parseXlat s.ret0 s.ret1 (s.bytes (coreKey s.core.num 32) 32) = some (true, e) ∧ ∃ q ∈ s.core.ltt, q.1 ≠ 255 ∧ q.2.overlaps e = true) ∧
    (let s := operands k0 0 (xlatRaw 0x20000 0); ∃ e, parseXlat s.ret0 s.ret1 (s.bytes (coreKey s.core.num 32) 32) = some (false, e)) ∧
    (let s := operands k0 0 (xlatRaw 0x20001 1); parseXlat s.ret0 s.ret1 (s.bytes (coreKey s.core.num 32) 32) = none) := by
  refine ⟨⟨_, rfl, ?_⟩, ⟨_, rfl, ?_⟩, ⟨_, rfl⟩, ?_⟩ <;> decide +kernel

theorem test_hyp_RegionWords :
    (let s := operands (mapped k0 [] [(0, nearPage)]) 7 (regionRaw 7 1024)
     (∃ g, declared (synced .C 0 s) 7 (s.bytes (coreKey s.core.num 32) 32) = some g) ∧ s.region? 7 = none ∧ s.EntriesDeclared) ∧
    (let s := operands (mapped k0 [] [(0, nearPage)]) 7 (regionRaw 7 1000); declared (synced .C 0 s) 7 (s.bytes (coreKey s.core.num 32) 32) = none) := by
  refine ⟨⟨⟨_, rfl⟩, ?_⟩, ?_⟩ <;> (try unfold State.EntriesDeclared) <;> decide +kernel

/-- A region of one block of 1 KiB at the first byte of `nearPage`. -/
def region7 : Region :=
  { num := 7, kind := 2, ty := 2, watch := false, blockLog := 10, base := 0x10000, size := 1024, seed := 0, space := 2,
    pages := [(0, nearKey 0, 1024)], die := 0, start := 0 }

/-- A pinned page of 2 MiB for a save area. -/
def areaPage : Xlat := { vbase := 0x200000, phys := 0x200000, size := 0x200000, space := 2, r := true, w := true, pin := true }

theorem test_hyp_DfreeAndSavec :
    (let s := { w0 with regions := [region7], entries := [((7, 0), { state := .exact })] }
     s.region? 7 = some region7 ∧ regionOps s 7 = [] ∧ s.core.c.awaited = none ∧ s.EntriesDeclared ∧
       regionOps { s with flights := [{ store1 with job := .dscan 7 [0] }] } 7 ≠ []) ∧
    (let s := operands (mapped k0 [] [(0, areaPage)]) 0x200000 []
     s.core.c.woken = false ∧ 0x200000 % 65536 = 0 ∧ 2097152 ≤ (0x200000 : Nat) ∧ areaTrap s 0x200000 0x200000 true = none ∧ s.core.engineHeld = false ∧
       (areaTrap s 0x210000 0x200000 true).isSome = true ∧ (areaTrap s 0x200000 0x200001 true).isSome = true ∧ 0x200001 % 65536 ≠ 0 ∧ s.poisoned (coreKey s.core.num 0) 1572864 = false ∧
       (struck 64 s).poisoned (coreKey s.core.num 0) 1572864 = true ∧ areaTrap s 0x200000 0x200000 false = none ∧ areaBroken s s.core 0x200000 = false) := by
  unfold State.EntriesDeclared; decide +kernel

/-! ### Operands of the A-stream -/

theorem free_regs {s : State} {l : List Nat} (f : s.flights = []) (d : s.core.reports = []) : RegsFree s l := by
  intro r _ _; simp [State.writers, Core.report?, f, d]

theorem regs_of {s : State} {l : List Nat} (h : ∀ r ∈ l, r ≠ 0 → s.writers r = [] ∧ s.core.report? r = none) : RegsFree s l := h

theorem names_of {s : State} {h : Handle} {cf : Nat} {more : List Nat} {o : Shape} (e : s.core.handle h.val = some o) (c : o.crc = o.sealchk)
    (r : cf + o.rank ≤ 32) (f : RegsFree s (coordRegs cf o.rank ++ more)) : Names s h cf more (operandAt s h cf o) := by
  refine ⟨?_, rfl, f⟩
  unfold named; rw [e]; exact (if_neg (by omega)).trans (used e c)

theorem names2_of {s : State} {h1 h2 : Handle} {c1 c2 : Nat} {more : List Nat} {o p : Shape} (e1 : s.core.handle h1.val = some o)
    (e2 : s.core.handle h2.val = some p) (k1 : o.crc = o.sealchk) (k2 : p.crc = p.sealchk) (r1 : c1 + o.rank ≤ 32) (r2 : c2 + p.rank ≤ 32)
    (f : RegsFree s (coordRegs c1 o.rank ++ coordRegs c2 p.rank ++ more)) : Names2 s h1 c1 h2 c2 more (operandAt s h1 c1 o) (operandAt s h2 c2 p) := by
  refine ⟨?_, rfl, rfl, f⟩
  have n1 : ¬(32 < c1 + o.rank) := by omega
  have n2 : ¬(32 < c2 + p.rank) := by omega
  simp [named2, e1, e2, used e1 k1, used e2 k2, operandAt, n1, n2]

theorem names {s : State} {h : Handle} {cf : Nat} {more : List Nat} {o : Shape} (e : s.core.handle h.val = some o) (c : o.crc = o.sealchk)
    (r : cf + o.rank ≤ 32) (f : s.flights = []) (d : s.core.reports = []) : Names s h cf more (operandAt s h cf o) := names_of e c r (free_regs f d)

theorem names2 {s : State} {h1 h2 : Handle} {c1 c2 : Nat} {more : List Nat} {o p : Shape} (e1 : s.core.handle h1.val = some o)
    (e2 : s.core.handle h2.val = some p) (k1 : o.crc = o.sealchk) (k2 : p.crc = p.sealchk) (r1 : c1 + o.rank ≤ 32) (r2 : c2 + p.rank ≤ 32)
    (f : s.flights = []) (d : s.core.reports = []) : Names2 s h1 c1 h2 c2 more (operandAt s h1 c1 o) (operandAt s h2 c2 p) := names2_of e1 e2 k1 k2 r1 r2 (free_regs f d)

/-- The core with these values in a1–a3, handles and pages, its instruction of the A-stream started. -/
def acc (x y z : Word) (l : List (Nat × Shape)) (t : List (Nat × Xlat)) : State := synced .A 0 (onCore (mapped (withValues x y z) l t))

/-- Core 0 with entries in a queue or two. -/
def queued (v : List Vec) (l : List LqEntry) : Core :=
  { withValues 1 2 3 with sq := ⟨0, v⟩, lq := k0.lq.set 0 ⟨0, l⟩ }

theorem test_hyp_AResultsAndQueues :
    RegsFree w0 [1, 2, 3] ∧
    (let s := onCore { k0 with bqx := ⟨0, [⟨some true, 98, none⟩]⟩ }; s.core.bqx.items = [⟨some true, 98, none⟩] ∧ 98 + 2 ≤ s.now) ∧
    (onCore { k0 with bqa := ⟨0, List.replicate 127 {}⟩ }).core.bqa.items.length < 128 ∧
    128 ≤ (onCore { k0 with bqa := ⟨0, List.replicate 128 {}⟩ }).core.bqa.items.length ∧
    (onCore { k0 with vq := ⟨0, [7]⟩ }).core.vq.items = [7] ∧ w0.core.vq.items = [] ∧ lqWait w0.core 0 1 = none ∧
    lqWait (queued [] (List.replicate 63 {})) 0 1 = none ∧ lqWait (queued [] (List.replicate 64 {})) 0 1 = some (.push 0 1) ∧
    lqWait { k0 with slipmax := 1, lq := k0.lq.set 1 ⟨0, [{}]⟩ } 0 1 = some (.slip 0 1) := by
  refine ⟨free_regs rfl rfl, ?_⟩; decide +kernel

theorem test_hyp_ALoadsIssue :
    let s := acc 0 64 65 [(1, nearObj 2)] [(0, nearPage)]
    let p := operandAt s 1 1 (nearObj 2)
    Names s 1 1 [2] p ∧ accepts p 2 = true ∧ runCount s 2 2 = 64 ∧ runCount s 2 2 ≤ runLimit 2 ∧ lqWait s.core 0 1 = none ∧ 0 < runCount s 2 2 ∧
    p.obj.inBounds p.crd 64 = true ∧ Passes s [p] (p.run 64 false) ∧ runCount s 4 2 = 0 ∧
    sliceOk p = true ∧ p.obj.inBounds p.crd 1 = true ∧ Passes s [p] [⟨p, p.va, p.sliceBytes, false⟩] ∧ Passes s [p] (p.run 1 false) := by
  refine ⟨names rfl (crc_ok _) (by decide) rfl rfl, ?_⟩; unfold Passes; decide +kernel

/-- An object whose blocks have digests, and its page; its region is `region7`. -/
def blockObj : Shape := sealedObj { base := 0x10000, space := 2, ty := 2, dims := [256], strides := [1], hasReg := true, region := 7 }

/-- The core with `region7` declared. -/
def dig (x y z : Word) : State := { acc x y z [(1, blockObj)] [(0, nearPage)] with regions := [region7] }

theorem test_hyp_AVersionLoads :
    let s := dig 255 9 0
    let p := operandAt s 1 1 blockObj
    Names s 1 1 [2, 3] p ∧ regionOf s p = some (region7, 0) ∧ blockEntries region7.blockBytes ≤ 64 ∧
    blockEntries region7.blockBytes ≤ s.core.slipmax.toNat ∧ p.obj.inBounds p.crd 1 = true ∧ Passes s [p] [blockSpan p region7 0 1] ∧
    lqWait s.core 0 (blockEntries region7.blockBytes) = none ∧ s.core.bqa.items.length < 128 := by
  refine ⟨names rfl (crc_ok _) (by decide) rfl rfl, ?_⟩; unfold Passes; decide +kernel

/-- The core that stores the head of sq: `x` is the coordinate, `n` the count in a2. -/
def popping (x n : Word) : State :=
  synced .A 0 (onCore (mapped { queued [Vec.zero] [] with aregs := (withValues x n 0).aregs } [(1, nearObj 2)] [(0, nearPage)]))

theorem test_hyp_AStoresIssue :
    (let s := popping 0 64
     let p := operandAt s 1 1 (nearObj 2)
     Names s 1 1 [2] p ∧ accepts p 2 = true ∧ s.core.sq.items = [Vec.zero] ∧ runCount s 2 2 = 64 ∧ 64 ≤ runLimit 2 ∧
       p.obj.inBounds p.crd 64 = true ∧ Passes s [p] (p.run 64 true) ∧ sliceOk p = true ∧
       Passes s [p] [⟨p, p.va, p.sliceBytes, true⟩] ∧ p.obj.inBounds p.crd 1 = true ∧ Passes s [p] (p.run 1 true)) ∧
    (let s := popping 63 0
     let p := operandAt s 1 1 (nearObj 2)
     Names s 1 1 [2] p ∧ runCount s 2 2 = 0 ∧ p.obj.inBounds p.crd 1 = true ∧ Passes s [p] (p.run 0 true)) ∧
    (let s := popping 64 0
     let p := operandAt s 1 1 (nearObj 2)
     Names s 1 1 [2] p ∧ runCount s 2 2 = 0 ∧ p.obj.inBounds p.crd (max 1 0) = false) := by
  refine ⟨⟨names rfl (crc_ok _) (by decide) rfl rfl, ?_⟩, ⟨names rfl (crc_ok _) (by decide) rfl rfl, ?_⟩,
    names rfl (crc_ok _) (by decide) rfl rfl, ?_⟩ <;> (try unfold Passes) <;> decide +kernel

theorem test_hyp_AccessChecks :
    w0.core.handle 1 = none ∧
    (let s := acc 64 0 0 [(1, nearObj 2)] [(0, nearPage)]; let p := operandAt s 1 1 (nearObj 2)
     Names s 1 1 [5] p ∧ accepts p 3 = false ∧ accepts p 2 = true ∧ p.obj.inBounds p.crd 1 = false) ∧
    (let s := acc 63 0 0 [(1, nearObj 2)] []; let p := operandAt s 1 1 (nearObj 2)
     Names s 1 1 [5] p ∧ p.obj.inBounds p.crd 1 = true ∧ ∃ t, checkSpans s [p] (p.run 1 false) = .trap t ∧ t.cause = .programAddress) ∧
    (let s := acc 63 0 0 [(1, nearObj 2)] [(0, movable 2 .absent)]; let p := operandAt s 1 1 (nearObj 2)
     ∃ t, checkSpans s [p] (p.run 1 false) = .trap t ∧ t.cause = .pageAbsent) ∧
    (let s := acc 63 0 0 [(1, nearObj 2)] [(0, { nearPage with w := false })]; let p := operandAt s 1 1 (nearObj 2)
     ∃ t, checkSpans s [p] (p.run 1 true) = .trap t ∧ t.cause = .permission) ∧
    (let s := acc 63 0 0 [(1, nearObj 2)] [(0, movable 2 .migratingIn)]; let p := operandAt s 1 1 (nearObj 2)
     checkSpans s [p] (p.run 1 true) = .wait (.migratingIn 0)) ∧
    (let s := { acc 0 0 0 [(1, nearObj 2)] [(0, nearPage)] with regions := [{ region7 with watch := true }] }; let p := operandAt s 1 1 (nearObj 2)
     checkSpans s [p] (p.run 1 true) = .ok () ∧ watchedSpans s (p.run 1 true) = true ∧ s.core.a.woken = false ∧ s.core.a.status = .running) := by
  refine ⟨by decide +kernel, ⟨names rfl (crc_ok _) (by decide) rfl rfl, by decide +kernel⟩,
    ⟨names rfl (crc_ok _) (by decide) rfl rfl, by decide +kernel, ⟨_, rfl, by decide +kernel⟩⟩, ⟨_, rfl, by decide +kernel⟩,
    ⟨_, rfl, by decide +kernel⟩, by decide +kernel, by decide +kernel⟩

/-- Two objects of one page, the second 8 KiB above the first, of two rows each. -/
def rowsObj (base : Nat) : Shape := sealedObj { base := base, space := 2, rank := 2, ty := 2, dims := [2, 64], strides := [64, 1] }

/-- The core that copies `len` bytes: a1 = 0 and a2 = 0 for the coordinates, a3 the bytes of a row, a4 the rows. -/
def copying (len rows : Word) (n : Nat) : State :=
  let k := mapped k0 [(1, rowsObj 0x12000), (2, rowsObj 0x10000)] [(0, nearPage)]
  let f : Flight := { id := 1, core := 0, write := true, job := .copy 0 none, reg := some 9 }
  synced .A 0 { onCore { k with aregs := (k.aregs.set 3 len).set 4 rows } with flights := List.replicate n f, nextId := 2 }

theorem test_hyp_CopiesIssue :
    (let s := copying 256 2 0
     let d := operandAt s 1 1 (rowsObj 0x12000)
     let q := operandAt s 2 1 (rowsObj 0x10000)
     Names2 s 1 1 2 1 [3, 4] d q ∧ RegsFree s [9] ∧ (s.ra 3).toNat = 256 ∧ (s.ra 4).toNat = 2 ∧ copyRefused s true false d q 256 2 = false ∧
     copyRefused s false true d q 256 1 = false ∧ ((chainOut q.obj q.crd 256).map (·.len)).getD 0 = 256 ∧
     q.obj.inBounds q.crd 1 = true ∧ inFootprint q 256 2 = true ∧ d.obj.inBounds d.crd 1 = true ∧ inFootprint d 256 2 = true ∧
     Passes s [q, d] (rowSpans q 256 2 false ++ rowSpans d 256 2 true) ∧ inFootprint q 256 1 = true ∧ inFootprint d 256 1 = true ∧
     Passes s [q, d] (rowSpans q 256 1 false ++ rowSpans d 256 1 true) ∧ 256 * 2 ≠ 0 ∧ copySlots s < 128) ∧
    copySlots (copying 256 2 127) < 128 ∧ 128 ≤ copySlots (copying 256 2 128) ∧
    (let s := copying 0 2 0
     let d := operandAt s 1 1 (rowsObj 0x12000)
     let q := operandAt s 2 1 (rowsObj 0x10000)
     Names2 s 1 1 2 1 [3, 4] d q ∧ copyRefused s true false d q 0 2 = false ∧ inFootprint q 0 2 = true ∧
     Passes s [q, d] (rowSpans q 0 2 false ++ rowSpans d 0 2 true)) := by
  refine ⟨⟨names2 rfl rfl (crc_ok _) (crc_ok _) (by decide) (by decide) rfl rfl, free_regs rfl rfl, ?_⟩, ?_, ?_,
    names2 rfl rfl (crc_ok _) (crc_ok _) (by decide) (by decide) rfl rfl, ?_⟩ <;> (try unfold Passes) <;> decide +kernel

/-- A piece of memory. -/
def piece (key len : Nat) : Seg := ⟨key, len, none, [], false⟩

theorem test_hyp_CopyPieces :
    (let dst := [piece 0 8, piece 64 24]; let src := [piece 128 20, piece 256 12]
     segBytes dst = segBytes src ∧ dst.length + src.length ≤ 4) ∧
    (let b : List Byte := List.replicate 32 7 ++ List.replicate 224 0
     1 ≤ 2 ∧ b.length = 256 ∧ (∃ o, packBlock 2 b = some o ∧ o.length = 64) ∧ packBlock 1 b = none) := by
  refine ⟨by decide +kernel, by decide, by decide +kernel, ⟨_, rfl, by decide +kernel⟩, by decide +kernel⟩

/-- `region7` of another kind. -/
def digOf (kind : Nat) (x y z : Word) : State := { acc x y z [(1, blockObj)] [(0, nearPage)] with regions := [{ region7 with kind := kind }] }

theorem test_hyp_DigestInstructions :
    let s := dig 255 1 2
    let p := operandAt s 1 1 blockObj
    regionOf s p = some (region7, 0) ∧ Names s 1 1 [3] p ∧ Names s 1 1 [2] p ∧ holdsField 2 (fieldOf 3) = true ∧ fieldOf 3 ≠ .sig ∧
    holdsField 0 (fieldOf 0) = true ∧ holdsField 1 (fieldOf 2) = true ∧ holdsField 3 (fieldOf 5) = true ∧ holdsField 0 (fieldOf 6) = true ∧
    p.obj.inBounds p.crd 1 = true ∧ checkQuery s [p] [blockSpan p region7 0 1] = .ok () ∧ 0 < (s.ra 2).toNat ∧
    (s.ra 2).toNat ≤ queryLimit (fieldOf 3) ∧ 0 + (s.ra 2).toNat ≤ region7.size / region7.blockBytes ∧ lqWait s.core 0 1 = none ∧
    (s.ra 2).toNat ≤ 65536 ∧ checkSpans s [p] [blockSpan p region7 0 1] = .ok () := by
  refine ⟨by decide +kernel, names rfl (crc_ok _) (by decide) rfl rfl, names rfl (crc_ok _) (by decide) rfl rfl, ?_⟩; decide +kernel

theorem test_hyp_AtomicsIssue :
    (let s := acc 63 5 6 [(1, nearObj 2)] [(0, nearPage)]
     let p := operandAt s 1 1 (nearObj 2)
     Names s 1 1 [2, 3, 4] p ∧ p.obj.space ≠ 4 ∧ p.obj.space ≠ 5 ∧ elemBits p.obj.ty = elemBits 2 ∧ p.obj.inBounds p.crd 1 = true ∧
     checkSpans s [p] (p.run 1 true) = .ok ()) ∧
    (∀ ty ∈ ([3, 5] : List ElemCode), elemBits (nearObj ty).ty = elemBits ty ∧ (nearObj ty).space ≠ 4 ∧ (nearObj ty).space ≠ 5) := by
  refine ⟨⟨names rfl (crc_ok _) (by decide) rfl rfl, by decide +kernel⟩, by decide +kernel⟩

/-- Elements in a grove's store, and in an archive tier. -/
def groveObj : Shape := objIn 1
def archObj : Shape := objIn 3

/-- The core with vectors in sq, a count in a2, and an object on a page of its space. -/
def scattering (o : Shape) (n : Word) (l : List Vec) : State :=
  synced .A 0 (onCore (mapped { queued l [] with aregs := (withValues 0 n 0).aregs } [(1, o)] [(0, { nearPage with space := o.space })]))

theorem test_hyp_ScatterAndNearMemory :
    (let s := scattering groveObj 64 [Vec.zero, Vec.zero]
     let p := operandAt s 1 1 groveObj
     Names s 1 1 [2] p ∧ p.obj.space = 1 ∧ elemBits p.obj.ty = elemBits 2 ∧ (s.ra 2).toNat = 64 ∧ s.core.sq.items = [Vec.zero, Vec.zero] ∧
     (∀ q ∈ (List.range 64).map (fun i => p.shifted (Vec.zero.toList.getD i 0).toNat), q.obj.inBounds q.crd 1 = true) ∧
     checkSpans s [p] (((List.range 64).map (fun i => p.shifted (Vec.zero.toList.getD i 0).toNat)).flatMap (fun q => q.run 1 true)) = .ok ()) ∧
    ((scattering groveObj 0 [Vec.zero, Vec.zero]).ra 2).toNat = 0 ∧
    (let s := scattering archObj 64 [Vec.zero]
     let p := operandAt s 1 1 archObj
     Names s 1 1 [2] p ∧ p.obj.space = 3 ∧ (s.ra 2).toNat = 64 ∧ s.core.sq.items = [Vec.zero] ∧ p.obj.inBounds p.crd 64 = true ∧
     checkSpans s [p] ((List.range 64).flatMap (fun j => (p.shifted j).run 1 true)) = .ok ()) ∧
    (let s := scattering archObj 0 [Vec.zero]
     let p := operandAt s 1 1 archObj
     Names s 1 1 [2] p ∧ (s.ra 2).toNat = 0 ∧ p.obj.inBounds p.crd 1 = true ∧ checkSpans s [p] [] = .ok ()) ∧
    (let s := acc 64 64 0 [(1, archObj)] [(0, { nearPage with space := 3 })]
     let p := operandAt s 1 1 archObj
     Names s 1 1 [2] p ∧ p.obj.inBounds p.crd (max 1 64) = false) := by
  refine ⟨⟨names rfl (crc_ok _) (by decide) rfl rfl, by decide +kernel⟩, by decide +kernel, ⟨names rfl (crc_ok _) (by decide) rfl rfl, by decide +kernel⟩,
    ⟨names rfl (crc_ok _) (by decide) rfl rfl, by decide +kernel⟩, names rfl (crc_ok _) (by decide) rfl rfl, by decide +kernel⟩

/-- The core that waits on a sector of `nearPage`, with what its A-stream read last. -/
def reading (r : Option LastRead) : State :=
  let t := acc 0 0 0 [(1, nearObj 2)] [(0, nearPage)]
  t.setCore { t.core with lastRead := r }

theorem test_hyp_AEndFencesAndWaits :
    (let own := fun (s : State) => s.opsWhere (fun f => f.core == s.core.num && ((f.stream == .A && (!f.job.reads || f.job.pools)) || f.job == .tapeWrite))
     w0.core.a.awaited = none ∧ (∀ i < 34, w0.core.report? i = none) ∧ w0.core.signalRoom .A 3 = true ∧ own w0 = [] ∧
      own { w0 with flights := [store1] } = [1] ∧ own { w0 with flights := [{ store1 with stream := .X, job := .tapeWrite }] } = [1] ∧
      own { w0 with flights := [{ store1 with write := false, job := .embag 0 0 {} 0 0 {} 0 1 none false 0 }] } = [1] ∧
      own { w0 with flights := [{ store1 with write := false, job := .kvatt 0 0 {} {} 0 1 0 [] none false 0 }] } = [1] ∧
      own { w0 with flights := [{ store1 with write := false, job := .lda 2 }] } = []) ∧
    (let covered := fun (s : State) (o sc : BitVec 2) => s.opsWhere (fun f => f.core == s.core.num && ((o.getLsbD 1 && covers sc f.spaces) ||
       (o == 3 && sc != 0 && f.ord == 3 && f.sco != 0)))
     covered w0 3 3 = [] ∧ covered { w0 with flights := [store1] } 2 1 ≠ [] ∧ covered { w0 with flights := [placed5] } 3 1 ≠ [] ∧
       w0.core.report? 0 = none ∧ w0.core.report? 32 = none ∧ w0.core.report? 33 = none) ∧
    (({ w0 with flights := [{ store1 with job := .nm .add 2 [] none }] }).opsWhere (fun f => f.core == w0.core.num && f.job.isNm) ≠ [] ∧
      ({ w0 with flights := [{ store1 with job := .put [4] 0 }] }).opsWhere (fun f => f.core == w0.core.num && f.job.isFabric) ≠ []) ∧
    (∀ r, Names (reading r) 1 1 [] (operandAt (reading r) 1 1 (nearObj 2))) ∧
    (let n := nearKey 0 / 32
     ∀ r ∈ [none, some { sectors := [n], written := [n] }, some { lost := true }, some { sectors := [n] }, some { sectors := [3], written := [3] }],
       let s := reading r
       let p := operandAt s 1 1 (nearObj 2)
       p.obj.space = 2 ∧ p.obj.inBounds p.crd 1 = true ∧ checkSpans s [p] (p.run 1 false) = .ok () ∧ s.core.a.woken = false ∧
         s.core.lastRead = r ∧ (∀ e ∈ s.watch, e.core ≠ s.core.num) ∧ ((segsOfSpans s (p.run 1 false)).head?.map (·.key)).getD 0 / 32 = n ∧
         ((∃ l ∈ r, l.sectors.contains n = true ∧ l.written.contains n = true) ∨ (∃ l ∈ r, l.lost = true ∧ l.sectors = []) ∨
           (∀ l ∈ r, l.lost = false ∧ (n ∈ l.sectors → n ∉ l.written)))) := by
  refine ⟨by decide +kernel, by decide +kernel, by decide +kernel, fun _ => names rfl (crc_ok _) (by decide) rfl rfl, by decide +kernel⟩

/-- A table of embedding rows, its bag list, a cache of keys and values, and its block table. -/
def tableObj : Shape := sealedObj { base := 0x10000, space := 3, rank := 2, ty := 5, dims := [64, 64], strides := [64, 1] }
def bagList : Shape := sealedObj { base := 0x18000, space := 3, ty := 3, dims := [64], strides := [1] }
def cacheObj : Shape := sealedObj { base := 0x10000, space := 3, rank := 2, ty := 4, dims := [16, 512], strides := [512, 1] }
def blockTable : Shape := sealedObj { base := 0x1C000, space := 3, ty := 2, dims := [64], strides := [1] }

/-- The core with these objects on one page of ARCH, `n` in a4 and a query in sq. -/
def archive (n : Word) : State :=
  let k := { queued (List.replicate 4 Vec.zero) [] with aregs := k0.aregs.set 4 n }
  synced .A 0 (onCore (mapped k [(1, tableObj), (2, bagList), (3, cacheObj), (4, blockTable)] [(0, { nearPage with space := 3 })]))

theorem test_hyp_ArchiveUnitsIssue :
    (let s := archive 64
     let a := operandAt s 1 1 tableObj
     let b := operandAt s 2 1 bagList
     Names2 s 1 1 2 1 [4] a b ∧ embagOk a.obj b.obj = true ∧ (s.ra 4).toNat = 64 ∧ a.obj.inBounds a.crd 1 = true ∧ b.obj.inBounds b.crd 1 = true ∧
     checkSpans s [a, b] (b.run 1 false) = .ok () ∧ 64 ≤ s.core.slipmax.toNat ∧ lqWait s.core 0 64 = none) ∧
    (let s := archive 16
     let a := operandAt s 3 1 cacheObj
     let b := operandAt s 4 1 blockTable
     Names2 s 3 1 4 1 [4, 5] a b ∧ kvattOk a.obj b.obj a.crd 16 = true ∧ b.obj.inBounds b.crd 1 = true ∧
     checkSpans s [a, b] (b.run (min ((16 + 15) / 16) (b.obj.innerDim - b.crd.getD 0 0)) false) = .ok () ∧
     (256 + 63) / 64 + 1 ≤ s.core.slipmax.toNat ∧ (256 + 127) / 128 ≤ s.core.sq.items.length ∧ lqWait s.core 0 ((256 + 63) / 64 + 1) = none) ∧
    (63 : Word).toNat < 64 ∧ (onCore { k0 with slipmax := 63 }).core.slipmax.toNat < 64 ∧
    (onCore { k0 with slipmax := 4 }).core.slipmax.toNat < (256 + 63) / 64 + 1 := by
  refine ⟨⟨names2 rfl rfl (crc_ok _) (crc_ok _) (by decide) (by decide) rfl rfl, by decide +kernel⟩,
    ⟨names2 rfl rfl (crc_ok _) (crc_ok _) (by decide) (by decide) rfl rfl, by decide +kernel⟩, by decide, by decide +kernel⟩

/-- An item of bag 0 and a token at chip 3, and the work of a pool and of a pass at their units there. -/
def item3 : PoolItem := ⟨0, 0x10000, archKey (3 * 1024), 0x3F800000, 3⟩
def token3 : PassToken := ⟨0x10000, archKey (3 * 1024), 3⟩
def pool1 (p : Pool) : Flight := { store1 with write := false, job := .embag 0 0 { ty := 5, dims := [64, 4] } 0 0 {} 0 1 (some p) false 0 }
def pass1 (p : Pass) : Flight := { store1 with write := false, job := .kvatt 0 0 { ty := 4, dims := [16, 8] } {} 0 1 0 [] (some p) false 0 }
def working (kind : UnitKind) (f : Flight) : State := { onCore (queued [] [⟨none, none⟩]) with flights := [f], nextId := 2, units := [⟨3, kind, 1⟩] }

theorem test_hyp_UnitsAtWork :
    chipOf item3.key = 3 ∧
    (∀ p ∈ [{ items := [item3], left := [3] }, { items := [item3], left := [3], claimed := [3] }, { items := [], left := [3, 4] }, { items := [], left := [3] },
        ({ items := [], left := [3], parts := [(3, 0, [1, 2, 3, 4])], marks := [(1, { cause := .eccUncorrectable })] } : Pool)],
      let s := working .pool (pool1 p)
      s.flight? 1 = some (pool1 p) ∧ mayPerform s (pool1 p) = true ∧ (pool1 p).core = s.core.num ∧ (pool1 p).orphan = false ∧ p.left.contains 3 = true ∧
        atUnit s ⟨3, .pool, 1⟩ = true ∧ (unitQueue s 3 .pool).head? = some ⟨3, .pool, 1⟩ ∧ (∀ x ∈ p.parts, x.2.2.length = 4) ∧
        (s.core.loadQueue 0).items[((0 : BitVec 32) + BitVec.ofNat 32 0 - (s.core.loadQueue 0).head).toNat]? = some ⟨none, none⟩) ∧
    (∀ p ∈ [{ tokens := [token3], left := [3] }, { tokens := [token3], left := [3], parts := [(3, [0, 0, 0, 0], 0xFF800000, 0)] },
        { tokens := [], left := [3, 4], parts := [(3, [0, 0, 0, 0], 0, 0)] }, { tokens := [], left := [3], parts := [(3, [0, 0, 0, 0], 0, 0)] },
        ({ tokens := [], left := [3], parts := [(3, [0, 0, 0, 0], 0, 0)], error := some { cause := .programAddress } } : Pass)],
      let s := working .attention (pass1 p)
      s.flight? 1 = some (pass1 p) ∧ mayPerform s (pass1 p) = true ∧ p.left.contains 3 = true ∧ atUnit s ⟨3, .attention, 1⟩ = true ∧
        (unitQueue s 3 .attention).head? = some ⟨3, .attention, 1⟩) ∧
    ({ w0 with poison := [archKey (3 * 1024)] } : State).poisoned item3.key 16 = true ∧ w0.poisoned item3.key 16 = false ∧ w0.deadChips.contains 3 = false ∧
    (List.range 12).filterMap (fun q => ({ tokens := [], left := [], parts := [(3, [1], 2, 3)] } : Pass).parts.find? (fun y => y.1 == q)) = [(3, [1], 2, 3)] := by
  decide +kernel

/-- Rows of device 1, and elements of it. -/
def farRows : Shape := sealedObj { base := 0x10000, space := 4, rank := 2, ty := 2, dev := 1, dims := [2, 64], strides := [64, 1] }
def farObj : Shape := sealedObj { base := 0x10000, space := 4, ty := 2, dev := 1, dims := [64], strides := [1] }

/-- The core that sends `len` bytes a row. -/
def fabric (len : Word) : State :=
  let k := mapped k0 [(1, farRows), (2, rowsObj 0x10000), (3, farObj)] [(0, nearPage)]
  synced .A 0 (onCore { k with aregs := (k.aregs.set 3 len).set 4 2 })

/-- A route to device 1 over port 0. -/
def routed (s : State) : State := { s with links := [{ num := 0, up := true }], mem := [(hwinKey 0 0xE2003, 0x80)] }

/-- The same core with an operation that has still to be sent to device 1, or that a release behind it must see performed. -/
def busy (s : State) (f : Flight) : State := { s with flights := [f], nextId := 4 }
def unsent1 : Flight := { store1 with hnd := hndWord 3 (some farObj), job := .remoteAtomic 2, unsent := some (.atomic .add 2 0x10000 1 0 false) }

/-- The core whose words of the host's memory go to `farObj`. -/
def hosting : State :=
  let k := mapped k0 [(1, farObj), (2, objIn 5)] [(0, { nearPage with space := 5 })]
  synced .A 0 (onCore { k with aregs := k.aregs.set 3 64 })

theorem unmarked {s : State} (p : s.poison = []) (d : s.deadChips = []) : ∀ k n, s.poisoned k n = false := by
  intro k n; simp [State.poisoned, State.cutOff, p, d]

theorem test_hyp_FabricIssue :
    (let s := fabric 256
     let d := operandAt s 1 1 farRows
     let q := operandAt s 2 1 (rowsObj 0x10000)
     Names2 s 1 1 2 1 [3, 4] d q ∧ RegsFree s [9] ∧ (∀ k n, s.poisoned k n = false) ∧ fabricRefused true true d.obj q.obj 512 = false ∧
     fabricRefused false true d.obj q.obj 256 = false ∧
     fabricRefused true false q.obj d.obj 512 = false ∧ q.obj.inBounds q.crd 1 = true ∧ inFootprint q 256 2 = true ∧
     d.obj.inBounds d.crd 1 = true ∧ inFootprint d 256 2 = true ∧ checkSpans s [q] (rowSpans q 256 2 false) = .ok () ∧
     checkSpans s [q] (rowSpans q 256 2 true) = .ok () ∧ copySlots s < 128 ∧ engineAfter s 0 0 [4] = [] ∧ s.flights = [] ∧
     s.routeTo 1 = none ∧ 1 ≠ s.devid ∧ (State.routeTo (routed s) 1).isSome = true ∧ d.obj.dev = 1 ∧ s.core.report? 9 = none ∧
     ((zipSegs 8 (remoteSegs (rowSpans d 256 2 true)) (segsOfSpans s (rowSpans q 256 2 false))).head?.bind (·.src)).map spaceOfKey ≠ some 5 ∧
     128 ≤ copySlots (copying 256 2 128)) ∧
    (let s := busy (fabric 256) unsent1
     let d := operandAt s 1 1 farRows
     let q := operandAt s 2 1 (rowsObj 0x10000)
     Names2 s 1 1 2 1 [3, 4] d q ∧ RegsFree s [9] ∧ s.IdsOk ∧ copySlots s < 128 ∧ unsent1.core = s.core.num ∧ deviceOf unsent1.hnd = 1 ∧
       unsent1.unsent ≠ none) ∧
    (engineAfter (busy (fabric 256) { store1 with ord := 1, sco := 3 }) 0 0 [4] ≠ []) ∧
    (let s := hosting
     let d := operandAt s 1 1 farObj
     let q := operandAt s 2 1 (objIn 5)
     Names2 s 1 1 2 1 [3] d q ∧ fabricRefused false true d.obj q.obj 64 = false ∧ q.obj.inBounds q.crd 1 = true ∧ inFootprint q 64 1 = true ∧
       d.obj.inBounds d.crd 1 = true ∧ inFootprint d 64 1 = true ∧ checkSpans s [q] (rowSpans q 64 1 false) = .ok () ∧ copySlots s < 128 ∧
       ((zipSegs 8 (remoteSegs (rowSpans d 64 1 true)) (segsOfSpans s (rowSpans q 64 1 false))).head?.bind (·.src)).map spaceOfKey = some 5) ∧
    ((fabric 0).ra 3).toNat * ((fabric 0).ra 4).toNat = 0 ∧ (fabric 256).IdsOk ∧ hosting.IdsOk ∧
    (let s := { fabric 256 with devid := 1 }; farRows.dev = s.devid) ∧ 0 < 64 ∧ 64 % 32 = 0 := by
  refine ⟨⟨names2 rfl rfl (crc_ok _) (crc_ok _) (by decide) (by decide) rfl rfl, free_regs rfl rfl, unmarked rfl rfl, by decide +kernel⟩,
    ⟨names2_of rfl rfl (crc_ok _) (crc_ok _) (by decide) (by decide) (regs_of (by decide +kernel)), regs_of (by decide +kernel), ⟨?_, ?_⟩, by decide +kernel⟩,
    by decide +kernel, ⟨names2 rfl rfl (crc_ok _) (crc_ok _) (by decide) (by decide) rfl rfl, by decide +kernel⟩, by decide +kernel,
    ⟨?_, ?_⟩, ⟨?_, ?_⟩, by decide +kernel⟩ <;> decide +kernel

theorem test_hyp_RemoteAtomics :
    (let s := fabric 0
     let p := operandAt s 3 1 farObj
     Names s 3 1 [2, 5, 6] p ∧ s.IdsOk ∧ p.obj.space = 4 ∧ elemBits p.obj.ty = elemBits 2 ∧ p.obj.inBounds p.crd 1 = true ∧ engineAfter s 3 3 [4] = [] ∧
     engineAfter s 0 2 [4] = [] ∧ s.flights = [] ∧ p.obj.dev ≠ s.devid ∧ s.routeTo p.obj.dev = none ∧ s.core.report? 33 = none ∧
     (State.routeTo (routed s) p.obj.dev).isSome = true) ∧
    (let s := busy (fabric 0) unsent1
     let p := operandAt s 3 1 farObj
     Names s 3 1 [2, 5, 6] p ∧ s.IdsOk ∧ p.obj.inBounds p.crd 1 = true ∧ unsent1.core = s.core.num ∧ deviceOf unsent1.hnd = p.obj.dev ∧
       unsent1.unsent ≠ none) := by
  refine ⟨⟨names rfl (crc_ok _) (by decide) rfl rfl, ⟨?_, ?_⟩, ?_⟩, names_of rfl (crc_ok _) (by decide) (regs_of (by decide +kernel)), ⟨?_, ?_⟩, ?_⟩ <;>
    decide +kernel

/-- An open group of two devices, and the core whose vector is to be reduced over it. -/
def group5 : Group := { num := 5, m := 2, spn := 0, members := [0, 1], self := 0, session := 1, state := .open }
def reducing (g : Group) : State :=
  { acc 0 5 9 [(1, nearObj 5)] [(0, nearPage)] with groups := [g] }

theorem test_hyp_CollectivesIssue :
    (let s := reducing group5
     let p := operandAt s 1 1 (nearObj 5)
     Names s 1 1 [2, 3, 4] p ∧ (∀ k n, s.poisoned k n = false) ∧ s.IdsOk ∧ s.group? ((s.ra 2).toNat % 4096) = some group5 ∧
     (∀ kind < 4, collectiveRefused p.obj kind true 5 (s.ra 2).toNat (s.ra 3).toNat (some group5) (p.obj.innerDim - p.crd.getD 0 0) = false) ∧
     p.obj.inBounds p.crd 1 = true ∧ checkSpans s [p] (p.run 64 false ++ p.run 64 true) = .ok () ∧ collSlots s < 8 ∧ group5.next ≤ group5.low + 255 ∧
     group5.next < 2 ^ 31 ∧ engineAfter s 0 0 [4] = [] ∧ group5.closing = false ∧ group5.state = .open ∧
     (∃ m ∈ group5.members.zipIdx, m.2 ≠ group5.self ∧ m.1 ≠ s.devid ∧ ((routed s).routeTo m.1).isSome = true ∧ 0 ∈ runsOf (partOf 0 2 64 0 m.2))) ∧
    (let g := { group5 with closing := true }; (reducing g).group? 5 = some g ∧ g.closing = true ∧ g.state = .open) ∧
    (let g := { group5 with state := .opening, reopens := true }; (reducing g).group? 5 = some g ∧ g.closing = false ∧ g.state ≠ .open ∧
      collectiveRefused (nearObj 5) 0 true 5 5 9 (some g) 64 = false) ∧
    (let s := busy (reducing group5) { store1 with ord := 1, sco := 3 }
     let p := operandAt s 1 1 (nearObj 5)
     Names s 1 1 [2, 3, 4] p ∧ engineAfter s 0 0 [4] ≠ [] ∧ p.obj.inBounds p.crd 1 = true ∧
       checkSpans s [p] (p.run 64 false ++ p.run 64 true) = .ok ()) ∧
    group5.low + 255 < 256 ∧ 2 ^ 31 ≤ { group5 with next := 2 ^ 31 }.next ∧
    (let c : Coll := { group := 5, kind := 0, num := 0, session := 1, m := 2, self := 0, spn := 0, wire := 5, strict := false, deadline := none,
                       pieces := [piece 0 4], count := 1 }
     8 ≤ collSlots { reducing group5 with flights := List.replicate 8 { store1 with job := .collective c } }) := by
  refine ⟨⟨names rfl (crc_ok _) (by decide) rfl rfl, unmarked rfl rfl, ⟨?_, ?_⟩, ?_⟩, ?_, ?_,
    ⟨names_of rfl (crc_ok _) (by decide) (regs_of (by decide +kernel)), by decide +kernel⟩, ?_⟩ <;> decide +kernel

/-! ### The X-stream, the tape, tiles -/

/-- The X-stream with these words from address 0, and an open transfer or none. -/
def xcode (l : List Nat) (v : StreamState) (k : Core) : State :=
  onCore { k with x := v, imemX := (l.flatMap (fun w => leBytes 8 w)).zipIdx.foldl (fun m b => Memory.set m b.2 b.1) [] }

theorem test_hyp_BranchWithSlots :
    (let s := xcode [0x0150008000000200, 0x01A0000000000000, 0x01A0000000000000] { status := .running } { k0 with flags := k0.flags.set 1 true }
     let op := fun (k : Nat) => s.core.wordAt .X (0 + k) / 2 ^ 52 % 256
     let ext := fun (k : Nat) => (s.core.wordAt .X (0 + k)).testBit 51
     syncReady .X 0 s = true ∧ s.core.x.bx = none ∧ 0 + 24 ≤ 131072 ∧ (∀ k ∈ [8, 16], ext k = false ∧ op k ≠ 0x15 ∧ op k ≠ 0x16 ∧ op k ≠ 0x1C) ∧
     s.core.flags[(1 : CFlag)] = true ∧ s.core.flags[(2 : CFlag)] = false ∧ s.core.bt[(0 : BtReg)].toNat % 8 = 0 ∧ s.core.bt[(0 : BtReg)].toNat < 131072) ∧
    (let s := xcode [0x0150008000000200, 0x01C0000000000000] { status := .running } k0
     s.core.wordAt .X 8 / 2 ^ 52 % 256 = 0x1C) ∧
    (131072 : Word).toNat % 8 = 0 ∧ 131072 ≤ (131072 : Word).toNat ∧ (12 : Word).toNat % 8 ≠ 0 ∧
    (∀ n ∈ [2, 1], let s := xcode [] { status := .running, bx := some ⟨64, true, n⟩ } k0; s.core.x.bx = some ⟨64, true, n⟩ ∧ s.core.x.loops = []) := by
  decide +kernel

theorem test_hyp_XQueues :
    (let k := queued [] [⟨some Vec.zero, none⟩]; (k.loadQueue 0).items.head? = some ⟨some Vec.zero, none⟩) ∧ (k0.loadQueue 0).items = [] ∧
    (let k := queued [] [⟨none, none⟩]; (k.loadQueue 0).items.head? = some ⟨none, none⟩) ∧
    (let e : LqEntry := ⟨some Vec.zero, some { info := {}, pc := 8 }⟩; ((queued [] [e]).loadQueue 0).items.head? = some e ∧ e.error.isSome = true) ∧
    (let b : OutBit := ⟨none, 0, none⟩; (onCore { k0 with bqa := ⟨0, [b]⟩ }).core.bqa.items.head? = some b) ∧
    (let b : OutBit := ⟨none, 0, some { info := {}, pc := 8 }⟩; (onCore { k0 with bqa := ⟨0, [b]⟩ }).core.bqa.items.head? = some b ∧ b.error.isSome = true) ∧
    (queued (List.replicate 63 Vec.zero) []).sq.items.length < 64 ∧ 64 ≤ (queued (List.replicate 64 Vec.zero) []).sq.items.length ∧
    (List.replicate 31 (0 : Word)).length < 32 ∧ 32 ≤ (List.replicate 32 (0 : Word)).length ∧ (List.replicate 127 (⟨none, 0, none⟩ : OutBit)).length < 128 ∧
    128 ≤ (List.replicate 128 (⟨none, 0, none⟩ : OutBit)).length ∧ w0.core.bqa.items = [] ∧
    (let s := onCore { k0 with bqa := ⟨0, [⟨some true, 98, none⟩]⟩ }; s.core.bqa.items.head? = some ⟨some true, 98, none⟩ ∧ 98 + 2 ≤ s.now) ∧
    (let s := onCore { k0 with bqa := ⟨0, [⟨some true, 99, none⟩]⟩ }; s.core.bqa.items.head? = some ⟨some true, 99, none⟩ ∧ s.now < 99 + 2) := by decide +kernel

theorem test_hyp_Conversions :
    (let s := onCore { k0 with p := k0.p.set 1 1 }; (s.rp 1).getLsbD 0 = true ∧ (∀ l : Fin 64, (s.rp 1).getLsbD l.val = true → l = 0)) ∧
    convert (fmtOf 4) 0 0 (elemNum 5 (laneCode 5 0x3F800000)) ≠ none ∧ convert (fmtOf 0x21) 0 3 (elemNum 5 (laneCode 5 0x7F7FFFFF)) = none ∧
    toInteger (elemBits 2) 0 0 (elemNum 5 (laneCode 5 0x3F800000)) ≠ none ∧ toInteger (elemBits 0) 0 3 (elemNum 5 (laneCode 5 0x43800000)) = none := by
  decide +kernel

theorem test_hyp_Reductions : isFloat 2 = false ∧ isFloat 0 = false ∧ isFloat 4 = true ∧ isFloat 5 = true := by decide +kernel

/-- A tape of 256 bytes in a mode, at a position, on `tapePage`, with bytes behind its header. -/
def taping (tp : Tape) (l : List Byte) : State :=
  { onCore { mapped k0 [] [(0, tapePage)] with tape := { tp with handle := 1, limit := 32, obj := some (nearObj 2), xlats := [tapePage] } } with
    mem := l.zipIdx.foldl (fun m b => Memory.set m (nearKey (16 + b.2)) b.1) [] }

/-- A bank whose C-stream had stopped with STOP 3, and one whose cause is not resumable. -/
def bank3 : TrapBank := { tpcc := 0x600008 }
def bank18 : TrapBank := { tcause := 0x112 }

/-- A value of tapest whose fixed bits are those of a tape. -/
def tapeStays (t : Tape) (y : Word) : Bool :=
  (List.range 64).all (fun i => decide (i = 60 ∨ i = 61 ∨ (25 ≤ i ∧ i < 50)) || y.getLsbD i == t.word.getLsbD i)

theorem test_hyp_ControlRegisterValues :
    (let k := (taping { mode := 1, pos := 4 } []).core
     let x : Word := k.tape.word
     let limit := fun (n : Nat) => BitVec.ofNat 64 (x.toNat - 32 * 2 ^ 25 + n * 2 ^ 25)
     tapeStays k.tape x = true ∧ tapeStays k.tape (x ||| 0x3000000000000000) = true ∧ tapeStays k.tape (x ^^^ 1) = false ∧ bits x 25 25 = 32 ∧
       k.tape.limit = 32 ∧ tapeStays k.tape (limit 6) = true ∧ bits (limit 6) 25 25 = 6 ∧
       2 + k.tape.pos ≤ 6 ∧ tapeCovers k 6 = true ∧ ¬2 + k.tape.pos ≤ 5 ∧ tapeCovers k 33 = false ∧ bits (limit 0) 25 25 = 0) ∧
    (let k := { k0 with banks := [bank3, bank18] }
     k.banks[0]? = some bank3 ∧ k.banks[1]? = some bank18 ∧ k0.banks[0]? = none ∧ bits bank3.tcause 0 8 = 0 ∧ bits bank18.tcause 0 8 = 18 ∧
       bits bank3.tpcc 21 3 = 3 ∧ bits bank3.tpca 21 3 ≠ 3 ∧ (bank3.reg 1 ^^^ 0x100000).getLsbD 20 = true ∧
       (∀ m < 64, m ≠ 8 → (bank3.tcause ^^^ 0x100).getLsbD m = bank3.tcause.getLsbD m) ∧ (bank18.tcause ^^^ 0x100).getLsbD 8 = false ∧
       (bank3.tcause ^^^ 1).getLsbD 0 ≠ bank3.tcause.getLsbD 0 ∧ (bits (0xC04 : Word) 0 8 = 4 ∧ bits (0xC04 : Word) 10 2 ≠ 2)) := by decide +kernel

/-- The record of an x register that holds 7. -/
def record7 : Record := ⟨2, 3, 1, leBytes 8 7⟩

theorem test_hyp_TapeRecording :
    (let s := taping {} []; syncReady .X 0 s = true ∧ s.core.tape.mode = 0 ∧ s.core.tape.limit ≠ 0 ∧ (tapeRead s 0 8).toOption.isSome = true ∧
      leNat (List.replicate 8 0) % 8 = 0 ∧ 16 + leNat (List.replicate 8 0) ≤ 8 * s.core.tape.limit) ∧
    w0.core.tape.limit = 0 ∧
    (let s := taping { mode := 1 } []; s.core.tape.mode = 1 ∧ s.core.x.awaited = none ∧ (tapeWrite s .X 0 (tapeHeader s.core.tape)).toOption.isSome = true ∧
      s.core.tape.drop = false ∧ 16 + 8 * s.core.tape.pos + record7.bytes.length ≤ 8 * s.core.tape.limit ∧
      (tapeWrite s .X 16 record7.bytes).toOption.isSome = true ∧ s.core.report? 34 = none) ∧
    (let s := taping { mode := 1, pos := 28 } []; 8 * s.core.tape.limit < 16 + 8 * s.core.tape.pos + record7.bytes.length) ∧
    (let s := taping { mode := 1, pos := 27 } []; 16 + 8 * s.core.tape.pos + record7.bytes.length = 8 * s.core.tape.limit) ∧
    (taping { mode := 1, drop := true } []).core.tape.drop = true ∧ (taping { mode := 2 } []).core.tape.mode = 2 ∧
    (let s := taping { mode := 1 } []
     s.core.tape.drop = false ∧ 16 + 8 * s.core.tape.pos + 16 ≤ 8 * s.core.tape.limit ∧
       (tapeWrite (s.wflag 1 true) .X 16 (⟨3, 0, s.rp 1, []⟩ : Record).bytes).toOption.isSome = true) ∧
    (let s := taping { mode := 1, pos := 29 } []; s.core.tape.drop = false ∧ 8 * s.core.tape.limit < 16 + 8 * s.core.tape.pos + 16) ∧
    (let s := taping { mode := 1 } []; let t := s.setStream .X { s.core.x with awaited := some [] }; t.core.x.awaited = some [] ∧ t.core.tape.mode = 1) := by
  decide +kernel

theorem test_hyp_TapeReplay :
    (taping { mode := 2 } []).core.tape.pos = 0 ∧
    (lastRecord (taping { mode := 2, pos := 3 } record7.bytes) 2).toOption = some (record7, 24) ∧
    (lastRecord (taping { mode := 2, pos := 3 } record7.bytes) 1).toOption = none ∧
    (let r : Record := ⟨3, 0, 5, []⟩; (lastRecord (taping { mode := 2, pos := 2 } r.bytes) 3).toOption = some (r, 16)) ∧
    (let r : Record := ⟨1, 0, 1, [9, 0, 0, 0, 0, 0, 0, 0]⟩; (lastRecord (taping { mode := 2, pos := 3 } r.bytes) 1).toOption = some (r, 24) ∧ r.mask.getLsbD 1 = false) ∧
    (let r : Record := ⟨4, 3, 1, leBytes 8 7⟩; (lastRecord (taping { mode := 2, pos := 3 } r.bytes) 4).toOption = some (r, 24) ∧
      BitVec.ofNat 64 (leNat r.payload) = 7 ∧ BitVec.ofNat 64 (leNat r.payload) ≠ 0) := by decide +kernel

/-- A tile or accumulator record of a type, rows and columns. -/
def rec (ty rows cols : Nat) : Word := BitVec.ofNat 64 (ty + rows * 64 + cols * 8192)

/-- A matrix operation that reads t0 and t1 and writes z0. -/
def op0 : MatOp :=
  { op := 0x91, z := 0, ta := 0, tb := some 1, word := 0, ext := 0, pc := 0, fmt := 0, gen := 0, shapeZ := rec 2 1 1, shapeA := rec 0 1 64,
    shapeB := rec 0 1 64, vecs := [], accepted := 0, bound := 0x01000000 }

/-- The core with records for t0, t1 and z0, and matrix operations. -/
def tiled (l : List MatOp) (fq : List Word) : Core :=
  { queued [] [⟨some Vec.zero, none⟩] with
    shapes := ((k0.shapes.set 0 (rec 0 1 64)).set 1 (rec 0 1 64)).set 8 (rec 2 1 1), matrix := l, fq := ⟨0, fq⟩, xregs := k0.xregs.set 2 1 }

theorem test_hyp_TilesAndAccumulators :
    (let k := tiled [] []
     k.tileOps 0 = [] ∧ tileRowFault (k.tileRec 0) 0 = none ∧ (k.loadQueue 0).items.head? = some ⟨some Vec.zero, none⟩ ∧
     (tileRowFault (k.tileRec 0) 1).isSome = true ∧ (tileRowFault (k.tileRec 2) 0).isSome = true ∧ k.sq.items.length < 64 ∧
     k.latches[(0 : ZReg)] = none ∧ k.accOps 0 = [] ∧ accRowFault (k.accRec 0) 0 = none ∧ (accRowFault (k.accRec 0) 1).isSome = true) ∧
    (tiled [op0] []).tileOps 0 ≠ [] ∧ (tiled [op0] []).accOps 0 ≠ [] ∧ (tiled [op0] []).latches[(0 : ZReg)] = none ∧
    tileRowFault ((tiled [op0] []).tileRec 0) 0 = none ∧ accRowFault ((tiled [op0] []).accRec 0) 0 = none ∧
    ({ tiled [] [] with latches := k0.latches.set 0 (some ⟨{}, 8, 0, 0⟩) }).latches[(0 : ZReg)] = some ⟨{}, 8, 0, 0⟩ := by decide +kernel

/-- A product of two BF16 elements that overflows under `.trap`, into z1 of one element, from tiles of a row of 32 that are all 2^127. -/
def op1 : MatOp :=
  { op0 with op := 0x92, z := 1, fmt := 0x30104, shapeZ := rec 5 1 1, shapeA := rec 4 1 32, shapeB := rec 4 1 32 }

theorem test_hyp_MatrixOperations :
    (let k := tiled [] [0]
     k.latches[(0 : ZReg)] = none ∧ k.fq.items = [0] ∧ formatOk 0x91 0 = true ∧ shapeFault 0x91 0 (k.accRec 0) (k.tileRec 0) (some (k.tileRec 1)) = none ∧
     k.matrix.countP (fun o => o.started.isNone) < 4) ∧
    (tiled [] []).fq.items = [] ∧ formatOk 0x90 0 = false ∧
    (let k := tiled [] [0]; (shapeFault 0x91 0 (k.accRec 0) (k.tileRec 0) (some (k.tileRec 2))).isSome = true) ∧
    (tiled (List.replicate 3 op0) [0]).matrix.countP (fun o => o.started.isNone) < 4 ∧
    4 ≤ (tiled (List.replicate 4 op0) [0]).matrix.countP (fun o => o.started.isNone) ∧
    (∀ pre ∈ [[], [{ op0 with started := some 104 }]], let s := onCore (tiled (pre ++ [op0]) [])
     s.core.matrix = pre ++ op0 :: [] ∧ (∀ p ∈ pre, p.started.isSome = true) ∧ op0.started = none ∧ s.core.engineHeld = false ∧ s.core.hardStop = false ∧
       op0.accepted < s.now ∧ s.core.engineFree ≤ s.now) ∧
    (let s := onCore { tiled [op0] [] with engineHeld := true }; s.core.matrix = [] ++ op0 :: [] ∧ s.core.engineHeld = true) ∧
    (let s := onCore (tiled [{ op0 with accepted := 100 }] []); s.now ≤ { op0 with accepted := 100 }.accepted) ∧
    (let s := onCore { tiled [op0] [] with engineFree := 101 }; s.now < s.core.engineFree) ∧
    (let o := { op0 with started := some 100 }; let s := onCore (tiled [o] [])
     s.core.matrix = [] ++ o :: [] ∧ o.started = some 100 ∧ 100 ≤ s.now ∧ 100 ≤ o.accepted + o.bound ∧ s.core.latches[o.z] = none ∧ o.struck = none ∧
     recRows o.shapeZ ≤ 64 ∧ recCols o.shapeZ ≤ 64 ∧ { o with struck := some 64 }.struck = some 64 ∧
     ∀ i < recRows o.shapeZ, ∀ j < recCols o.shapeZ,
       matrixElem o ((s.core.accRow o.z i).toList.getD j 0) (s.core.rowBytes o.ta i) (matrixB s.core o j) ≠ none) ∧
    (let o := { op0 with started := some 300, bound := 99 }; o.started = some 300 ∧ o.accepted + o.bound < 300 ∧ w0.now < 300) ∧
    (∀ n < 2, let s := onCore { tiled [{ op0 with started := some 100 }] [] with latches := k0.latches.set 0 (some ⟨{}, 8, 0, n⟩) }
      s.core.latches[op0.z] = some ⟨{}, 8, 0, n⟩) := by decide +kernel

theorem test_hyp_MatrixOverflow :
    let row : List Byte := (List.replicate 32 (leBytes 2 0x7F00)).flatten
    recRows op1.shapeZ = 1 ∧ recCols op1.shapeZ = 1 ∧ op1.struck = none ∧ matrixElem op1 0 row row = none := by decide +kernel

theorem test_hyp_XEndAndControl :
    (let s := w0; s.core.tape.mode ≠ 1 ∧ s.core.matrix = [] ∧ tapeOps s = [] ∧ (∀ z : ZReg, s.core.latches[z] = none) ∧ s.core.report? 34 = none ∧
      s.core.signalRoom .X 3 = true) ∧
    (let s := taping { mode := 1 } []; s.core.tape.mode = 1 ∧ s.core.x.awaited = none ∧ (tapeWrite s .X 0 (tapeHeader s.core.tape)).toOption.isSome = true) ∧
    (let s := (taping { mode := 1 } []).setCore { (taping { mode := 1 } []).core with ltt := [] }
     s.core.tape.mode = 1 ∧ s.core.x.awaited = none ∧ (tapeWrite s .X 0 (tapeHeader s.core.tape)).toOption = none) ∧
    (let s := (taping { mode := 1 } []).setStream .X { k0.x with awaited := some [] }
     s.core.tape.mode = 1 ∧ s.core.x.awaited ≠ none ∧ s.core.matrix = [] ∧ tapeOps s = [] ∧ (∀ z : ZReg, s.core.latches[z] = none) ∧
       s.core.report? 34 = none ∧ s.core.signalRoom .X 3 = true) ∧
    (taping { mode := 2 } []).core.tape.mode ≠ 1 ∧ writeCsr k0 0x10 0x10000 = none ∧ 2 ≤ (2 : Word).toNat ∧ (1 : Word).toNat < 2 ∧
    (onCore (tiled [op0] [])).core.matrix ≠ [] ∧ tapeOps { w0 with flights := [{ store1 with job := .tapeWrite }] } ≠ [] ∧
    csrClass 0x7FF = none ∧ csrClass 0x100 = some .sv ∧ csrClass 0 = some .ro ∧ csrClass 0x10 = some .rw ∧ csrClass 0x12 = some .w1c ∧
    (writeCsr k0 0x10 5).isSome = true := by decide +kernel

/-! ### Events -/

/-- Core 0 with a stream in a wait since cycle 0. -/
def waitingIn (st : StreamId) (w : Wait) (k : Core) : State := (onCore k).setStream st { status := .waiting w 0 }

/-- The A-stream at an instruction of the given word, waiting for a stamp check. -/
def checked (w : Nat) : State :=
  (onCore { k0 with imemA := (leBytes 8 w).zipIdx.foldl (fun m b => Memory.set m b.2 b.1) [] }).setStream .A { status := .waiting (.stampCheck 4) 7 }

/-- The A-stream at an ALLRED over group 9, waiting for a slot. -/
def awaiting (g : Group) : State :=
  let s := (checked 0x08800805309004E0).setStream .A { status := .waiting (.copySlot 0x88) 7 }
  { s with core := { s.core with aregs := s.core.aregs.set 6 9 }, groups := [g] }

theorem test_hyp_WaitsEnd :
    (∀ c ∈ ([(.A, .tokens true false), (.C, .room [(0, 1)]), (.C, .take 0 1), (.C, .wfe), (.C, .genf), (.X, .push 4 1), (.X, .pop 4 1), (.A, .pop 7 1),
        (.X, .accumulator 3), (.X, .tileReaders 7), (.X, .matrixAccept 0x91), (.C, .commits 0x54 [1]), (.X, .commits 0x1C []), (.A, .slip 0 1),
        (.A, .copySlot 0x48), (.A, .copySlot 0x88), (.A, .scoreboard 5), (.C, .dbar 0 1), (.A, .waita 160 5), (.A, .stampCheck 4), (.C, .saveTransfer),
        (.A, .migratingIn 0)] : List (StreamId × Wait)),
      ((waitingIn c.1 c.2 k0).stream c.1).status = .waiting c.2 0 ∧ (waitingIn c.1 c.2 k0).core.pending = none) ∧
    (waitingIn .A (.scoreboard 5) k0).writers 5 = [] ∧ (groupReg (instrAtA (waitingIn .A (.copySlot 0x88) k0))).isNone = true ∧
    (let s := waitingIn .X (.entry 0) (queued [] [⟨none, none⟩]); (s.stream .X).status = .waiting (.entry 0) 0 ∧ (s.core.loadQueue 0).items = [⟨none, none⟩]) ∧
    (let s := waitingIn .X (.entry 6) { k0 with bqa := ⟨0, [{}]⟩ }; (s.stream .X).status = .waiting (.entry 6) 0 ∧ s.core.bqa.items = [{}]) ∧
    (let s := waitingIn .A (.entry 7) { k0 with bqx := ⟨0, [{}]⟩ }; (s.stream .A).status = .waiting (.entry 7) 0 ∧ s.core.bqx.items = [{}]) ∧
    (let g := { group5 with num := 9 }; let s := awaiting g
     (s.stream .A).status = .waiting (.copySlot 0x88) 7 ∧ s.core.pending = none ∧
       (groupReg (instrAtA s)).bind (fun b => s.group? ((s.ra b).toNat % 4096)) = some g ∧ g.state = .open) ∧
    (∀ x ∈ [({ grove := 2, core := 0, sector := 5, woken := false } : WatchEntry)], x.grove = 2 → x.woken = false) ∧ (5 : Nat) ≠ 4 ∧
    (∀ t ∈ w0.transfers, t.core ≠ w0.core.num) ∧
    quiet { w0 with flights := [store1] } 0 = false := by
  decide +kernel

/-- A wait of a stream of core 0, with bound 98 at cycle 100, since cycle 0. -/
def overdue (st : StreamId) (w : Wait) (k : Core) (l : List Flight) : State := { waitingIn st w { k with wdc := 98, wda := 98, wdx := 98 } with flights := l }

/-- A copy that has 4 bytes still to write, and has outlasted its bound. -/
def lateCopy : Flight := { id := 1, core := 0, write := true, job := .copy 0 none, reg := some 9, expires := some 99, todo := [⟨nearKey 0, 4, some (nearKey 64), [], false⟩] }

/-- Core 0 in a team of two, at a barrier that the other member has not reached. -/
def alone : State :=
  let s := overdue .C (.dbar 0 1) { k0 with member := some (7, 0) } []
  { s with arrivals := [⟨0, 0, 5⟩], launches := [{ id := 7, mailbox := 3, tag := 9, record := {}, state := .running, members := [0, 1] }] }

/-- The core's store in flight for a register, a copy, and a full queue of outcomes. -/
def held5 : Flight := { store1 with write := false, job := .lda 2, reg := some 5 }
def fullBits : Core := { k0 with bqa := ⟨0, List.replicate 128 {}⟩ }

theorem test_hyp_Watchdogs :
    (∀ c ∈ ([(.X, .pop 4 1, overdue .X (.pop 4 1) k0 []), (.A, .push 6 1, overdue .A (.push 6 1) fullBits []), (.X, .take 5 2, overdue .X (.take 5 2) k0 []),
        (.C, .room [(0, 1)], overdue .C (.room [(0, 1)]) fullTokens []),
        (.A, .copySlot 0x48, overdue .A (.copySlot 0x48) k0 (List.replicate 128 copy3)),
        (.X, .matrixAccept 0x91, overdue .X (.matrixAccept 0x91) (tiled (List.replicate 4 op0) []) []), (.C, .dbar 0 1, alone),
        (.A, .waita 160 5, overdue .A (.waita 160 5) k0 []), (.A, .scoreboard 5, overdue .A (.scoreboard 5) k0 [held5]),
        (.X, .entry 0, overdue .X (.entry 0) (queued [] [⟨none, none⟩]) []), (.C, .wfe, overdue .C .wfe k0 []),
        (.C, .genf, overdue .C .genf { k0 with softPending := true } []),
        (.A, .slip 1 64, overdue .A (.slip 1 64) { k0 with slipmax := 1, lq := k0.lq.set 1 ⟨0, [{}]⟩ } [])] : List (StreamId × Wait × State)),
      (c.2.2.stream c.1).status = .waiting c.2.1 0 ∧ c.2.1.blocking = true ∧ c.2.2.core.pending = none ∧ barrierDue c.2.2 c.2.2.core.num = false ∧
        0 + (c.2.2.core.wd c.1).toNat < c.2.2.now ∧ satisfied c.2.2 c.1 c.2.1 = false) ∧
    (let s := overdue .X (.push 4 1) k0 []; satisfied s .X (.push 4 1) = true ∧ inBound s .X (.push 4 1) 0 = true) ∧
    (let s := overdue .X (.pop 6 1) { k0 with bqa := ⟨0, [⟨some true, 97, none⟩]⟩ } []
     satisfied s .X (.pop 6 1) = true ∧ inBound s .X (.pop 6 1) 0 = false ∧ 0 + (s.core.wd .X).toNat < s.now ∧ Wait.blocking (.pop 6 1) = true ∧
       s.core.pending = none ∧ barrierDue s s.core.num = false) ∧
    (∀ c ∈ ([(.A, .tokens true false, overdue .A (.tokens true false) k0 []), (.X, .accumulator 0, overdue .X (.accumulator 0) (tiled [op0] []) []),
        (.X, .tileReaders 0, overdue .X (.tileReaders 0) (tiled [op0] []) []), (.C, .commits 0x54 [1], overdue .C (.commits 0x54 [1]) k0 [store1]),
        (.X, .commits 0x1C [], overdue .X (.commits 0x1C []) (tiled [op0] []) [])] : List (StreamId × Wait × State)),
      (c.2.2.stream c.1).status = .waiting c.2.1 0 ∧ c.2.1.blocking = true ∧ c.2.2.core.pending = none ∧ barrierDue c.2.2 c.2.2.core.num = false ∧
        0 + (c.2.2.core.wd c.1).toNat < c.2.2.now ∧ satisfied c.2.2 c.1 c.2.1 = false) ∧
    (waitingIn .C .wfe k0).now ≤ 0 + ((waitingIn .C .wfe k0).core.wd .C).toNat := by
  decide +kernel

theorem test_hyp_CommandBounds :
    (let s := onCore (tiled [{ op0 with bound := 99 }] []); expiredMatrix s = some (0, { op0 with bound := 99 }) ∧ s.core.latches[op0.z] = none) ∧
    (∀ n < 2, let l : Latch := ⟨{}, 8, 0, n⟩
      let s := onCore { tiled [{ op0 with bound := 99 }] [] with latches := k0.latches.set 0 (some l) }
      expiredMatrix s = some (0, { op0 with bound := 99 }) ∧ s.core.latches[op0.z] = some l ∧ s.core.opsBefore op0.z 0 = 0 ∧
        (n = 0 → l.earlier ≤ 0) ∧ (n = 1 → 0 < l.earlier)) ∧
    (let s := { w0 with flights := [lateCopy] }
     s.flight? 1 = some lateCopy ∧ lateCopy.expires = some 99 ∧ 99 < s.now ∧ lateCopy.job.counts = true ∧ copyOver lateCopy = false ∧
       lateCopy.core = s.core.num ∧ lateCopy.origin = none ∧ lateCopy.orphan = false) ∧
    (let o := { op0 with started := some 300, bound := 100 }
     (onCore (tiled [o] [])).core.matrix = [o] ∧ o.started = some 300 ∧ o.accepted + o.bound < 300) ∧
    (let s := { onCore { k0 with pending := some ⟨.C, 5, {}⟩ } with now := 4102 }
     s.core.pending = some ⟨.C, 5, {}⟩ ∧ 5 + 4096 < s.now ∧ (s.stream .A).status = .running ∧ s.core.c.woken = false) ∧
    (let k := { k0 with pending := some ⟨.X, 5, {}⟩, c := { status := .running, woken := true }, imemC := [(0, 0x01), (3, 0x0A)] }
     k.c.woken = true ∧ (decodeIn rowsC .C (k.wordAt .C k.c.pc.toNat) 0).toOption = some (.cDbar 0 1)) := by decide +kernel

/-- A core whose streams stand, with a trap to deliver, and banks in use. -/
def trapped (n : Nat) : Core :=
  { k0 with c := { status := .stopped 1, pc := 8 }, a := { status := .ended }, x := { status := .waiting .wfe 3 }, banks := List.replicate n {},
            pending := some ⟨.C, 50, { cause := .illegal }⟩ }

theorem test_hyp_TrapEntry :
    (∀ n < 3, (onCore (trapped n)).core.pending = some ⟨.C, 50, { cause := .illegal }⟩ ∧ deliverable (onCore (trapped n)) = true) ∧
    (onCore (trapped 0)).MemOk ∧ (trapped 1).banks.length < 2 ∧ 2 ≤ (trapped 2).banks.length ∧ (trapped 2).member = none ∧ (trapped 0).banks = [] ∧
    (∀ n < 2, let p : Pending := ⟨.X, 50, { cause := .fpOverflow, clears := 1 }⟩
      let s := onCore { trapped n with pending := some p, latches := k0.latches.set 0 (some ⟨{}, 8, 3, 0⟩) }
      s.core.pending = some p ∧ deliverable s = true ∧ p.info.clears = 1 + (0 : ZReg).val ∧ s.core.latches[(0 : ZReg)] = some ⟨{}, 8, 3, 0⟩) ∧
    (let l : Launch := { id := 7, mailbox := 3, tag := 9, record := {}, state := .running, members := [0] }
     let s := { onCore { trapped 2 with member := some (7, 0) } with launches := [l] }
     s.core.pending = some ⟨.C, 50, { cause := .illegal }⟩ ∧ deliverable s = true ∧ 2 ≤ s.core.banks.length ∧ s.core.member = some (7, 0) ∧ s.launches = [l] ∧
       l.mailbox < 64 ∧ s.core.num < 160 ∧ teamOver s l = false ∧ s.core.num ∈ l.members) ∧
    (trapped 1).banks ≠ [] ∧ (trapped 0).c.status.stop < 8 ∧ (trapped 0).a.status.stop < 8 := by unfold State.MemOk; decide +kernel

/-- A store of four bytes to the first bytes of NEAR, about to commit. -/
def store4 : Flight := { store1 with todo := [⟨nearKey 28, 4, none, [1, 2, 3, 4], false⟩] }

/-- The slot of the entry of block 0, its fill over or not. -/
def slot0 (n : Option Nat) : CacheSlot := { id := 2, die := 0, index := 0, lastUse := 0, filling := n }

/-- `region7` in blocks of 8 bytes, and the entry of its block 0. -/
def region8 : Region := { region7 with blockLog := 3 }
def entry8 (r : Region) (n : Option Nat) (e : Entry) (f : Flight) : State :=
  { w0 with flights := [f], regions := [r], cache := [slot0 n], entries := [((7, 0), e)] }

/-- A store of these bytes to the first block. -/
def store8 (l : List Byte) : Flight := { store1 with todo := [⟨nearKey 0, l.length, none, l, false⟩] }

theorem test_hyp_Commits :
    (∀ k ∈ [nearKey 28, groveKey 3 28, archKey 28, hostKey 28], let f := { store4 with todo := [⟨k, 4, none, [1, 2, 3, 4], false⟩] }; let s := { w0 with flights := [f] }
     s.mem = [] ∧ s.flight? 1 = some f ∧ f.core = s.core.num ∧ f.origin = none ∧ f.error = none ∧ mayPerform s f = true ∧
       f.ready ≤ s.now ∧ k % 32 + 4 ≤ 32 ∧ s.regions = [] ∧ s.hostErrors.contains 1 = false ∧ (∀ e ∈ f.todo, e.src = none ∧ e.data.length ≤ e.len)) ∧
    spaceOfKey (hostKey 28) = 5 := by decide +kernel

theorem test_hyp_DigestedCommits :
    (∀ l ∈ [[1, 2, 3, 4], [1, 2, 3, 4, 5, 6, 7, 8]], ∀ n ∈ [none, some 200], ∀ st ∈ [EntryState.exact, .wide, .stale, .empty],
      let s := entry8 region8 n { state := st } (store8 l)
      let g : Seg := ⟨nearKey 0, l.length, none, l, false⟩
      s.flight? 1 = some (store8 l) ∧ mayPerform s (store8 l) = true ∧ nextPart s [g] = (some (region8, 0), [g], []) ∧ (store8 l).issued + 18 ≤ s.now ∧
        s.slot? region8.die (region8.entryIndex 0) = some (slot0 n) ∧ (s.entry 7 0).state = st ∧ (s.entry 7 0).lost = 0 ∧ s.poison = [] ∧ s.deadChips = []) ∧
    (∀ i < region8.blockBytes, i ∈ offsetsOf region8 0 [(nearKey 0, [1, 2, 3, 4, 5, 6, 7, 8])]) ∧ 4 ∉ offsetsOf region8 0 [(nearKey 0, [1, 2, 3, 4])] ∧
    w0.slot? 0 0 = none ∧ (slot0 none).filling = none ∧ (slot0 (some 200)).filling ≠ none ∧ w0.now < { store4 with issued := 90 }.issued + 18 := by
  decide +kernel

theorem test_hyp_LoadCommits :
    (let f : Flight := { store1 with write := false, job := .lda 2, reg := some 1, todo := [piece (nearKey 28) 4] }; let s := { w0 with flights := [f] }
     s.flight? 1 = some f ∧ mayPerform s f = true ∧ f.got = [] ∧ s.poisoned (nearKey 28) 4 = false ∧ s.hostErrors.contains 1 = false) ∧
    (let f : Flight := { store1 with write := false, job := .ld 0 0 2, todo := [piece (nearKey 28) 4] }
     let s := { onCore (queued [] [⟨none, none⟩]) with flights := [f] }
     s.flight? 1 = some f ∧ mayPerform s f = true ∧ 0 = ((0 : BitVec 32) - (s.core.loadQueue 0).head).toNat ∧
       (s.core.loadQueue 0).items[0]? = some ⟨none, none⟩) := by decide +kernel

/-- Blocks of two INT32 or FP32 elements, one of the latter a NaN, for each kind of digest. -/
theorem test_hyp_DigestPayloads :
    (∀ k < 4, { region8 with kind := k }.kind = k) ∧
    (let l : List Byte := [1, 0, 0, 0, 2, 0, 0, 0]
     codesOf region8.ty l ≠ [] ∧ isFloat region8.ty = false ∧ l.length = region8.blockBytes ∧ isFloat 5 = true ∧
       (∀ c ∈ codesOf 5 l, (ofFp32 (boundBits 5 c)).isNan = false)) ∧
    (let l := leBytes 4 0x7FC00000 ++ leBytes 4 0x3F800000
     (∃ c ∈ codesOf 5 l, (ofFp32 (boundBits 5 c)).isNan = true) ∧
       (match elemNum 5 0x7FC00000 with | .fin _ _ _ _ => false | _ => true) = true ∧ codesOf 5 l = [0x7FC00000, 0x3F800000] ∧
       (match elemNum 5 0x3F800000 with | .fin _ _ _ _ => true | _ => false) = true) := by decide +kernel

/-- A copy of four bytes at its last piece. -/
def copying4 (job : Job) (d : Seg) : Flight := { store1 with job := job, todo := [d], reg := some 31 }

theorem test_hyp_CopyCommits :
    (∀ dst ∈ [nearKey 28, hostKey 28], ∀ src ∈ [nearKey 64, hostKey 64],
      let d : Seg := ⟨dst, 4, some src, [], false⟩; let f := copying4 (.copy 8 none) d; let s := { w0 with flights := [f] }
      s.mem = [] ∧ s.flight? 1 = some f ∧ mayPerform s f = true ∧ f.ready ≤ s.now ∧ dst % 32 + 4 ≤ 32 ∧ s.regions = [] ∧ s.poisoned src 4 = false ∧
        s.hostErrors.contains 1 = false ∧ (∀ e ∈ f.todo, e.src.isSome = true ∧ e.bad = false)) ∧
    (∀ src ∈ [nearKey 64, hostKey 64],
      let d : Seg := ⟨nearKey 0, 8, some src, [], false⟩; let f := copying4 (.copy 8 none) d; let s := entry8 region8 none {} f
      s.flight? 1 = some f ∧ mayPerform s f = true ∧ nextPart s [d] = (some (region8, 0), [d], []) ∧ s.poisoned src 8 = false ∧ f.issued + 18 ≤ s.now ∧
        s.slot? region8.die (region8.entryIndex 0) = some (slot0 none) ∧ s.hostErrors.contains 1 = false) ∧
    (∀ src ∈ [nearKey 64, hostKey 64],
      let d := piece (nearKey 28) 4; let f := copying4 (.copy 0 (some ({}, [piece src 4]))) d; let s := { w0 with flights := [f] }
      s.flight? 1 = some f ∧ mayPerform s f = true ∧ s.poison = [] ∧ s.deadChips = [] ∧ d.src = none ∧
        (let o : Shape := {}
         let out := runChain o o.steps ⟨segBytes [piece src 4], o.ty, o.dims.take o.rank⟩ (w0.bytes src 4) none
         out.1.length = 4 ∧ out.2 = none)) ∧
    (let f : Flight := { store1 with job := .copy 8 none, reg := some 31, todo := [] }; let s := { w0 with flights := [f] }
     s.flight? 1 = some f ∧ f.todo = [] ∧ f.reg = some 31 ∧ f.core = s.core.num ∧ f.origin = none ∧ f.error = none) := by decide +kernel

/-- An atomic on one element, and a near-memory one. -/
def atomic1 (key : Nat) : Flight := { store1 with job := .atomic .add 2 [⟨key, 5, 0⟩] none, reg := some 1 }
def near1 : Flight := { store1 with job := .nm .add 2 [⟨archKey 0, 5, 0⟩] none }

/-- A claim of one chip by an operation that is over, with what waits on it. -/
def claim1 (l : List Waiting) : Claim := { id := 3, chip := 0, op := 9, granules := [0], waiting := l }

/-- `n` near-memory operations at the unit of chip 0, and one more on its way there. -/
def queuedUnits (n : Nat) : State :=
  let f := fun (i : Nat) => { near1 with id := i + 2 }
  { w0 with flights := near1 :: (List.range n).map f, units := (List.range n).map (fun i => ⟨0, .atomic, i + 2⟩), nextId := n + 2 }

/-- `region7` in the archive tier. -/
def archRegion : Region := { region7 with space := 3, pages := [(0, archKey 0, 1024)] }

theorem test_hyp_AtomicUpdates :
    (let f := atomic1 (nearKey 0); let s := { w0 with flights := [f] }
     s.MemOk ∧ s.flight? 1 = some f ∧ mayPerform s f = true ∧ f.error = none ∧ s.poisoned (nearKey 0) 4 = false ∧ s.echoes = [] ∧ f.core = s.core.num ∧
       f.origin = none ∧ s.blockAt (nearKey 0) = none ∧ spaceOfKey (nearKey 0) ≠ 3 ∧ (atomNew .add 2 0 5 0).isSome = true ∧ atomNew .cas 2 0 5 0 = none) ∧
    (let f := atomic1 (nearKey 0); let s := entry8 region7 none {} f
     s.flight? 1 = some f ∧ mayPerform s f = true ∧ s.blockAt (nearKey 0) = some (region7, 0) ∧ s.poison = [] ∧ s.deadChips = [] ∧ f.issued + 18 ≤ s.now ∧
       s.slot? region7.die (region7.entryIndex 0) = some (slot0 none)) ∧
    chipOf (archKey 0) = 0 ∧ spaceOfKey (archKey 0) = 3 ∧ near1.origin = none ∧
    (∀ n ∈ [0, 2], let s := queuedUnits n
     s.flight? 1 = some near1 ∧ mayPerform s near1 = true ∧ atUnit s ⟨0, .atomic, 1⟩ = false ∧ (unitQueue s 0 .atomic).length = n) ∧
    (unitQueue (queuedUnits 64) 0 .atomic).length = 64 ∧
    (let s := { queuedUnits 1 with units := [⟨0, .atomic, 2⟩, ⟨0, .atomic, 1⟩] }; atUnit s ⟨0, .atomic, 1⟩ = true ∧ (unitQueue s 0 .atomic).head? ≠ some ⟨0, .atomic, 1⟩) ∧
    (let s := { queuedUnits 0 with units := [⟨0, .atomic, 1⟩] }
     atUnit s ⟨0, .atomic, 1⟩ = true ∧ (unitQueue s 0 .atomic).head? = some ⟨0, .atomic, 1⟩ ∧ s.blockAt (archKey 0) = none ∧
       ({ s with regions := [archRegion] } : State).blockAt (archKey 0) ≠ none) ∧
    (let e : Echo := ⟨4, 0, 1, archKey 0, 1, [0], [5], 82⟩
     let s := { w0 with echoes := [e], regions := [archRegion], cache := [slot0 none] }
     s.echoes.find? (fun x => x.id == 4) = some e ∧ echoFirst s e = true ∧ e.new ≠ [] ∧ s.migratingAt e.key e.len = false ∧ e.since + 18 ≤ s.now ∧
       s.now < { e with since := 83 }.since + 18 ∧ echoFirst { s with echoes := [{ e with id := 3 }, e] } e = false ∧
       { s with migrations := [⟨4, 3, 0, 65536, 65536, true, true, [], []⟩] }.migratingAt e.key e.len = true ∧
       s.blockAt e.key = some (archRegion, 0) ∧ s.slot? archRegion.die (archRegion.entryIndex 0) = some (slot0 none)) :=
  ⟨⟨clean rfl, by decide +kernel⟩, by decide +kernel⟩

theorem test_hyp_ClaimsAndDigests :
    (let s := { w0 with claims := [claim1 []] }; s.claims.find? (fun x => x.id == 3) = some (claim1 []) ∧ claimOver s (claim1 []) = true) ∧
    (let w : Waiting := ⟨0, 1, 0, 7, .put [] true⟩; let s := { w0 with claims := [claim1 [w]], now := 42500 }
     s.claims.find? (fun x => x.id == 3) = some (claim1 [w]) ∧ (∃ x ∈ (claim1 [w]).waiting, x.op = 7 ∧ x.since + 42500 ≤ s.now) ∧
       (∀ x ∈ { s with nextId := 10 }.claims, x.op < { s with nextId := 10 }.nextId)) ∧
    (let f : Flight := { store1 with job := .dscan 7 [0] }
     let s := { w0 with flights := [f], regions := [region7], entries := [((7, 0), { state := .stale })], cache := [slot0 none] }
     s.flight? 1 = some f ∧ mayPerform s f = true ∧ s.region? 7 = some region7 ∧ (s.entry 7 0).state ≠ .empty ∧ (s.entry 7 0).lost = 0 ∧
       s.slot? region7.die (region7.entryIndex 0) = some (slot0 none) ∧ f.issued + 18 ≤ s.now ∧ s.now < { f with issued := 90 }.issued + 18 ∧
       s.blockPoisoned region7 0 (List.range region7.blockBytes) = false) ∧
    (let s := { w0 with cache := [slot0 (some 100)] }
     s.cache.find? (fun x => x.id == 2) = some (slot0 (some 100)) ∧ (slot0 (some 100)).filling = some 100 ∧ 100 ≤ s.now) := by decide +kernel

theorem test_hyp_Wakes :
    (let e : WatchEntry := { grove := 2, core := 0, sector := 5, woken := true }
     let s := { waitingIn .A (.waita 160 5) k0 with watch := [e] }
     s.watch.find? (fun x => x.grove == 2 && x.woken) = some e ∧ wakeMay s 2 = true ∧ e.core = s.core.num ∧ s.core.pending = none ∧ s.core.a.status = .waiting (.waita 160 5) 0) ∧
    (∀ l : BitVec 2, l.toNat < 2 → let s := { w0 with arrivals := [⟨0, l.toNat, 5⟩], now := 400 }
      s.arrived s.core.num = true ∧ barrierReady s s.core.num l.toNat = true ∧ (∀ k ∈ s.cores, k.hardStop = false) ∧ s.core.hardStop = false ∧
      (barrierMembers s s.core.num l.toNat).Nodup ∧ s.core.num ∈ barrierMembers s s.core.num l.toNat) ∧
    (∀ m ∈ [1, 2], let f : Flight := { store1 with job := .flush m }; ({ w0 with flights := [f] } : State).flight? 1 = some f) ∧
    (let f : Flight := { store1 with dups := [(2, 0, 65536)] }; let s := { w0 with flights := [f] }
     s.flight? 1 = some f ∧ f.dups = [(2, 0, 65536)] ∧ copyQuiet s 2 0 65536 = true) ∧
    wakeMay (onCore { k0 with a := { status := .running, woken := true, ready := 100 } }) (groveOf 0) = false ∧
    (let g := { store1 with id := 2, write := false, job := .lda 2, todo := [piece (nearKey 65536) 4] }; let f : Flight := { store1 with dups := [(2, 0, 65536)] }
     let s := { onCore (mapped k0 [] [(0, { nearPage with rdup := true, alt := 65536, altv := true })]) with flights := [f, g] }
     s.flight? 1 = some f ∧ copyQuiet s 2 0 65536 = false) ∧
    (∀ i ∈ ([.aLda32 0 3 1 4 2 0 0, .aSta32 0 1 4 3 2 0 0, .aLd32 0 0 1 4 3 2 0 0, .aSt32 0 1 4 3 2 0 0] : List Instr),
      ∃ w, encode i = some (.A, w, 0) ∧ instrAtA (checked w) = some i ∧ (checked w).core.a.status = .waiting (.stampCheck 4) 7) := by
  refine ⟨by decide +kernel, by decide +kernel, by decide +kernel, by decide +kernel, by decide +kernel, by decide +kernel, ?_⟩
  intro i hi
  simp only [List.mem_cons, List.not_mem_nil, or_false] at hi
  rcases hi with rfl | rfl | rfl | rfl <;> exact ⟨_, rfl, by decide +kernel, by decide +kernel⟩

/-! ### Launches, pre-emption, the fabric, the host and the device -/

/-- Bytes put into memory from a key. -/
def put (k : Nat) (l : List Byte) (m : List Host.Cell) : List Host.Cell := l.zipIdx.foldl (fun m b => Memory.set m (k + b.2) b.1) m

/-- The header of an image with one word in each section (R85). -/
def header : List Byte :=
  leBytes 4 0x37525A47 ++ leBytes 2 1 ++ leBytes 2 0 ++ leBytes 4 0x100 ++ leBytes 4 4 ++ leBytes 4 0x200 ++ leBytes 4 8 ++ leBytes 4 0x300 ++
    leBytes 4 8 ++ List.replicate 40 0 ++ leBytes 4 0x400

/-- A launch record: code at 0x10000, argument words at 0x18000, one entry of a translation image at 0xA000. -/
def record1 : LaunchRecord := { code := 0x10000, args := 0x18000, lttimg := 0xA000, save := 0x200000, sh := List.replicate 8 5, lttn := 1, team := 1 }

/-- Memory with the image of `record1` and its translation entry; the supervisor image at 0x40000 is of zeros. -/
def imageMem : List Host.Cell :=
  put (nearKey 0xA000) (xlatRaw 0x10000 1) (put (nearKey 0) header [])

/-- A launch of `record1` on core 0. -/
def launch1 (st : LaunchState) : Launch :=
  { id := 7, mailbox := 3, tag := 9, record := record1, state := st, members := [0], supimg := 0x40001 }

/-- A record as a host writes it, and a doorbell behind it. -/
def ringing (team : Byte) : State :=
  { w0 with mem := put (mailboxKey 3 + 0x6A) [team] [], hostIn := [.write (mailboxKey 3 + 0x78) (leBytes 8 9)] }

/-- Core 0 when its streams have ended. -/
def over0 : Core := { k0 with c := { status := .ended }, a := { status := .ended }, x := { status := .ended } }

theorem test_hyp_Launches :
    ((ringing 1).MemOk ∧ (9 : BitVec 32) ≠ 0 ∧ (ringing 1).phase = 6 ∧ (ringing 1).launches = [] ∧
      (parseRecord ((ringing 1).bytes (mailboxKey 3) 0x70)).ok = true ∧ (parseRecord ((ringing 0).bytes (mailboxKey 3) 0x70)).ok = false ∧
      (parseRecord ((ringing 160).bytes (mailboxKey 3) 0x70)).ok = true ∧ (parseRecord ((ringing 161).bytes (mailboxKey 3) 0x70)).ok = false) ∧
    (let l := launch1 .loading; let s := { w0 with launches := [l], mem := imageMem }
     s.launches = [l] ∧ l.state = .loading ∧ l.saved = false ∧ l.members = [s.core.num] ∧ (loadImage s 0 l.supimg l.record).toOption.isSome = true) ∧
    (let l := launch1 .loading; (loadImage { w0 with launches := [l] } 0 l.supimg l.record).toOption = none) ∧
    (let l := { launch1 .loading with members := [0, 1], record := { record1 with team := 2 } }; let s := { w0 with launches := [l], mem := imageMem }
     l.members.Nodup ∧ (∀ n ∈ l.members, n = s.core.num ∨ ∃ k ∈ s.others, k.num = n) ∧
       (loadImage s (l.members.headD 0) l.supimg l.record).toOption.isSome = true) ∧
    (let l := launch1 .running; let s := { onCore over0 with launches := [l] }; teamOver s l = true ∧ s.flights = []) ∧
    (let l := launch1 .running; let s := { onCore over0 with launches := [l], flights := [{ store1 with todo := [piece (hwinKey 0 64) 8] }] }
     teamOver s l = true ∧ launchOver s l = false) ∧
    launchOver w0 (launch1 .running) = false ∧
    (let l := { launch1 .running with record := { record1 with budget := 3 } }; ∀ n ∈ l.members, (w0.coreAt n).ticks (w0.now - 1) < l.record.budget) ∧
    (let l := { launch1 .running with record := { record1 with budget := 3 } }; let s := { onCore { k0 with cyclesBase := 3 * 1024 } with launches := [l] }
     l.record.budget ≠ 0 ∧ (∃ n ∈ l.members, l.record.budget ≤ (s.coreAt n).ticks (s.now - 1)) ∧ savingTeam s 7 = false ∧ teamOver s l = false) := by
  unfold State.MemOk; decide +kernel

/-- A pass that is due, with a launch that waits; the dispatcher on hold. -/
def passing (l : Launch) : State := { w0 with launches := [l], passDue := true }

theorem test_hyp_DispatchPasses :
    (let s := { w0 with now := 850000 }; s.lastTick < s.now / 850000 ∧ s.passDue = false) ∧ (passing (launch1 .waiting)).passDue = true ∧
    (dctl (passing (launch1 .waiting))).testBit 33 = false ∧ (dctl { w0 with mem := [(hwinKey 0 0xF3404, 2)] }).testBit 33 = true ∧
    (launch1 .waiting).state = .waiting ∧ placeTeam (freeCores w0 7) 1 = some [0] ∧ placeTeam (freeCores w0 7) 160 = some (List.range 160) ∧
    (let k := { k0 with member := some (9, 0) }; placeTeam (freeCores (onCore k) 7) 160 = none) ∧
    (launch1 .waiting).held = [] ∧
    (let f := [0, 1, 2, 9, 10, 20, 21, 22]
     f.Pairwise (· < ·) ∧ (∀ c ∈ f, c < 160) ∧ placeTeam f 9 = none ∧ placeTeam f 2 = some [9, 10] ∧ 2 < 8 ∧ (f.filter (fun c => c / 8 == 1)).length = 2) := by
  decide +kernel

/-- A pre-emption of `launch1`. -/
def preempt (hard saving : Bool) : Machine.Preemption := { victim := 7, winner := 8, since := 0, hard := hard, saving := saving }

/-- Core 0 as a member of `launch1` that waits in GENF, or stands for a hard pre-emption. -/
def fencing (l : List (Nat × Xlat)) : Core :=
  { over0 with c := { status := .waiting .genf 5 }, softPending := true, member := some (7, 0), ltt := l }
def standing (l : List (Nat × Xlat)) : Core :=
  { over0 with c := { status := .stopped 0 }, hardStop := true, member := some (7, 0), ltt := l }

theorem test_hyp_Preemption :
    (let s := { onCore { fencing [] with c := { status := .running } } with launches := [launch1 .running], preemption := some (preempt false false), now := 1048576 }
     s.MemOk ∧ s.preemption = some (preempt false false) ∧ s.launch? 7 = some (launch1 .running) ∧ (preempt false false).since + 1048576 ≤ s.now ∧
       ∃ n ∈ (launch1 .running).members, atFence s n = false) ∧
    (preempt true false).hard = true ∧ w0.now < (preempt false false).since + 1048576 ∧
    (let s := { onCore { fencing [] with c := { status := .waiting .genf 5 } } with launches := [launch1 .running] }
     ∀ n ∈ (launch1 .running).members, atFence s n = true) ∧
    teamOver { onCore { over0 with member := some (7, 0) } with launches := [launch1 .running] } (launch1 .running) = true ∧
    (∃ n ∈ (launch1 .running).members, quiet { w0 with flights := [store1] } n = false) ∧
    (let s := { onCore (fencing [(0, areaPage)]) with launches := [launch1 .running], preemption := some (preempt false false) }
     teamOver s (launch1 .running) = false ∧ (∀ n ∈ (launch1 .running).members, atFence s n = true ∧ quiet s n = true) ∧
       ∀ m ∈ (launch1 .running).members.zipIdx, areaFault (s.coreAt m.1) (areaOf (launch1 .running) m.2) true = none) ∧
    (let s := { onCore (standing []) with launches := [launch1 .running], preemption := some (preempt true false) }
     teamOver s (launch1 .running) = false ∧ (∀ n ∈ (launch1 .running).members, atStop s n = true ∧ quiet s n = true) ∧
       (launch1 .running).members[0]? = some 0 ∧ (areaFault (s.coreAt 0) (areaOf (launch1 .running) 0) true).isSome = true) ∧
    (let s := { onCore (standing [(0, areaPage)]) with launches := [launch1 .running], preemption := some (preempt true true) }
     s.preemption = some (preempt true true) ∧ teamOver s (launch1 .running) = false ∧ ∀ m ∈ (launch1 .running).members.zipIdx,
       areaBroken s (s.coreAt m.1) (areaOf (launch1 .running) m.2) = false ∧ areaQuiet s (s.coreAt m.1) (areaOf (launch1 .running) m.2) = true) ∧
    (let s := { onCore (standing [(0, { areaPage with broken := true })]) with launches := [launch1 .running], preemption := some (preempt true true) }
     brokenMember s (launch1 .running) = some 0 ∧ teamOver s (launch1 .running) = false) ∧
    (let l := { launch1 .loading with saved := true, record := { record1 with team := 0, lttn := 1 } }
     l.state = .loading ∧ l.saved = true ∧ l.record.budget = 0 ∧
       (loadTable { w0 with launches := [l], mem := put (nearKey 0xA000) (xlatRaw 0x10001 1) [] } l.record).toOption = none) ∧
    (let r : SaveTransfer := ⟨0, false, 0x200000⟩; let s := { onCore { over0 with ltt := [(0, areaPage)] } with transfers := [r] }
     s.transfers.find? (fun x => x.core == s.core.num) = some r ∧ quiet s s.core.num = true ∧ areaBroken s s.core r.area = false ∧ areaQuiet s s.core r.area = true ∧
       quiet { s with flights := [store1] } s.core.num = false ∧ s.regions = [] ∧
       (let segs := segsOf s.core.num true (areaPieces s.core r.area)
        (segs.map (·.len)).sum = imageBytes ∧ segs.Pairwise (fun g h => g.key + g.len ≤ h.key ∨ h.key + h.len ≤ g.key))) :=
  ⟨⟨clean rfl, by decide +kernel⟩, by decide +kernel⟩

/-- A migration from NEAR to ARCH. -/
def migration1 (draining : Bool) : Migration := ⟨4, 2, 0, 65536, 65536, true, draining, [(0, 7)], []⟩

/-- A reduction of one element over `group5`, with what has arrived. -/
def coll1 (parts : List Contribution) (deadline : Option Nat) : Coll :=
  { group := 5, kind := 0, num := 0, session := 1, m := 2, self := 0, spn := 0, wire := 5, strict := false, deadline := deadline,
    pieces := [piece (nearKey 0) 4], count := 1, parts := parts }

/-- `group5` with the reduction in flight, and a contribution packet of device 1. -/
def contributing (g : Group) (c : Coll) (session num sender spn : Nat) (whole : Bool) : State :=
  { w0 with groups := [g], flights := [{ store1 with job := .collective c }], inbox := [.contribution 1 session 5 num sender 5 spn 0 1 7 [0, 0, 0, 0] whole] }

/-- An export table whose first entry maps NEAR at 0x10000. -/
def exporting (ask : RemoteAsk) : State :=
  { w0 with mem := put (hwinKey 0 0xE0000) (xlatRaw 0x10000 1) [], inbox := [.access 0 0 9 ask] }

theorem test_hyp_Migrations :
    (let s := { w0 with migrations := [migration1 true] }
     s.MemOk ∧ s.migrations.find? (fun x => x.id == 4) = some (migration1 true) ∧ drained s (migration1 true) = true) ∧
    (let s := { w0 with migrations := [migration1 false] }
     s.migrations.find? (fun x => x.id == 4) = some (migration1 false) ∧ (migration1 false).draining = false ∧ (migration1 false).phys + 65536 ≤ 2 ^ 42 ∧ (migration1 false).alt + 65536 ≤ 2 ^ 42 ∧
       s.launches = [] ∧ { migration1 false with suspended := [] }.suspended = []) ∧
    (let s := { w0 with migrations := [migration1 true], flights := [{ store1 with held := [(nearKey 0, 65536)] }] }; drained s (migration1 true) = false) ∧
    { migration1 false with exchange := false }.exchange = false ∧ (migration1 false).exchange = true :=
  ⟨⟨clean rfl, by decide +kernel⟩, by decide +kernel⟩

theorem test_hyp_Collectives :
    (let c := coll1 [⟨0, [(0, [0])]⟩, ⟨1, [(0, [0])]⟩] none; let f : Flight := { store1 with job := .collective c }; let s := { w0 with flights := [f], groups := [group5] }
     s.MemOk ∧ s.flight? 1 = some f ∧ c.mask = none ∧ c.needs.all c.accepted = true ∧ s.group? c.group = some group5 ∧ group5.session = c.session ∧ group5.state = .open) ∧
    (coll1 [] none).needs.all (coll1 [] none).accepted = false ∧ (∀ d, (coll1 [] (some 101)).deadline = some d → w0.now < d) ∧
    (coll1 [] (some 100)).deadline = some 100 ∧ 100 ≤ w0.now := by
  refine ⟨⟨clean rfl, by decide +kernel⟩, by decide +kernel, ?_, by decide +kernel⟩
  intro d e; obtain rfl : 101 = d := Option.some.inj e; decide

/-- The contribution packet of `contributing`. -/
def packet1 : Packet := .contribution 1 1 5 0 1 5 0 0 1 7 [0, 0, 0, 0] true

theorem test_hyp_Contributions :
    (let s := contributing group5 (coll1 [] none) 1 0 1 0 true
     s.MemOk ∧ s.inbox = [packet1] ∧ 1 ≠ s.devid ∧ 1 < 2 ^ 14 ∧ s.group? 5 = some group5 ∧ (∀ g, s.group? 5 = some g → g.state ≠ .opening) ∧
       (1 : Nat) < group5.m ∧ group5.low ≤ 0 ∧
       0 ∉ group5.retired ∧ 0 ≤ group5.low + 255 ∧ liveColl s group5 0 = some ({ store1 with job := .collective (coll1 [] none) }, coll1 [] none) ∧
       packetFits (coll1 [] none) 1 5 0 0 1 [0, 0, 0, 0] = true ∧ packetFits (coll1 [] none) 1 5 0 0 1 [0] = false ∧ (coll1 [] none).accepted 1 = false ∧
       (coll1 [⟨1, [(0, [0])]⟩] none).accepted 1 = true ∧ (State.routeTo (routed s) 1).isSome = true) ∧
    liveColl w0 group5 0 = none ∧ liveColl { w0 with groups := [{ group5 with held := [packet1] }] } { group5 with held := [packet1] } 0 = none ∧
    (∀ st ∈ [GroupState.closed, .failed, .opening], let g := { group5 with state := st }; ({ w0 with groups := [g] } : State).group? 5 = some g ∧ g.state = st) ∧
    w0.group? 5 = none ∧ (2 : Nat) ≠ group5.session ∧ group5.m ≤ 2 ∧ (1 : Nat) ≠ group5.spn ∧ 3 < { group5 with low := 4 }.low ∧ group5.low + 255 < 256 := by
  refine ⟨⟨clean rfl, by decide +kernel, by decide, by decide, by decide +kernel, ?_, by decide +kernel⟩, by decide +kernel⟩
  intro g e; obtain rfl : group5 = g := Option.some.inj e; decide

/-- An operation of core 0 whose answer of four bytes has come. -/
def answered (job : Job) (l : List Seg) : State :=
  { w0 with flights := [{ store1 with job := job, reg := some 1, todo := l }], inbox := [.answer 1 true [5, 0, 0, 0] none] }

theorem test_hyp_Answers :
    (∀ p ∈ [(Job.remoteAtomic 2, []), (.put [4] 8, []), (.get [4] 8, [⟨nearKey 28, 4, some (remoteKey 0), [], false⟩]),
        (.get [8] 8, [⟨nearKey 28, 8, some (remoteKey 0), [], false⟩])],
      let s := answered p.1 p.2
      let f : Flight := { store1 with job := p.1, reg := some 1, todo := p.2 }
      s.mem = [] ∧ s.inbox = [.answer 1 true [5, 0, 0, 0] none] ∧ s.flight? 1 = some f ∧ f.ready ≤ s.now ∧ f.core = s.core.num ∧ f.origin = none ∧
        (∀ g ∈ p.2, g.src.isSome = true ∧ 0 < g.len ∧ ([5, 0, 0, 0] : List Byte).length ≤ g.len)) ∧
    (let f := { store1 with ord := 1, sco := 3, hnd := hndWord 3 (some farObj), job := .remoteAtomic 2 }
     isAcq f.ord = true ∧ f.orphan = false ∧ deviceOf f.hnd ≠ w0.devid) ∧
    (let e : TrapInfo := { cause := .permission }
     let s := { answered (.get [4] 8) [⟨nearKey 28, 4, some (remoteKey 0), [], false⟩] with inbox := [.answer 1 false [] (some e)] }
     ∃ f, s.inbox = [.answer 1 false [] (some e)] ∧ s.flight? 1 = some f ∧ f.job = .get [4] 8 ∧ f.error = none ∧ f.ready ≤ s.now) := by
  refine ⟨by decide +kernel, by decide +kernel, _, rfl, rfl, by decide +kernel⟩

theorem exports (ask : RemoteAsk) : exportTable (exporting ask) = [(0, nearPage)] := by
  have e : exportTable (exporting ask) = exportTable (exporting (.get [])) := rfl
  rw [e]; decide +kernel

theorem test_hyp_FabricArrival :
    (let ask : RemoteAsk := .put [(0x10000, [1, 2])] true
     let s := exporting ask
     let ps := ask.ranges.1.flatMap (fun q => piecesOf (exportTable s) q.1 q.2)
     s.MemOk ∧ s.inbox = [.access 0 0 9 ask] ∧ stillServing s 0 0 = false ∧ s.gathering = [] ∧ exportFault ps true = none ∧
       (∀ q ∈ ps, ∀ e ∈ q.entry, e.2.state ≠ .migratingIn) ∧ segBytes (segsOf 0 true ps) ≠ 0 ∧ 0 = s.devid ∧
       lookup (exportTable s) 0x10000 = some (0, nearPage) ∧ 0x10000 + 2 ≤ nearPage.vbase + nearPage.size) ∧
    (let ask : RemoteAsk := .get [(0x10000, 4)]
     let s := exporting ask
     let ps := ask.ranges.1.flatMap (fun q => piecesOf (exportTable s) q.1 q.2)
     exportFault ps false = none ∧ (∀ q ∈ ps, ∀ e ∈ q.entry, e.2.state ≠ .migratingIn) ∧ (∀ g ∈ segsOf 0 false ps, s.poisoned g.key g.len = false)) ∧
    (let ask : RemoteAsk := .atomic .add 2 0x10000 1 0 true
     let s := exporting ask
     let ps := ask.ranges.1.flatMap (fun q => piecesOf (exportTable s) q.1 q.2)
     exportFault ps true = none ∧ (∀ q ∈ ps, ∀ e ∈ q.entry, e.2.state ≠ .migratingIn) ∧ segsOf 0 true ps = [piece (nearKey 0) 4] ∧ s.claims = []) ∧
    (let ask : RemoteAsk := .put [(0x30000, [1, 2])] true
     (exportFault (ask.ranges.1.flatMap (fun q => piecesOf (exportTable (exporting ask)) q.1 q.2)) true).isSome = true) := by
  unfold State.MemOk; simp only [exports]; decide +kernel

/-- The same table whose first entry maps ARCH: what it maps lies in the granule of a claim. -/
theorem test_hyp_ClaimedArrival :
    (∀ ask, exportTable { exporting ask with mem := put (hwinKey 0 0xE0000) (leBytes 8 0x10000 ++ leBytes 8 0 ++ leBytes 8 0 ++ [0, 3, 3, 0x80] ++ leBytes 4 0) [] } =
      [(0, { nearPage with space := 3 })]) ∧
    segsOf 0 true (piecesOf [(0, { nearPage with space := 3 })] 0x10000 4) = [piece (archKey 0) 4] ∧
    spaceOfKey (archKey 0) = 3 ∧ (claim1 []).chip = chipOf (archKey 0) ∧
    (let c : Claim := { claim1 [] with granules := [archKey 0 / 1024] }; archKey 0 / 1024 ∈ c.granules ∧ c.chip = chipOf (archKey 0)) := by
  refine ⟨fun ask => ?_, by decide +kernel⟩
  have e : exportTable { exporting ask with mem := put (hwinKey 0 0xE0000) (leBytes 8 0x10000 ++ leBytes 8 0 ++ leBytes 8 0 ++ [0, 3, 3, 0x80] ++ leBytes 4 0) [] } =
    exportTable { exporting (.get []) with mem := put (hwinKey 0 0xE0000) (leBytes 8 0x10000 ++ leBytes 8 0 ++ leBytes 8 0 ++ [0, 3, 3, 0x80] ++ leBytes 4 0) [] } := rfl
  rw [e]; decide +kernel

/-- The host writes a value to CTRL of group 9; its member list is at NEAR 0x80. -/
def controlling (v : Byte) (m : Nat) : State :=
  { w0 with mem := put (nearKey 0x80) [1, 0, 0, 0] (put (groupKey 9) (leBytes 8 0x80 ++ leBytes 2 m) []), hostIn := [.write (groupKey 9 + 0x0B) [v]] }

/-- The state after the CTRL write of `controlling`, in which the member list is read. -/
def controlled (s : State) (v : Byte) : State :=
  commitBytes (commitBytes { s with hostIn := [] } (groupKey 9 + 0x0B) [v]) (groupKey 9 + 0x0B) [0]

/-- A tunnel with a frame that has not been acknowledged for 1,700,000 cycles. -/
def tunnel0 : Link := { num := 64, up := true, port := 3, unacked := [(0, 100, .answer 1 true [] none)] }
def tunnelling : State := { w0 with links := [tunnel0], now := 1700100 }

/-- The A-stream at an ALLRED over group 9, which has used its last number. -/
def exhausted : Group := { group5 with num := 9, next := 2 ^ 31, low := 2 ^ 31 }
def renewing (m : Nat) : State := { awaiting exhausted with mem := (controlling 0 m).mem }

theorem test_hyp_Groups :
    ((controlling 1 2).MemOk ∧ (controlling 1 2).group? 9 = none ∧ memberList (controlled (controlling 1 2) 1) 9 = some [1, 0] ∧
      memberList (controlled (controlling 1 0) 1) 9 = none) ∧
    (let g := { group5 with num := 9 }; let s := { controlling 2 2 with groups := [g] }; s.group? 9 = some g ∧ g.state = .open ∧ g.low = g.next) ∧
    { group5 with next := 3 }.low ≠ 3 ∧
    (let g := { group5 with state := .opening }; let s := { w0 with groups := [g], now := 8500000000 }
     s.group? 5 = some g ∧ g.state = .opening ∧ g.held = [] ∧ g.openedAt + 8500000000 ≤ s.now ∧ s.idGone = false ∧ w0.now < g.openedAt + 8500000000 ∧
       ({ s with idGone := true } : State).idGone = true) ∧
    (let g := { group5 with closing := true }; g.closing = true ∧ g.state = .open ∧ g.low = g.next) ∧
    (∀ m ∈ [0, 2], let s := renewing m
     s.group? 9 = some exhausted ∧ exhausted.closing = false ∧ exhausted.next = 2 ^ 31 ∧ exhausted.low = 2 ^ 31 ∧
       s.core.a.status = .waiting (.copySlot 0x88) 7 ∧ groupReg (instrAtA s) = some 6 ∧ (s.ra 6).toNat % 4096 = 9) ∧
    memberList (renewing 0) 9 = none ∧ memberList (renewing 2) 9 = some [1, 0] := by
  unfold State.MemOk; decide +kernel

/-- Port 3 in native mode with a frame that has arrived, and the same on the tunnel. -/
def arriving (l : Link) (seq : Nat) (fragment ok : Bool) : State :=
  { w0 with links := [{ l with arrived := [⟨l.num, seq, fragment, ok, true, .answer 1 true [] none⟩] }] }
def port3 : Link := { num := 3, up := true, port := 3, frames := 2 ^ 31 }

theorem test_hyp_Links :
    w0.link? 15 = none ∧ 5 ≤ w0.phase ∧ w0.idGone = false ∧ State.reset.phase < 5 ∧ (∀ l ∈ w0.links, l.up = true → l.port ≠ 15) ∧
    (let s := { w0 with mem := put (hwinKey 0 (0xEA000 + 20)) [3, 1] [], links := [tunnel0] }
     ({ s with links := [] } : State).link? 64 = none ∧ s.word (hwinKey 0 (0xEA000 + 32 * 0 + 20)) 1 = 3 ∧
       s.word (hwinKey 0 (0xEA000 + 32 * 0 + 21)) 1 % 2 = 1 ∧ ∀ l ∈ s.links, l.up = true → l.port = 3 → 16 ≤ l.num) ∧
    (2 ^ 31 ≤ port3.frames ∧ port3.num < 16 ∧ port3.port = port3.num ∧ port3.crcFails < 8) := by decide +kernel

theorem test_hyp_Frames_arrive :
    (∀ l ∈ [port3, tunnel0], ∀ ok : Bool, ∀ fragment : Bool,
      (arriving l 0 fragment ok).link? l.num = some { l with arrived := [⟨l.num, 0, fragment, ok, true, .answer 1 true [] none⟩] } ∧
        l.up = true ∧ l.ahead = [] ∧ l.expect = 0) ∧
    { tunnel0 with expect := 5 }.expect > 3 ∧ 64 ≤ tunnel0.num ∧
    (tunnelling.link? 64 = some tunnel0 ∧
      tunnel0.unacked.find? (fun u => decide (u.2.1 + 1700000 ≤ tunnelling.now)) = some (0, 100, .answer 1 true [] none)) ∧
    (∀ n ∈ [128, 139, 140], let l : Link := { num := n, up := true, crcFails := 8 }; ({ w0 with links := [l] } : State).link? n = some l ∧ 8 ≤ l.crcFails) := by
  decide +kernel

theorem test_hyp_HostPort_bytes :
    w0.MemOk ∧ hostVisible w0 (nearKey 0) 4 = true ∧ hostVisible w0 (coreKey 0 0) 4 = false ∧ hostVisible w0 (hwinKey 0 0) 0x200000 = true ∧
    hostVisible w0 (hwinKey 0 0) 0x200001 = false ∧ w0.poisoned (nearKey 0) 4 = false ∧ ({ w0 with poison := [nearKey 0] } : State).poisoned (nearKey 0) 4 = true ∧
    hwinKey 0 8 % 8 = 0 ∧ spaceOfKey (hwinKey 0 8) = 6 ∧ spaceOfKey (nearKey 8) ≠ 6 ∧ w0.poisoned (hwinKey 0 8) 8 = false ∧
    hostVisible { w0 with ret0 := 1 } (nearKey (96 * 10 ^ 9 - 1)) 1 = false ∧ hostVisible w0 (nearKey (96 * 10 ^ 9 - 1)) 1 = true :=
  ⟨clean rfl, by decide +kernel⟩

theorem test_hyp_HostPort_writes :
    hostWriteSort (nearKey 0) 4 = .plain ∧ hostWriteSort (coreKey 0 0) 4 = .plain ∧ hostVisible w0 (coreKey 0 0) 4 = false ∧
    hostMayWrite w0 (nearKey 0) 4 = true ∧ w0.regions = [] ∧
    (let s := { w0 with echoes := [⟨4, 0, 1, archKey 0, 1, [0], [5], 82⟩] }
     hostWriteSort (archKey 0) 4 = .plain ∧ hostVisible s (archKey 0) 4 = true ∧ hostMayWrite s (archKey 0) 4 = false) ∧
    (let l : List Byte := [1, 2, 3, 4]
     let s := { entry8 region8 none {} store1 with flights := [], hostIn := [.write (nearKey 0) l] }
     let g : Seg := ⟨nearKey 0, 4, none, l, false⟩
     hostVisible s (nearKey 0) 4 = true ∧ hostMayWrite s (nearKey 0) 4 = true ∧ duplicated s (nearKey 0) 4 = [] ∧
       blocksMet s [(nearKey 0, 4)] = [(region8, 0)] ∧ nextPart s [g] = (some (region8, 0), [g], []) ∧
       s.slot? region8.die (region8.entryIndex 0) = some (slot0 none)) ∧
    duplicated w0 (nearKey 0) 4 = [] ∧ hostWriteSort (hwinKey 0 0xF3408) 8 = .register ∧ hostWriteSort (hwinKey 0 8) 8 = .plain ∧ w0.attesting = none ∧
    (1 : Word).getLsbD 0 = true ∧ ({ w0 with attesting := some 0x8000, idGone := true } : State).idGone = true ∧
    (let size := 160 + signatureBytes; let s := { w0 with attesting := some 0x8000 }
     s.attesting = some 0x8000 ∧ s.hostIn = [] ∧ s.idGone = false ∧ s.poisoned areqKey 8 = false ∧ tierRangeOk s.ret0 s.ret1 2 0x8000 32768 = true ∧
       s.poisoned (nearKey 0x8000) 32 = false ∧ hostMayWrite s (nearKey 0x8000 + 32) size = true ∧ duplicated s (nearKey 0x8000 + 32) size = []) := by
  decide +kernel

theorem test_hyp_DeviceEvents :
    State.reset.MemOk ∧ State.reset.bootErr = 0 ∧ (∀ p < 6, ({ State.reset with phase := p } : State).phase < 6) ∧
    (∀ n < 3, let s := { w0 with alarms := n, lastAlarm := 99 }; ¬s.lastAlarm + 85000000 ≤ s.now ∧ (n < 2 → s.alarms + 1 < 3) ∧ (n = 2 → 3 ≤ s.alarms + 1)) ∧
    (let s := { w0 with alarms := 1, lastAlarm := 5, now := 85000005 }; s.alarms ≠ 0 ∧ s.lastAlarm + 85000000 ≤ s.now) ∧
    (let s := { w0 with parity := [(0, .X, 90)] }; s.parity.find? (parityReady s) = some (s.core.num, .X, 90) ∧ (s.stream .X).status = .running ∧
      s.core.pending = none) ∧
    (let s := { waitingIn .X .wfe k0 with parity := [(0, .X, 90)] }; s.parity.find? (parityReady s) = none ∧ (s.stream .X).status = .waiting .wfe 0) ∧
    (let s := { w0 with failures := [(191, 100)], retiring := [191], epoch := 500 }
     (191 : Nat) < 192 ∧ 191 ∉ s.retired ∧ (∃ f ∈ s.failures, f.1 = 191 ∧ s.epoch + s.now ≤ f.2 + 73440000000000) ∧ 191 ∈ s.retiring ∧
       topFree s (191 / 96) = true) ∧ 5 ∈ ({ w0 with retired := [5] } : State).retired ∧
    (∀ f ∈ w0.failures, f.1 = 95 → f.2 + 73440000000000 < w0.epoch + w0.now) := ⟨clean rfl, by decide +kernel⟩

/-! ### Steps, frames, encodings -/

/-- The A-stream at a word, in its turn. -/
def turning (w : Nat) : State :=
  let k := (checked w).core
  let v : StreamState := { status := .running, ready := 100 }
  { checked w with core := { k with c := v, a := v, x := v }, agenda := [.stream 0 .A] }

/-- The same state with the bytes of the A-stream's next word marked, and with its register a10 marked. -/
def codeMarked (s : State) : State := { s with marks := [⟨0, .code .A 0⟩] }
def regMarked (s : State) : State := { s with marks := [⟨0, .scalar .A 10⟩] }

theorem test_hyp_StepRunsDecoded :
    (let s := turning 0x0016296000000000
     let r := { s with agenda := [] }
     let f := (r.focus 0).takesTurn .A
     s.agenda = [.stream 0 .A] ∧ dueTurns s = [] ∧ canRun .A (r.focus 0) = true ∧ fetchable .A f = true ∧
       (decodeWord .A (f.core.wordAt .A 0) 0).toOption = some (.aAdd 0 12 10 11) ∧
       fetchMarked .A f = false ∧ fetchMarked .A (codeMarked f) = true ∧ readsMarked f (.aAdd 0 12 10 11) = false ∧
       readsMarked (regMarked f) (.aAdd 0 12 10 11) = true) ∧
    (decodeWord .A (({ turning 0 with agenda := [] } : State).focus 0 |>.core.wordAt .A 0) 0 = .error .unassigned) ∧
    (decodeWord .A (({ turning 0x0016296000000001 with agenda := [] } : State).focus 0 |>.core.wordAt .A 0) 0 = .error .reserved) ∧
    dueTurns (overdue .X (.pop 4 1) k0 []) ≠ [] ∧
    canRun .A ((onCore over0).focus 0) = false ∧ w0.agenda = [] ∧ isEvent .deviceReset = true ∧
    fetchable .C ((onCore { k0 with c := { pc := 0xC000, status := .running } }).focus 0) = false ∧
    supervisorOnly .C 0x6B400000 = true ∧ w0.core.sup = false ∧ (onCore (inHandler k0)).core.sup = true ∧
    wellFormed (.aAdd 0 12 10 11) = true ∧ isEvent (.aAdd 0 12 10 11) = false ∧ w0.passDue = false ∧
    { turning 0x0016296000000000 with agenda := [.time 9] }.agenda = [.time 9] ∧ w0.marks = [] ∧ w0.flights = [] := by
  refine ⟨by decide +kernel, rfl, rfl, ?_⟩; decide +kernel

theorem test_hyp_EncodeDecode : wellFormed (.xVtopk 15 62 63 15 5 63) = true ∧ isEvent (.xVtopk 15 62 63 15 5 63) = false ∧
    (decodeWord .X 0xF6EFDF8007800FC0 0).toOption = none := by decide +kernel

/-- The invariants and the frames speak of steps and instructions that answer a next state. -/
theorem test_hyp_Frames :
    w0.MemOk ∧ w0.IdsOk ∧ (∃ t, step w0 = .next t) ∧
    (∀ i ∈ ([.cAdd 0 1 2 3, .cB 0 2, .cFpush 0 1, .cTshape 0 1 2, .cSeal 0 1 2, .cGenf 0, .cBound 0 1, .cFence 0 1 2, .cLttinv 0 1, .cStw 0 1 2 3,
        .aAdd 0 1 2 3, .aLda32 0 1 2 3 2 0 0, .aNop 0, .aBrq 0 1 2, .aOpush 0 1, .aVqpop 0 1, .aLdi 0 1 2, .aLdv 0 1 2 3 4 5 0 0,
        .aAllred 0 0 1 2 3 4 5 5, .xAdd 0 1 2 3, .xVpush 0 1, .xVadd 0 1 2 3 4 0, .xVsortk 0 2 4 6 1 2, .xPand 0 1 2 3, .xCmpeq 0 1 2 3, .xBtgt 0 1 2,
        .xBx 0 1 2 3, .xVpop 0 1 2, .xXpush 0 1, .xOpush 0 1, .xOpop 0 1, .xTld 0 1 2 3, .xTzero 0 1, .xZld 0 1 2 3, .xZzero 0 1, .xTmovv 0 1 2 3,
        .xMma 0 1 2 3 none, .xTapeon 0] : List Instr), ∃ t, exec i w0 = .next t) := by
  refine ⟨clean rfl, ⟨?_, ?_⟩, ⟨_, rfl⟩, fun i m => next_of ?_⟩
  · decide +kernel
  · decide +kernel
  · revert i; decide +kernel

/-! ### A save image that is valid -/

theorem bytes_set {s : State} {m : List Host.Cell} (h : Memory.wf m = true) (k : Nat) (l : List Byte) (e : s.mem = Memory.setAll m k l) (key n : Nat) :
    s.bytes key n = (List.range n).map (fun i => if k ≤ key + i ∧ key + i < k + l.length then l.getD (key + i - k) 0 else Memory.get m (key + i)) := by
  unfold State.bytes Memory.getAll; rw [e]
  exact List.map_congr_left (fun i _ => Memory.get_setAll k (key + i) h)

/-- Bytes apart from those written read as before. -/
theorem bytes_apart {s : State} {m : List Host.Cell} (h : Memory.wf m = true) (k : Nat) (l : List Byte) (e : s.mem = Memory.setAll m k l) (key n : Nat)
    (a : key + n ≤ k ∨ k + l.length ≤ key) : s.bytes key n = Memory.getAll m key n := by
  rw [bytes_set h k l e]; unfold Memory.getAll
  refine List.map_congr_left (fun i hi => if_neg ?_)
  have := List.mem_range.1 hi; omega

/-- The bytes behind a prefix that was written over nothing are zeros. -/
theorem bytes_prefix {s : State} {m : List Host.Cell} (h : Memory.wf m = true) (k : Nat) (l : List Byte) (e : s.mem = Memory.setAll m k l) (n : Nat)
    (z : ∀ i, l.length ≤ i → i < l.length + n → Memory.get m (k + i) = 0) : s.bytes k (l.length + n) = l ++ List.replicate n 0 := by
  rw [bytes_set h k l e]
  apply List.ext_getElem
  · simp
  · intro i h1 h2
    simp only [List.length_map, List.length_range] at h1
    simp only [List.getElem_map, List.getElem_range]
    by_cases c : i < l.length
    · rw [if_pos (by omega), List.getElem_append_left c, show k + i - k = i by omega]
      simp [List.getD_eq_getElem?_getD, c]
    · rw [if_neg (by omega), List.getElem_append_right (by omega), List.getElem_replicate]
      exact z i (by omega) h1

/-- The header of an image whose other bytes are zeros, with their check. -/
def imageHead (crc : BitVec 32) : List Byte := [0x4D, 0x37, 0x56, 0x53, 1, 0, 0, 0, 0, 0, 0, 0] ++ leBytes 4 crc.toNat
def imageOf (n : Nat) : List Byte := imageHead (crc32c (List.replicate n 0)) ++ List.replicate n 0

theorem drop_head (c : BitVec 32) (z : List Byte) (j : Nat) : (imageHead c ++ z).drop (16 + j) = z.drop j := by
  rw [← List.drop_drop]
  congr 1

/-- Such an image is valid. -/
theorem valid_image {s : State} (d : s.devid = 0) (n : Nat) : imageValid s (imageOf n) = true := by
  unfold imageOf
  generalize hz : List.replicate n (0 : Byte) = z
  generalize hc : crc32c z = c
  have drop : (imageHead c ++ z).drop 0x10 = z := drop_head c z 0
  have := c.isLt
  unfold imageValid
  rw [drop, hc]
  have e : fieldAt (imageHead c ++ z) 0xC 4 = c.toNat := by
    simp [fieldAt, imageHead, leBytes, leNat]; omega
  dsimp only
  rw [e]
  simp [fieldAt, imageHead, leBytes, leNat, d]

/-- None of its handles is sealed, and no tape is bound. -/
theorem free_handles (n h : Nat) : handleAt (imageOf n) h = none := by
  unfold handleAt imageOf
  rw [show 0x6000 + 88 * h = 16 + (0x6000 + 88 * h - 16) by omega, drop_head, List.drop_replicate, List.take_replicate]
  exact if_pos (by simp)

theorem leNat_zeros (n : Nat) : leNat (List.replicate n 0) = 0 := by
  induction n with
  | zero => rfl
  | succ n ih => rw [List.replicate_succ]; unfold leNat; rw [ih]; rfl

theorem no_tape (n : Nat) (ltt : List (Nat × Xlat)) (t : Nat) : tapeRestoreFault (imageOf n) ltt t = none := by
  have e : csrAt (imageOf n) 0x50 = 0 := by
    unfold csrAt fieldAt imageOf
    rw [show 0x600 + 8 * 0x50 = 16 + (0x600 + 8 * 0x50 - 16) by omega, drop_head, List.drop_replicate, List.take_replicate, leNat_zeros]; rfl
  unfold tapeRestoreFault
  simp only [e]; exact if_pos (by decide)

/-- Memory with two translation entries, the second of a save area, and a header at the area's place. -/
def teamMem : List Host.Cell := put (nearKey 0xA020) areaPage.raw imageMem
def areaWith (head : List Byte) : List Host.Cell := Memory.setAll teamMem (nearKey 0x200000) head

theorem teamMem_wf : Memory.wf teamMem = true := by decide +kernel
theorem teamMem_below : ∀ c ∈ teamMem, c.1 < nearKey 0x200000 := by decide +kernel

theorem areaWith_ok {s : State} {head : List Byte} (m : s.mem = areaWith head) : s.MemOk := by
  unfold State.MemOk; rw [m]; exact Memory.wf_setAll _ teamMem_wf

/-- What core 0 reads of its area, which `areaPage` maps. -/
theorem area_read {s : State} {k : Core} (n : k.num = 0) {i : Nat} (l : areaPieces k 0x200000 = [⟨0x200000, imageBytes, some (i, areaPage)⟩])
    (head : List Byte) (z : Nat) (hz : head.length + z = imageBytes) (m : s.mem = areaWith head) :
    readImage s k 0x200000 = head ++ List.replicate z 0 := by
  have g : segsOf k.num false (areaPieces k 0x200000) = [{ key := nearKey 0x200000, len := imageBytes }] := by
    rw [l, n]; simp only [segsOf, List.filterMap, Option.map]; decide +kernel
  have b := bytes_prefix teamMem_wf (nearKey 0x200000) head m z
    (fun i _ _ => Memory.get_of_absent (fun c hc => by have := teamMem_below c hc; omega))
  rw [hz] at b
  unfold readImage; rw [g]; simpa using b

theorem area_image {s : State} {k : Core} (n : k.num = 0) {i : Nat} (l : areaPieces k 0x200000 = [⟨0x200000, imageBytes, some (i, areaPage)⟩])
    (z : Nat) (hz : 16 + z = imageBytes) (m : s.mem = areaWith (imageHead (crc32c (List.replicate z 0)))) : readImage s k 0x200000 = imageOf z :=
  area_read n l (imageHead _) z hz m

theorem no_area_trap {s : State} (h : areaPieces s.core 0x200000 = [⟨0x200000, imageBytes, some (0, areaPage)⟩]) : areaTrap s 0x200000 0x200000 false = none := by
  unfold areaTrap; rw [show piecesOf s.core.ltt 0x200000 0x200000 = [⟨0x200000, imageBytes, some (0, areaPage)⟩] from h]; decide +kernel

/-- Core 0 in a handler, its area mapped and holding an image with this header: RESTC may begin, or end. -/
def restoring (head : List Byte) : State :=
  { onCore (inHandler { over0 with ltt := [(0, areaPage)], sregs := (k0.sregs.set 1 0x200000).set 2 0x200000 }) with mem := areaWith head }

theorem restoring_ok (head : List Byte) : (restoring head).MemOk := areaWith_ok (head := head) rfl

theorem restoring_pieces (head : List Byte) : areaPieces (restoring head).core 0x200000 = [⟨0x200000, imageBytes, some (0, areaPage)⟩] := by
  show piecesOf [(0, areaPage)] 0x200000 imageBytes = _
  decide +kernel

theorem restore_context (z : Nat) (hz : 16 + z = imageBytes) :
    let s := restoring (imageHead (crc32c (List.replicate z 0)))
    imageValid (synced .C 0 s) (readImage (synced .C 0 s) (synced .C 0 s).core 0x200000) = true ∧ s.MemOk ∧ s.core.sup = true ∧ s.core.engineHeld = false ∧
      s.core.c.woken = false ∧ areaTrap (synced .C 0 s) 0x200000 0x200000 false = none := by
  have m : ∀ h, (synced .C 0 (restoring h)).mem = areaWith h := fun _ => rfl
  refine ⟨?_, restoring_ok _, rfl, rfl, rfl, no_area_trap (restoring_pieces _)⟩
  rw [area_image (s := synced .C 0 (restoring _)) (k := (synced .C 0 (restoring _)).core) rfl (restoring_pieces _) z hz (m _)]
  exact valid_image rfl _

theorem test_hyp_RestoreContext :
    let s := restoring (imageHead (crc32c (List.replicate (imageBytes - 16) 0)))
    imageValid (synced .C 0 s) (readImage (synced .C 0 s) (synced .C 0 s).core 0x200000) = true ∧ s.MemOk ∧ s.core.sup = true ∧ s.core.engineHeld = false ∧
      s.core.c.woken = false ∧ areaTrap (synced .C 0 s) 0x200000 0x200000 false = none := restore_context _ (by decide)

/-- An area of zeros holds no image. -/
theorem test_hyp_InvalidImage : imageValid (restoring []) (readImage (restoring []) (restoring []).core 0x200000) = false := by
  rw [area_read (s := restoring []) rfl (restoring_pieces []) [] imageBytes (Nat.zero_add _) rfl]
  generalize imageBytes = n
  have e : fieldAt ([] ++ List.replicate n 0) 0 4 = 0 := by
    unfold fieldAt; rw [List.nil_append, List.drop_replicate, List.take_replicate, leNat_zeros]
  simp only [imageValid, e]; rfl

/-- `launch1` as it is to be restored, and the tables and code that the loader reads for it. -/
def savedLaunch : Launch := { launch1 .loading with saved := true, record := { record1 with lttn := 2 } }
def resuming (head : List Byte) : State := { w0 with mem := areaWith head, launches := [savedLaunch] }
def teamTable : List (Nat × Xlat) := [(0, nearPage), (1, areaPage)]

theorem resuming_mem (head : List Byte) : (resuming head).mem = areaWith head := rfl
theorem resuming_ok (head : List Byte) : (resuming head).MemOk := areaWith_ok (head := head) rfl

theorem resuming_bytes (head : List Byte) (key n : Nat) (a : key + n ≤ nearKey 0x200000) : (resuming head).bytes key n = Memory.getAll teamMem key n :=
  bytes_apart teamMem_wf (nearKey 0x200000) head rfl key n (.inl a)

theorem resuming_table (head : List Byte) : loadTable (resuming head) savedLaunch.record = .ok teamTable := by
  have x : ∀ i e, i < 2 → parseXlat 0 0 (Memory.getAll teamMem (nearKey (0xA000 + 32 * i)) 32) = some (true, e) →
      imageXlat (resuming head) 0xA000 i = some (true, e) := by
    intro i e hi he
    unfold imageXlat
    dsimp only
    have p : (resuming head).poisoned (nearKey (0xA000 + 32 * i)) 32 = false := unmarked rfl rfl _ _
    have r : tierRangeOk (resuming head).ret0 (resuming head).ret1 2 (0xA000 + 32 * i) 32 = true := by
      show tierRangeOk 0 0 2 (0xA000 + 32 * i) 32 = true
      rcases i with _ | _ | i <;> first | omega | decide +kernel
    rw [p, r, resuming_bytes head _ _ (by unfold nearKey; omega)]
    exact he
  have x0 := x 0 nearPage (by decide) (by decide +kernel)
  have x1 := x 1 areaPage (by decide) (by decide +kernel)
  have r : List.range savedLaunch.record.lttn = [0, 1] := rfl
  have b : savedLaunch.record.lttimg = 0xA000 := rfl
  unfold loadTable
  rw [r, b]
  simp [List.find?, x0, x1, teamTable]

theorem resuming_read (head : List Byte) (va len key : Nat) (h : piecesOf teamTable va len = [⟨va, len, some (0, nearPage)⟩])
    (e : nearKey (va - 0x10000) = key) (a : key + len ≤ nearKey 0x200000) : loaderRead (resuming head) teamTable 0 va len = .ok (Memory.getAll teamMem key len) := by
  have g : segsOf 0 false [(⟨va, len, some (0, nearPage)⟩ : Piece)] = [{ key := key, len := len }] := by
    simp only [segsOf, List.filterMap, Option.map]; rw [← e]; simp [nearPage, placeKey, Xlat.place]
  unfold loaderRead
  dsimp only
  rw [h, g]
  have p := unmarked (s := resuming head) rfl rfl key len
  simp [p, nearPage]
  exact resuming_bytes head _ _ a

theorem resuming_code (head : List Byte) : ∃ code, readCode (resuming head) teamTable 0 savedLaunch.record = .ok code := by
  have h1 := resuming_read head 0x10000 256 (nearKey 0) (by decide +kernel) rfl (by decide)
  have h2 := resuming_read head 0x18000 128 (nearKey 0x8000) (by decide +kernel) rfl (by decide)
  have h3 := resuming_read head 0x10000 0x400 (nearKey 0) (by decide +kernel) rfl (by decide)
  have sz : fieldAt (Memory.getAll teamMem (nearKey 0) 256) 0x48 4 = 0x400 := by decide +kernel
  have ok : imageOk (Memory.getAll teamMem (nearKey 0) 0x400) = true := by decide +kernel
  unfold readCode
  rw [show savedLaunch.record.code = 0x10000 from rfl, show savedLaunch.record.args = 0x18000 from rfl, h1, h2]
  simp [sz, h3, ok]

/-- The core of the restored member before its context is reinstated. -/
theorem bare_pieces (s : State) (code handler : List Byte) :
    areaPieces (bareCore s savedLaunch teamTable code handler 0 0) (areaOf savedLaunch 0) = [⟨0x200000, imageBytes, some (1, areaPage)⟩] := by
  show piecesOf teamTable 0x200000 imageBytes = _
  decide +kernel

theorem bare_fault {s : State} {l : Launch} {k : Core} (t z : Nat) (p : areaPieces k (areaOf l t) = [⟨0x200000, imageBytes, some (1, areaPage)⟩])
    (b : s.poison = []) (d : s.deadChips = []) (r0 : s.ret0 = 0) (r1 : s.ret1 = 0) (v : s.devid = 0) (h : readImage s k (areaOf l t) = imageOf z) :
    restoreFault s l k t = none := by
  have a : areaFault k (areaOf l t) false = none := by unfold areaFault; rw [p]; decide +kernel
  have c : areaBroken s k (areaOf l t) = false := by
    unfold areaBroken; rw [p, r0, r1]
    simp only [List.any_cons, List.any_nil, Bool.or_false, segsOf, List.filterMap, Option.map, unmarked b d]
    decide +kernel
  have e : handleFault s k.ltt (imageOf z) = none := by
    unfold handleFault
    rw [List.findSome?_eq_none_iff]
    intro x _; rw [free_handles]; rfl
  unfold restoreFault
  simp [a, c, h, valid_image v, e, no_tape]

theorem restore_team (z : Nat) (hz : 16 + z = imageBytes) :
    let s := resuming (imageHead (crc32c (List.replicate z 0)))
    s.MemOk ∧ s.launches = [savedLaunch] ∧ savedLaunch.state = .loading ∧ savedLaunch.saved = true ∧ savedLaunch.record.budget = 0 ∧
      savedLaunch.members = [s.core.num] ∧
      ∃ code handler, loadTable s savedLaunch.record = .ok teamTable ∧ readCode s teamTable (savedLaunch.members.headD 0) savedLaunch.record = .ok code ∧
        supervisorImage s savedLaunch.supimg = some handler ∧
        (∀ q ∈ savedLaunch.members.zipIdx, restoreFault s savedLaunch (bareCore s savedLaunch teamTable code.1 handler q.2 q.1) q.2 = none) ∧
        staleFault s savedLaunch (bareCore s savedLaunch teamTable code.1 handler) = none := by
  intro s
  obtain ⟨code, hc⟩ := resuming_code (imageHead (crc32c (List.replicate z 0)))
  have hs : supervisorImage s 0x40001 = some (s.bytes (nearKey 0x40000) 16384) := by
    have p : s.poisoned (nearKey 0x40000) 16384 = false := unmarked rfl rfl _ _
    have r : tierRangeOk s.ret0 s.ret1 2 0x40000 16384 = true := by show tierRangeOk 0 0 2 0x40000 16384 = true; decide
    unfold supervisorImage
    simp [p, r]
  have hr : ∀ h, readImage s (bareCore s savedLaunch teamTable code.1 h 0 0) (areaOf savedLaunch 0) = imageOf z := by
    intro h
    have b := bare_pieces s code.1 h
    rw [show areaOf savedLaunch 0 = 0x200000 from rfl] at b ⊢
    exact area_image rfl b z hz (resuming_mem _)
  refine ⟨resuming_ok _, rfl, rfl, rfl, rfl, rfl, code, _, resuming_table _, hc, hs, ?_, ?_⟩
  · intro q hq
    obtain rfl : q = (0, 0) := by simpa [savedLaunch, launch1] using hq
    exact bare_fault 0 z (bare_pieces s _ _) rfl rfl rfl rfl rfl (hr _)
  · unfold staleFault
    rw [Option.map_eq_none_iff, List.find?_eq_none]
    intro x _
    rw [show savedLaunch.members.zipIdx = [(0, 0)] from rfl]
    simp only [List.map, List.any, staleHandle, hr, free_handles]; decide

theorem test_hyp_RestoreTeam :
    let s := resuming (imageHead (crc32c (List.replicate (imageBytes - 16) 0)))
    s.MemOk ∧ s.launches = [savedLaunch] ∧ savedLaunch.state = .loading ∧ savedLaunch.saved = true ∧ savedLaunch.record.budget = 0 ∧
      savedLaunch.members = [s.core.num] ∧
      ∃ code handler, loadTable s savedLaunch.record = .ok teamTable ∧ readCode s teamTable (savedLaunch.members.headD 0) savedLaunch.record = .ok code ∧
        supervisorImage s savedLaunch.supimg = some handler ∧
        (∀ q ∈ savedLaunch.members.zipIdx, restoreFault s savedLaunch (bareCore s savedLaunch teamTable code.1 handler q.2 q.1) q.2 = none) ∧
        staleFault s savedLaunch (bareCore s savedLaunch teamTable code.1 handler) = none := restore_team _ (by decide)

/-! ### The length of an image -/

theorem zone_length (n : Nat) (l : List Byte) : (zone n l).length = n := by simp [zone]; omega
theorem leBytes_length (n x : Nat) : (leBytes n x).length = n := by
  induction n generalizing x with
  | zero => rfl
  | succ n ih => simp [leBytes, ih]
theorem flat_length {α : Type} (f : α → List Byte) (n : Nat) (h : ∀ x, (f x).length = n) (l : List α) : (l.flatMap f).length = n * l.length := by
  induction l with
  | nil => rfl
  | cons x r ih => rw [List.flatMap_cons, List.length_append, h, ih, List.length_cons, Nat.mul_add]; omega
theorem vecBytes_length (v : Vec) : (vecBytes v).length = 256 := by
  unfold vecBytes; rw [flat_length _ 4 (fun _ => leBytes_length 4 _), Vector.length_toList]

/-- Of a core with no sealed handle and no bank in use. -/
theorem image_length (s : State) (k : Core) (code flags : Nat) (h : k.handles = []) (b : k.banks = []) : (saveImage s k code flags).length = imageBytes := by
  have d : ∀ i, (handleBytes k i).length = 88 := by
    intro i
    have n : k.handle i = none := by unfold Core.handle; rw [h]; rfl
    unfold handleBytes; rw [n]; exact leBytes_length 88 0
  have r : k.records.length = 3 := by unfold Core.records; rw [b]; rfl
  have words : ∀ l : List Word, (wordsBytes l).length = 8 * l.length := fun l => flat_length _ 8 (fun x => leBytes_length 8 _) l
  have ring : ∀ (n m : Nat) (x : BitVec 32) (l : List (List Byte)), (ringBytes n m x l).length = m * n := by
    intro n m x l; unfold ringBytes; rw [flat_length _ m (fun _ => zone_length _ _)]; simp
  have vecs : ∀ {n : Nat} (l : Vector Vec n), (l.toList.flatMap vecBytes).length = 256 * n := by
    intro n l; rw [flat_length _ 256 vecBytes_length]; simp
  have banks : ∀ {n m : Nat} (l : Vector (Vector Vec n) m), (l.toList.flatMap (fun z => z.toList.flatMap vecBytes)).length = 256 * n * m := by
    intro n m l; rw [flat_length _ (256 * n) (fun z => vecs z)]; simp
  have recs : (k.records.flatMap StreamRecord.bytes).length = 48 := by
    rw [flat_length _ 16 (fun r => by simp only [StreamRecord.bytes, List.length_append, leBytes_length]), r]
  have loops : (k.records.flatMap (fun r => loopBytes r.loops)).length = 192 := by
    rw [flat_length (fun q : StreamRecord => loopBytes q.loops) 64 (fun _ => zone_length _ _), r]
  have handles : ((List.range 1024).flatMap (handleBytes k)).length = 90112 := by rw [flat_length _ 88 d, List.length_range]
  have queues : ∀ f : Queue LqEntry → List Byte, (∀ q, (f q).length = 256 * 64) → (k.lq.toList.flatMap f).length = 65536 := by
    intro f hf; rw [flat_length f (256 * 64) hf, Vector.length_toList]
  have store : (s.bytes (coreKey k.num 0) coreBytes).length = 1572864 := by
    unfold State.bytes Memory.getAll; rw [List.length_map, List.length_range]; rfl
  have bits : ∀ q, (outcomeBytes q).length = 16 := by intro q; unfold outcomeBytes; rw [List.length_map, List.length_range]
  have files : ∀ v : Vector Word 32, (fileWords v).length = 32 := fun v => by simp [fileWords]
  have preds : ∀ v : Vector Word 16, (predWords v).length = 16 := fun v => by simp [predWords]
  unfold saveImage imageBody
  simp only [List.length_append, leBytes_length, zone_length, words, ring, vecs, banks, recs, loops, handles, store, bits, queues _ (fun q => ring 64 256 q.head _),
    Vector.length_toList, files, preds]
  decide

theorem test_hyp_SaveContext :
    let s := onCore { over0 with ltt := [(0, areaPage)] }
    (saveImage s s.core (codeOf s s.core) 1).length = imageBytes ∧ (∀ e ∈ s.core.handles, 88 ≤ e.2.desc.length) ∧
      (∀ e ∈ (onCore (mapped k0 fiveObjs [])).core.handles, 88 ≤ e.2.desc.length) :=
  ⟨image_length _ _ _ _ rfl rfl, by decide +kernel, by decide +kernel⟩
/-! ### One step each, on values that the spec states -/

/-- The state that an outcome goes on in. -/
def after (o : Host.Outcome State Fault Refusal) : State :=
  match o with
  | .next t => t
  | _ => State.reset

/-- s1 of the machine after `i` in the state with these values in s1, s2 and s3. -/
def cAfter (x z w : Word) (i : Instr) : Word := (after (exec i (onCore (withValues x z w)))).core.sregs[1]

/-- x1 of the same. -/
def xAfter (x z w : Word) (i : Instr) : Word := (after (exec i (onCore (withValues x z w)))).core.xregs[1]

/-- R93: division by 0, of −2^63 by −1, and truncation toward zero. -/
theorem test_division :
    cAfter 7 0 0 (.cDiv 0 1 1 2) = 0xFFFFFFFFFFFFFFFF ∧ cAfter 7 0 0 (.cRem 0 1 1 2) = 7 ∧
    cAfter 0x8000000000000000 0xFFFFFFFFFFFFFFFF 0 (.cDiv 0 1 1 2) = 0x8000000000000000 ∧
    cAfter 0x8000000000000000 0xFFFFFFFFFFFFFFFF 0 (.cRem 0 1 1 2) = 0 ∧
    cAfter 0xFFFFFFFFFFFFFFF9 2 0 (.cDiv 0 1 1 2) = 0xFFFFFFFFFFFFFFFD ∧ cAfter 0xFFFFFFFFFFFFFFF9 2 0 (.cRem 0 1 1 2) = 0xFFFFFFFFFFFFFFFF := by
  decide +kernel

/-- R92: the high halves of −1 × 2, signed and unsigned; shifts by the low six bits. -/
theorem test_highHalves :
    cAfter 0xFFFFFFFFFFFFFFFF 2 0 (.cMulh 0 1 1 2) = 0xFFFFFFFFFFFFFFFF ∧ cAfter 0xFFFFFFFFFFFFFFFF 2 0 (.cMulhu 0 1 1 2) = 1 ∧
    cAfter 0x8000000000000000 65 0 (.cSra 0 1 1 2) = 0xC000000000000000 ∧ xAfter 0x8000000000000000 65 0 (.xShr 0 1 1 2) = 0x4000000000000000 := by
  decide +kernel

/-- A vector whose first lanes are these. -/
def lanesOf (l : List Lane) : Vec := Vector.ofFn (fun i => l.getD i.val 0)

/-- Core 0 with vectors 1 and 2 and a mask in p3. -/
def vectors (u v : List Lane) (p : Word) : State :=
  onCore { k0 with v := (k0.v.set 1 (lanesOf u)).set 2 (lanesOf v), p := k0.p.set 3 p }

/-- The first lanes of a vector register. -/
def lanesAt (t : State) (r : VReg) (n : Nat) : List Lane := (t.core.v[r]).toList.take n

/-- The sum that spec/07 works out after R186. -/
theorem test_vrfsum : (after (exec (.xVrfsum 0 1 1 3 5 0) (vectors [0x4B800000, 0x3F800000, 0x3F800000, 0xCB800000] [] 15))).core.xregs[1] = 0x3F800000 := by
  decide +kernel

/-- The sort that spec/07 works out after R189. -/
theorem test_vsortk :
    let t := after (exec (.xVsortk 0 10 1 2 3 2)
      (vectors [7, 3, 7, 9, 3, 7, 5] [0x3F000000, 0x3F800000, 0x3E800000, 0x40000000, 0x3F000000, 0x3F800000, 5] 63))
    lanesAt t 10 7 = [3, 3, 7, 7, 7, 9, 0] ∧ lanesAt t 11 7 = [0x3F800000, 0x3F000000, 0x3F000000, 0x3E800000, 0x3F800000, 0x40000000, 0] := by
  decide +kernel

/-- Its segmented sums. -/
theorem test_vsegsum :
    lanesAt (after (exec (.xVsegsum 0 2 1 2 3 5)
      (vectors [3, 3, 7, 7, 7, 9, 5] [0x3F800000, 0x3F000000, 0x3F000000, 0x3E800000, 0x3F800000, 0x40000000, 5] 63))) 2 7 =
    [0x3F800000, 0x3FC00000, 0x3F000000, 0x3F400000, 0x3FE00000, 0x40000000, 5] := by decide +kernel

/-- R176: packed 8-bit lanes wrap apart; lanes outside the mask keep their contents. -/
theorem test_vadd : lanesAt (after (exec (.xVadd 0 2 1 2 3 0) (vectors [0xFF01FF80, 1] [0x01010180, 9] 1))) 2 2 = [0x00020000, 9] := by decide +kernel

/-- 2^24 + 1 in the four modes: a tie to even, toward zero, up, down (R254). -/
theorem test_vfadd :
    (List.range 4).map (fun r => (lanesAt (after (exec (.xVfadd 0 2 1 2 3 5 (BitVec.ofNat 2 r)) (vectors [0x4B800000] [0x3F800000] 1))) 2 1).head?) =
    [some 0x4B800000, some 0x4B800000, some 0x4B800001, some 0x4B800000] := by decide +kernel

/-- The value of a code, as FP32. -/
def asFp32 (ty : ElemCode) (c : Nat) : Lane := rn32 (elemNum ty c)

/-- The codes that spec/13 works out: 0.5, 3.0, −1.5, 5 × 2^−10, −2^−10, NaN; and 49,152, +∞, 57,344, 2.75, +∞, 240, 2^−63 of other formats. -/
theorem test_binary8 :
    [0x38, 0x4C, 0xC4, 0x05, 0x81, 0x80].map (asFp32 0x24) = [0x3F000000, 0x40400000, 0xBFC00000, 0x3BA00000, 0xBA800000, 0x7FC00000] ∧
    [(0x2B, 0x7E), (0x2B, 0x7F), (0x23, 0x7F), (0x35, 0x96), (0x3D, 0xFE), (0x35, 0xFE), (0x21, 0x01)].map (fun p => asFp32 p.1 p.2) =
    [0x47400000, 0x7F800000, 0x47600000, 0x40300000, 0x7F800000, 0x43700000, 0x20000000] := by decide +kernel

/-- A conversion of an FP32 value to a format: the code, or none where the policy traps. -/
def toCode (ty : ElemCode) (rnd pol : Nat) (x : Lane) : Option Nat := convert (fmtOf ty) rnd pol (ofFp32 x)

/-- The conversions to f8p4s that spec/13 works out: 232, 236, 1000 with each policy, −0. -/
theorem test_convert :
    toCode 0x24 0 0 0x43680000 = some 0x7E ∧ toCode 0x24 0 0 0x436C0000 = some 0x7F ∧ toCode 0x24 0 0 0x447A0000 = some 0x7F ∧
    toCode 0x24 0 2 0x447A0000 = some 0x80 ∧ toCode 0x24 0 3 0x447A0000 = none ∧ toCode 0x24 0 0 0x80000000 = some 0 := by decide +kernel

/-- The chunks that spec/13 works out after R261. -/
theorem test_chunks :
    let n := fun (x : Nat) => decodeFloat bf16 x
    chunkFloat 0 0 0x3F800000 [(n 0x4580).mul (n 0x4580), (n 0xC580).mul (n 0x4580)] none = some 0x3F800000 ∧
    chunkFloat 0 0 0x3F800000 [(n 0x4580).mul (n 0x4580), (n 0x4580).mul (n 0x4580)] none = some 0x4C000000 ∧
    chunkFloat 0 0 0x4B800000 (List.replicate 32 ((elemNum 0x24 0x34).mul (elemNum 0x24 0x38))) (some (n 0x3F00, n 0x3F80)) = some 0x4B800002 := by decide +kernel

/-- The sparse operation that spec/14 works out: 6.5. -/
theorem test_mmas :
    let o : MatOp := { (default : MatOp) with op := 0x95, fmt := 0x924, shapeA := 0x10040064 }
    let a : List Byte := [0x40, 0x48, 0x38, 0xC0] ++ List.replicate 252 0 ++ [0xA1, 0x18, 0x0F]
    let b : List Byte := ((((List.replicate 32 (0 : Byte)).set 1 0x40).set 5 0x48).set 6 0x50).set 30 0x38
    (matrixElem o 0 a b).map (·.1) = some 0x40D00000 := by decide +kernel

/-- The run that spec/21 works out after R368, and its decoding. -/
theorem test_run :
    let xs : List Lane := ((((((List.replicate 32 (0 : Lane)).set 3 0x40C00000).set 12 0x40C00000).set 7 0xBF000000).set 20 0x3FA00000).set 25 0xC0C00000)
    encodeRun 0x24 4 xs = [0x00, 0x3D, 0x7C, 0x7C, 0x6A, 0xFC, 0x83, 0xD1, 0x0C, 0, 0, 0] ∧ decodeRun 0x24 4 32 (encodeRun 0x24 4 xs) = xs.set 7 0 := by
  decide +kernel

/-- The order of a pooled sum that spec/17 works out after R321: chip by chip, then the partials. -/
theorem test_pool :
    add32 (add32 0 0x4B800000) (add32 (add32 0 0x3F800000) 0x3F800000) = 0x4B800001 ∧
    add32 (add32 (add32 0 0x3F800000) 0x4B800000) 0x3F800000 = 0x4B800000 := by decide +kernel

end Sys2Proof.Tests
end

/-! SUPPORT. Where retirement leaves a stream (R27, R28, R56), and O2. -/
namespace Sys2Proof.Machine

/-! ### Signals look at the token counters alone (R27) -/

@[simp] theorem signalRoom_setStream (st st' : StreamId) (sig : BitVec 2) (s : State) (v : StreamState) :
    (s.setStream st' v).core.signalRoom st sig = s.core.signalRoom st sig := by
  cases st' <;> rfl

/-- The counters after the signals follow from the counters before them. -/
theorem giveSync_tokens_congr {k j : Core} (h : k.tokens = j.tokens) (st : StreamId) (sig : BitVec 2) :
    (k.giveSync st sig).tokens = (j.giveSync st sig).tokens := by
  unfold Core.giveSync
  cases sig.getLsbD 1 <;> cases sig.getLsbD 0 <;> simp [Core.addTokens, h]

@[simp] theorem setCore_giveSync_stream (st st' : StreamId) (sig : BitVec 2) (s : State) :
    (s.setCore (s.core.giveSync st sig)).stream st' = s.stream st' := by
  cases st' <;> simp

/-! ### Leaving an instruction (R27) -/

@[simp] theorem moveTo_pc (st : StreamId) (y : BitVec 4) (s : State) (next : Word) (loops : List LoopEntry) :
    ((moveTo st y s next loops).stream st).pc = next := by
  unfold moveTo
  dsimp only
  split <;> simp

@[simp] theorem moveTo_loops (st : StreamId) (y : BitVec 4) (s : State) (next : Word) (loops : List LoopEntry) :
    ((moveTo st y s next loops).stream st).loops = loops := by
  unfold moveTo
  dsimp only
  split <;> simp

/-- With room for its signals the stream goes on, and they are given. -/
theorem moveTo_gives {st : StreamId} {y : BitVec 4} {s : State} (room : s.core.signalRoom st (y.setWidth 2) = true)
    (next : Word) (loops : List LoopEntry) :
    ((moveTo st y s next loops).stream st).status = .running ∧
      (moveTo st y s next loops).core.tokens = (s.core.giveSync st (y.setWidth 2)).tokens := by
  simp only [moveTo, room, if_true]
  exact ⟨by simp, giveSync_tokens_congr (by simp) st _⟩

/-- Without room the stream owes its signals and waits, and no counter changes. -/
theorem moveTo_owes {st : StreamId} {y : BitVec 4} {s : State} (room : s.core.signalRoom st (y.setWidth 2) = false)
    (next : Word) (loops : List LoopEntry) :
    ((moveTo st y s next loops).stream st).psig = y.setWidth 2 ∧
      ((moveTo st y s next loops).stream st).status = .waiting (.room (signalWant st (y.setWidth 2))) s.now ∧
      (moveTo st y s next loops).core.tokens = s.core.tokens := by
  simp [moveTo, room]

/-- With no BX transfer pending, retirement leaves the instruction for where the loops that end at it lead (R56). -/
theorem retireAt_of_no_transfer {st : StreamId} {y : BitVec 4} {s : State} (bx : (s.stream st).bx = none) :
    retireAt st y s = moveTo st y (s.setStream st { s.stream st with bx := none })
      (loopStep (s.stream st).pc (nextPc st s) (s.stream st).loops).1
      (loopStep (s.stream st).pc (nextPc st s) (s.stream st).loops).2 := by
  simp only [retireAt, afterRetire, bx, nextPc]

/-! ### The step of the loop stack (R56) -/

theorem loopStep_of_stop_ne {pc next : Word} {e : LoopEntry} (h : e.stop ≠ pc) (rest : List LoopEntry) :
    loopStep pc next (e :: rest) = (next, e :: rest) := by
  simp [loopStep, h]

theorem loopStep_repeats {pc next : Word} {e : LoopEntry} (h : e.stop = pc) (more : e.remaining - 1 ≠ 0)
    (rest : List LoopEntry) :
    loopStep pc next (e :: rest) = (e.start, { e with remaining := e.remaining - 1 } :: rest) := by
  rw [loopStep, if_pos h, if_pos more]

theorem loopStep_pops {pc next : Word} {e : LoopEntry} (h : e.stop = pc) (last : e.remaining - 1 = 0)
    (rest : List LoopEntry) : loopStep pc next (e :: rest) = loopStep pc next rest := by
  rw [loopStep, if_pos h, if_neg (not_not_intro last)]

/-- Settles O2: a retirement is a `moveTo` to where `loopStep` leads; each of the instructions named starts with
`issue`, which asks for the tokens first. -/
theorem retirement : Obligations.Retirement := by
  refine ⟨fun st y s bx => ?_, fun pc next e rest => ?_, fun y d a b h ty v w g s => ?_⟩
  · dsimp only
    refine ⟨retireAt_onlyControl st y s, ?_⟩
    rw [retireAt_of_no_transfer bx]
    refine ⟨moveTo_pc .., moveTo_loops .., fun room => ?_, fun room => ?_⟩
    · obtain ⟨runs, gives⟩ := moveTo_gives (s := s.setStream st { s.stream st with bx := none }) (by simpa using room) _ _
      exact ⟨runs, gives.trans (giveSync_tokens_congr (by simp) st _)⟩
    · simpa using moveTo_owes (s := s.setStream st { s.stream st with bx := none }) (by simpa using room) _ _
  · exact ⟨rfl, fun h => loopStep_of_stop_ne h rest, fun h more => loopStep_repeats h more rest,
      fun h last => loopStep_pops h last rest⟩
  · simp only [List.forall_mem_cons, List.not_mem_nil, false_implies, implies_true, and_true]
    refine ⟨?c, ?a, ?x⟩
    case c =>
      simp only [exec_cAdd, exec_cLdw, exec_cFence, exec_cSeal, exec_cHalt, execCAdd, aluC, execCLdw, execCFence, execCSeal, execCHalt]
      exact ⟨issue_waits, issue_waits, issue_waits, issue_waits, issue_waits⟩
    case a =>
      simp only [exec_aAdd, exec_aLda32, exec_aSta32, exec_aEnd, execAAdd, aluA, execALda32, loadReg, execASta32, storeReg, execAEnd]
      exact ⟨issue_waits, issue_waits, issue_waits, issue_waits⟩
    case x =>
      simp only [exec_xAdd, exec_xVadd, exec_xVpush, exec_xEnd, execXAdd, aluX, execXVadd, vint, mergeX, execXVpush, execXEnd]
      exact ⟨issue_waits, issue_waits, issue_waits, issue_waits⟩

end Sys2Proof.Machine

/-! SUPPORT. What an instruction that only computes retires with, the bit counts of R92, and O9. -/
namespace Sys2Proof.Machine

/-! ### Instructions that only compute (R92, R94) -/

/-- An instruction whose body retires in any case does so as soon as its tokens are there. -/
theorem issue_retires {st : StreamId} {y : BitVec 4} {s : State} (h : syncReady st y s = true) (f : State → State) :
    issue st y s (fun t => .retire (f t)) = .next (retireAt st y (f (synced st y s))) :=
  issue_ready h

theorem aluC_ready {y : BitVec 4} {s : State} (h : syncReady .C y s = true) (o : Alu) (d a b : Reg) :
    aluC o y d a b s = .next (retireAt .C y ((synced .C y s).ws d (aluOp o (s.rs a) (s.rs b)))) := by
  simp only [aluC, issue_retires h, synced_rs]

theorem aluImmC_ready {y : BitVec 4} {s : State} (h : syncReady .C y s = true) (o : Alu) (d a : Reg) (imm : Word) :
    aluImmC o y d a imm s = .next (retireAt .C y ((synced .C y s).ws d (aluOp o (s.rs a) imm))) := by
  simp only [aluImmC, issue_retires h, synced_rs]

/-! ### Shifts by an immediate (R94) -/

/-- A six-bit immediate is its own shift amount. -/
theorem zext_six_bits_mod (n : BitVec 6) : (zext n).toNat % 64 = n.toNat := by
  have := n.isLt
  simp only [zext, BitVec.toNat_setWidth]
  omega

theorem aluOp_shl_zext (x : Word) (n : BitVec 6) : aluOp .shl x (zext n) = x <<< n.toNat := by
  simp only [aluOp, zext_six_bits_mod]

theorem aluOp_shr_zext (x : Word) (n : BitVec 6) : aluOp .shr x (zext n) = x >>> n.toNat := by
  simp only [aluOp, zext_six_bits_mod]

theorem aluOp_sra_zext (x : Word) (n : BitVec 6) : aluOp .sra x (zext n) = x.sshiftRight n.toNat := by
  simp only [aluOp, zext_six_bits_mod]

/-! ### Bit counts (R92, R174) -/

theorem popCount_eq_countP (x : Word) : popCount x = (List.range 64).countP (fun i => x.getLsbD i) :=
  List.countP_eq_length_filter.symm

theorem leadingZeros_eq_findIdx (x : Word) :
    leadingZeros x = (List.range 64).findIdx (fun i => x.getLsbD (63 - i)) := by
  have bound := List.findIdx_le_length (p := fun i => x.getLsbD (63 - i)) (xs := List.range 64)
  simp only [leadingZeros, List.takeWhile_eq_take_findIdx_not, Bool.not_not, List.length_take]
  exact Nat.min_eq_left bound

theorem leadingZeros_zero : leadingZeros 0 = 64 := by
  rw [leadingZeros_eq_findIdx, List.findIdx_eq_length_of_false (by simp), List.length_range]

/-- The highest bit set of a word is bit `log2`. -/
theorem getLsbD_log2 {x : Word} (h : x ≠ 0) : x.getLsbD x.toNat.log2 = true :=
  Nat.testBit_log2 (by simpa [BitVec.toNat_eq] using h)

theorem getLsbD_of_log2_lt {x : Word} {i : Nat} (h : x.toNat.log2 < i) : x.getLsbD i = false :=
  Nat.testBit_lt_two_pow (Nat.lt_of_lt_of_le Nat.lt_log2_self (Nat.pow_le_pow_right (by decide) h))

/-- Above the highest bit set, all the bits are zeros. -/
theorem leadingZeros_of_ne_zero {x : Word} (h : x ≠ 0) : leadingZeros x = 63 - x.toNat.log2 := by
  have high : x.toNat.log2 < 64 := BitVec.lt_of_getLsbD (getLsbD_log2 h)
  rw [leadingZeros_eq_findIdx, List.findIdx_eq (by rw [List.length_range]; omega)]
  simp only [List.getElem_range]
  refine ⟨?_, fun j below => getLsbD_of_log2_lt (by omega)⟩
  rw [show 63 - (63 - x.toNat.log2) = x.toNat.log2 by omega]
  exact getLsbD_log2 h

theorem ofNat_leadingZeros (x : Word) :
    BitVec.ofNat 64 (leadingZeros x) = if x = 0 then 64 else BitVec.ofNat 64 (63 - x.toNat.log2) := by
  split
  case isTrue zero => rw [zero, leadingZeros_zero]; rfl
  case isFalse nonzero => rw [leadingZeros_of_ne_zero nonzero]

/-! ### What CLZ, POPC, LI and LUI retire with (R71, R92) -/

section
variable {y : BitVec 4} {s : State} (h : syncReady .C y s = true)
include h

theorem execCClz_ready (d a : Reg) :
    execCClz y d a s = .next (retireAt .C y ((synced .C y s).ws d
      (if s.rs a = 0 then 64 else BitVec.ofNat 64 (63 - (s.rs a).toNat.log2)))) := by
  simp only [execCClz, issue_retires h, synced_rs, ofNat_leadingZeros]

theorem execCPopc_ready (d a : Reg) :
    execCPopc y d a s = .next (retireAt .C y ((synced .C y s).ws d
      (BitVec.ofNat 64 ((List.range 64).countP (fun i => (s.rs a).getLsbD i))))) := by
  simp only [execCPopc, issue_retires h, synced_rs, popCount_eq_countP]

theorem execCLi_ready (d : Reg) (j : BitVec 16) :
    execCLi y d j s = .next (retireAt .C y ((synced .C y s).ws d (j.signExtend 64))) :=
  issue_retires h _

theorem execCLui_ready (d : Reg) (j : BitVec 16) :
    execCLui y d j s = .next (retireAt .C y ((synced .C y s).ws d (s.rs d <<< 16 ||| j.setWidth 64))) := by
  simp only [execCLui, issue_retires h, synced_rs, zext]

theorem execCShli_ready (d a : Reg) (n : BitVec 6) :
    execCShli y d a n s = .next (retireAt .C y ((synced .C y s).ws d (s.rs a <<< n.toNat))) := by
  rw [execCShli, aluImmC_ready h, aluOp_shl_zext]

theorem execCShri_ready (d a : Reg) (n : BitVec 6) :
    execCShri y d a n s = .next (retireAt .C y ((synced .C y s).ws d (s.rs a >>> n.toNat))) := by
  rw [execCShri, aluImmC_ready h, aluOp_shr_zext]

theorem execCSrai_ready (d a : Reg) (n : BitVec 6) :
    execCSrai y d a n s = .next (retireAt .C y ((synced .C y s).ws d ((s.rs a).sshiftRight n.toNat))) := by
  rw [execCSrai, aluImmC_ready h, aluOp_sra_zext]

end

/-- Settles O9: the register and immediate forms are `aluC` and `aluImmC`, which retire with `aluOp`, the table of R92
and R93; the bit counts, the shifts by an immediate, LI and LUI have a lemma each. -/
theorem cArithmeticResults : Obligations.CArithmeticResults := by
  refine ⟨fun y d a b s ready => ?registers, fun y d a i n j s ready => ?immediates⟩
  case registers =>
    have alu (o : Alu) := aluC_ready ready o d a b
    exact ⟨alu .add, alu .sub, alu .and, alu .or, alu .xor, alu .shl, alu .shr, alu .sra, alu .mul, alu .mulh, alu .mulhu,
      alu .div, alu .rem, alu .min, alu .max, alu .seq, alu .sne, alu .slt, alu .sltu, alu .sle, alu .sleu,
      execCClz_ready ready d a, execCPopc_ready ready d a⟩
  case immediates =>
    have imm (o : Alu) := aluImmC_ready ready o d a (sext i)
    exact ⟨imm .add, imm .and, imm .or, imm .xor, execCShli_ready ready d a n, execCShri_ready ready d a n,
      execCSrai_ready ready d a n, execCLi_ready ready d j, execCLui_ready ready d j⟩

end Sys2Proof.Machine

/-! SUPPORT. What an A-stream instruction that only computes retires with once its registers are free, and O22. -/
namespace Sys2Proof.Machine

/-! ### Instructions that only compute on registers of the scoreboard (R129) -/

/-- With its tokens there and its registers free, an instruction whose body retires in any case does so. -/
theorem issue_withRegs_retires {st : StreamId} {y : BitVec 4} {s : State} {reads writes : List Nat}
    (ready : syncReady st y s = true) (free : RegsFree s (reads ++ writes)) (f : State → State) :
    issue st y s (fun t => withRegs t reads writes (.retire (f t))) = .next (retireAt st y (f (synced st y s))) := by
  rw [issue_ready ready, withRegs_free (free.synced st y)]
  rfl

section
variable {y : BitVec 4} {s : State} (ready : syncReady .A y s = true)
include ready

theorem aluA_ready {d a b : Reg} (free : RegsFree s [a.val, b.val, d.val]) (o : Alu) :
    aluA o y d a b s = .next (retireAt .A y ((synced .A y s).wa d (aluOp o (s.ra a) (s.ra b)))) := by
  rw [aluA, issue_withRegs_retires ready free, synced_ra, synced_ra]

theorem aluImmA_ready {d a : Reg} (free : RegsFree s [a.val, d.val]) (o : Alu) (imm : Word) :
    aluImmA o y d a imm s = .next (retireAt .A y ((synced .A y s).wa d (aluOp o (s.ra a) imm))) := by
  rw [aluImmA, issue_withRegs_retires ready free, synced_ra]

/-! ### What SHLI, SHRI, LI and LUI retire with (R77, R131) -/

theorem execAShli_ready {d a : Reg} (free : RegsFree s [a.val, d.val]) (n : BitVec 6) :
    execAShli y d a n s = .next (retireAt .A y ((synced .A y s).wa d (s.ra a <<< n.toNat))) := by
  rw [execAShli, aluImmA_ready ready free, aluOp_shl_zext]

theorem execAShri_ready {d a : Reg} (free : RegsFree s [a.val, d.val]) (n : BitVec 6) :
    execAShri y d a n s = .next (retireAt .A y ((synced .A y s).wa d (s.ra a >>> n.toNat))) := by
  rw [execAShri, aluImmA_ready ready free, aluOp_shr_zext]

theorem execALi_ready {d : Reg} (free : RegsFree s [d.val]) (i : BitVec 32) :
    execALi y d i s = .next (retireAt .A y ((synced .A y s).wa d (i.signExtend 64))) :=
  issue_withRegs_retires ready free _

theorem execALui_ready {d : Reg} (free : RegsFree s [d.val]) (i : BitVec 32) :
    execALui y d i s = .next (retireAt .A y ((synced .A y s).wa d (s.ra d <<< 32 ||| i.setWidth 64))) := by
  rw [execALui, issue_withRegs_retires ready free, synced_ra, zext]

end

/-- Settles O22: the register and immediate forms are `aluA` and `aluImmA`, which retire with `aluOp`, the table of R92;
the shifts by an immediate, LI and LUI have a lemma each, and NOP retires without a look at a register. -/
theorem aArithmeticResults : Obligations.AArithmeticResults := by
  refine ⟨fun y d a b s ready free => ?registers, fun y d a i n s ready free => ?immediates⟩
  case registers =>
    have alu (o : Alu) := aluA_ready ready free o
    exact ⟨alu .add, alu .sub, alu .and, alu .or, alu .xor, alu .shl, alu .shr, alu .sra, alu .mul, alu .min, alu .max,
      alu .seq, alu .sne, alu .slt, alu .sltu⟩
  case immediates =>
    have imm (o : Alu) := aluImmA_ready ready free o (sext i)
    have target : RegsFree s [d.val] := free.sub fun _ h => List.mem_cons_of_mem _ h
    exact ⟨imm .add, imm .and, execAShli_ready ready free n, execAShri_ready ready free n, execALi_ready ready target i,
      execALui_ready ready target i, issue_retires ready id⟩

end Sys2Proof.Machine

/-! SUPPORT. What an X-stream instruction that only computes retires with, and O35. -/
namespace Sys2Proof.Machine

/-- The word 1 or 0 that the test of `c` gives is a flag that holds exactly when `c` does. -/
theorem ite_word_beq_one (c : Prop) [Decidable c] : ((if c then 1 else 0 : Word) == 1) = decide c := by
  by_cases h : c <;> simp [h]

theorem bne_word_eq_decide (x z : Word) : (x != z) = decide (x ≠ z) := decide_not.symm

/-- A branch target of the X-stream lies a number of eight-byte words from the instruction (R171), whether or not the
instruction has taken its tokens. -/
theorem branchTarget_synced_X (y : BitVec 4) (s : State) (off : Word) :
    branchTarget .X (synced .X y s) off = s.core.x.pc + 8 * off := by
  rw [branchTarget, synced_pc, BitVec.mul_comm]
  rfl

section
variable {y : BitVec 4} {s : State} (ready : syncReady .X y s = true)
include ready

/-! ### Arithmetic, immediates and the count (R169, R174) -/

theorem aluX_ready (o : Alu) (d a b : Reg) :
    aluX o y d a b s = .next (retireAt .X y ((synced .X y s).wx d (aluOp o (s.rx a) (s.rx b)))) := by
  simp only [aluX, issue_retires ready, synced_rx]

theorem execXAddi_ready (d a : Reg) (i : BitVec 32) :
    execXAddi y d a i s = .next (retireAt .X y ((synced .X y s).wx d (s.rx a + i.signExtend 64))) := by
  simp only [execXAddi, issue_retires ready, synced_rx, sext]

theorem execXLi_ready (d : Reg) (i : BitVec 32) :
    execXLi y d i s = .next (retireAt .X y ((synced .X y s).wx d (i.signExtend 64))) :=
  issue_retires ready _

theorem execXLui_ready (d : Reg) (i : BitVec 32) :
    execXLui y d i s = .next (retireAt .X y ((synced .X y s).wx d (s.rx d <<< 32 ||| i.setWidth 64))) := by
  simp only [execXLui, issue_retires ready, synced_rx, zext]

theorem execXPcnt_ready (d : Reg) (p : PReg) :
    execXPcnt y d p s = .next (retireAt .X y ((synced .X y s).wx d
      (BitVec.ofNat 64 ((List.range 64).countP (fun i => (s.rp p).getLsbD i))))) := by
  simp only [execXPcnt, issue_retires ready, synced_rp, popCount_eq_countP]

/-! ### Compares (R170) -/

theorem cmpX_ready (o : Alu) (f : CFlag) (a b : Reg) :
    cmpX o y f a b s = .next (retireAt .X y ((synced .X y s).wflag f (aluOp o (s.rx a) (s.rx b) == 1))) := by
  simp only [cmpX, issue_retires ready, synced_rx]

theorem execXCmpeq_ready (f : CFlag) (a b : Reg) :
    execXCmpeq y f a b s = .next (retireAt .X y ((synced .X y s).wflag f (decide (s.rx a = s.rx b)))) := by
  rw [execXCmpeq, cmpX_ready ready, aluOp, ite_word_beq_one]

theorem execXCmplt_ready (f : CFlag) (a b : Reg) :
    execXCmplt y f a b s =
      .next (retireAt .X y ((synced .X y s).wflag f (decide ((s.rx a).toInt < (s.rx b).toInt)))) := by
  rw [execXCmplt, cmpX_ready ready, aluOp, ite_word_beq_one]

theorem execXCmple_ready (f : CFlag) (a b : Reg) :
    execXCmple y f a b s =
      .next (retireAt .X y ((synced .X y s).wflag f (decide ((s.rx a).toInt ≤ (s.rx b).toInt)))) := by
  rw [execXCmple, cmpX_ready ready, aluOp, ite_word_beq_one]

/-! ### Branch targets (R171) -/

theorem execXBtgt_ready (t : BtReg) (o : BitVec 32) :
    execXBtgt y t o s = .next (retireAt .X y ((synced .X y s).wbt t (s.core.x.pc + 8 * o.signExtend 64))) := by
  rw [execXBtgt, issue_retires ready, branchTarget_synced_X, sext]

theorem execXBtgtReg_ready (t : BtReg) (a : Reg) :
    execXBtgtReg y t a s = .next (retireAt .X y ((synced .X y s).wbt t (s.rx a))) := by
  rw [execXBtgtReg, issue_retires ready, synced_rx]

/-! ### Votes (R174) -/

/-- Without `.tape`, or off a recording tape, a vote records nothing. -/
theorem voteX_unrecorded {q : BitVec 4} (off : q = 0 ∨ s.core.tape.mode ≠ 1) (f : CFlag) (p : PReg) (vote : Word → Bool) :
    voteX y q f p vote s = .next (retireAt .X y ((synced .X y s).wflag f (vote (s.rp p)))) := by
  have unrecorded : ¬(q = 1 ∧ s.core.tape.mode = 1) := by
    rintro ⟨rfl, recording⟩
    exact off.elim (by decide) (· recording)
  rw [voteX, issue_ready ready, synced_core_tape, if_neg unrecorded, synced_rp]
  rfl

theorem execXVany_unrecorded {q : BitVec 4} (off : q = 0 ∨ s.core.tape.mode ≠ 1) (f : CFlag) (p : PReg) :
    execXVany y q f p s = .next (retireAt .X y ((synced .X y s).wflag f (decide (s.rp p ≠ 0)))) := by
  rw [execXVany, voteX_unrecorded ready off, bne_word_eq_decide]

theorem execXVall_unrecorded {q : BitVec 4} (off : q = 0 ∨ s.core.tape.mode ≠ 1) (f : CFlag) (p : PReg) :
    execXVall y q f p s =
      .next (retireAt .X y ((synced .X y s).wflag f (decide (s.rp p = BitVec.allOnes 64)))) :=
  voteX_unrecorded ready off f p _

end

/-- Settles O35: the register forms are `aluX`, which retires with `aluOp`, the table of R92; ADDI, LI, LUI, the compares,
BTGT, the votes and PCNT have a lemma each, and NOP retires with the state as it is. -/
theorem xScalarWork : Obligations.XScalarWork := by
  intro y q d a b f t p i s ready
  have alu (o : Alu) := aluX_ready ready o d a b
  exact ⟨alu .add, alu .sub, alu .and, alu .or, alu .xor, alu .shl, alu .shr, alu .sra, alu .mul, alu .min, alu .max,
    execXAddi_ready ready d a i, execXLi_ready ready d i, execXLui_ready ready d i,
    execXCmpeq_ready ready f a b, execXCmplt_ready ready f a b, execXCmple_ready ready f a b,
    execXBtgt_ready ready t i, execXBtgtReg_ready ready t a,
    fun off => ⟨execXVany_unrecorded ready off f p, execXVall_unrecorded ready off f p⟩,
    execXPcnt_ready ready d p, issue_retires ready id⟩

end Sys2Proof.Machine
